-- ==== Sys2Proof/Word.lean ====
section
/-! DEFINITION. The word types of the DLR-1664: bytes, 32-bit register words (R386), byte strings and
sparse tables held as plain data. -/

namespace Sys2Proof

/-- One byte of a format or of stored data (R10). -/
abbrev Byte := BitVec 8

/-- One 32-bit register word (R386). -/
abbrev Word := BitVec 32

/-- A byte string; the head of the list is byte 0, the first byte on the wire (R10). -/
abbrev Bytes := List Byte

/-- A sparse table: pairs of a key and an entry, keys strictly rising. -/
abbrev Tab (α : Type) := List (Nat × α)

end Sys2Proof
end

