-- ==== Sys2Proof/Machine/FrameTypes.lean ====
section
/-! DEFINITION. What reaches the device from outside: the interfaces that make a register access (R333, R397) and
Ethernet frames as the ports see them (R67 to R70, R76, R77, R84, R228). -/

namespace Sys2Proof.Machine

/-- The interface that makes an access: SPI, in band from a DKT session, firmware, or the device itself (R333). -/
inductive Iface where
  | spi
  | inBand (session : Nat)
  | firmware
  | device
  deriving DecidableEq, Repr

/-- One UDP datagram over IPv4 or IPv6 (R84). `udpLen` is the UDP length field; `csumZero` that the checksum
field is zero; `csumOk` that it verifies. -/
structure Datagram where
  v6 : Bool
  src : Nat
  dst : Nat
  fragment : Bool
  options : Bool
  srcPort : Nat
  dstPort : Nat
  udpLen : Nat
  csumZero : Bool
  csumOk : Bool
  payload : Bytes
  deriving DecidableEq, Repr

/-- What a frame carries behind its addresses and tags. -/
inductive FrameBody where
  /-- A MAC control frame: opcode, the PAUSE quanta, the PFC enable vector and the eight PFC times. -/
  | macControl (opcode quanta vector : Nat) (times : List Nat)
  /-- An ARP packet: whether a request, the sender's addresses and the target IPv4 address. -/
  | arp (request : Bool) (senderMac senderIp target : Nat)
  /-- An IPv6 neighbour solicitation for a target address. -/
  | solicit (senderIp target : Nat)
  /-- An IPv6 neighbour advertisement: a target address and the link-layer address that it names. -/
  | neighbour (target mac : Nat)
  /-- A UDP datagram. -/
  | udp (d : Datagram)
  /-- An IP packet that is no UDP datagram. -/
  | otherIp (v6 fragment options : Bool)
  /-- Anything else. -/
  | other
  deriving DecidableEq, Repr

/-- The SecTAG of a protected frame with its explicit SCI; `icvOk` is the outcome of the ICV check. -/
structure SecTag where
  sci : Nat
  an : Nat
  pn : Nat
  icvOk : Bool
  deriving DecidableEq, Repr

/-- A received frame: its port, its length as R67 counts it, its checks, addresses, tags and body. `etherType` is
the EtherType after any VLAN tag; a value below 0x600 is a length field. `fecCorr` and `fecUncorr` are the RS-FEC
codewords that were corrected, and found uncorrectable, since the frame before it (R79). -/
structure Frame where
  port : Nat
  len : Nat
  fcsOk : Bool
  errorBlock : Bool
  fecCorr : Nat
  fecUncorr : Nat
  dst : Nat
  src : Nat
  vlan : Option (Nat × Nat)
  etherType : Nat
  sec : Option SecTag
  body : FrameBody
  deriving DecidableEq, Repr

/-- What a read of a stored segment's grains gives (R259): the stored body as it was written, read at once, by soft
decode or by die-parity rebuild on a die; other bytes than were written; or nothing, with the die, row and codeword. -/
inductive MediaRead where
  | good
  | soft (die : Nat)
  | rebuilt (die row : Nat)
  | altered (body : Bytes)
  | lost (die row codeword : Nat)
  deriving DecidableEq, Repr

/-- What the scrubber finds of a unit of the match array and its shadow record (R301): equal; the unit differs; a
shadow error that cannot be corrected. A shadow with a single-bit error is corrected first and then compared. -/
inductive ScrubRead where
  | same
  | differs
  | shadowLost
  deriving DecidableEq, Repr

end Sys2Proof.Machine
end

