-- ==== Sys2Proof/Syntax.lean ====
section
/-! DEFINITION. The commands of the DLR-1664: one constructor for each row of the command table, with the operands that the
row's event carries. Times that merely pass are no operand: a timer's expiry is a command of its own. -/

namespace Sys2Proof

open Machine

/-- A command: what the outside, or a mechanism of the device, does next. Each constructor cites the rule of its row. -/
inductive Instr where
  /-- POWER_ON: the rails rise with RESET_N low; the device holds in phase RESET (R51). -/
  | powerOn
  /-- RESET_N_RISE: RESET_N rises and the straps are sampled (R43); `uv` and `ov` are masks of the rails outside their
  thresholds then (R402). -/
  | resetNRise (straps uv ov : Nat)
  /-- PIN_RESET: RESET_N has been low for 1 µs (R51). -/
  | pinReset
  /-- DEVICE_RESET: CHIP_RST_CTL.DEVICE is written with the key (R51, R62); `straps` are the levels that the following
  start samples (R43). -/
  | deviceReset (i : Iface) (straps : Nat)
  /-- DATAPATH_RESET: CHIP_RST_CTL.DATAPATH is written with the key (R51, R62). -/
  | datapathReset (i : Iface)
  /-- DATAPATH_RESET_DONE: the datapath reset completes (R51). -/
  | datapathResetDone
  /-- CORES_RESET: CHIP_RST_CTL.CORES is written with the key (R51, R52, R62). -/
  | coresReset (i : Iface)
  /-- CORES_RESET_DONE: the firmware runs again after a cores reset (R52). -/
  | coresResetDone
  /-- SHUTDOWN_FLUSH_DONE: the quiesce and flush of a pin reset, a device reset or an ordered shutdown reaches its
  marker (R51). -/
  | shutdownFlushDone
  /-- PHASE_AON: phase AON completes; `pfHigh` that PWR_FAIL_N is found high (R46, R47). -/
  | phaseAon (pfHigh : Bool)
  /-- PF_START_WAIT_DONE: PWR_FAIL_N has been high for 10 ms while the start waited in phase AON (R47). -/
  | pfStartWaitDone
  /-- PHASE_ROM: phase ROM completes (R44, R46, R161). -/
  | phaseRom
  /-- PHASE_FW: phase FW completes; `copyOk` that a copy of a staged image reads back, `ms` the time that it took
  (R347, R348). -/
  | phaseFw (copyOk : Bool) (ms : Nat)
  /-- PHASE_MEM: phase MEM completes (R46). -/
  | phaseMem
  /-- PHASE_MEDIA: phase MEDIA completes; `badA` and `badB` that a key-store copy cannot be read (R48, R49, R218). -/
  | phaseMedia (badA badB : Bool)
  /-- PHASE_IMAGE: phase IMAGE completes: a flash copy is applied, or the device waits for an SPI image (R41, R42). -/
  | phaseImage
  /-- PHASE_INDEX: phase INDEX completes; the lists are the checkpoint pages by LOC and the delta blocks by number that the
  media give otherwise than they were written, none where they stay unreadable (R177, R179). -/
  | phaseIndex (pages blocks : List (Nat × Option Bytes))
  /-- PHASE_META: phase META completes (R46, R48). -/
  | phaseMeta
  /-- PHASE_PORTS: phase PORTS completes (R46). -/
  | phasePorts
  /-- PHASE_RUN: the start reaches RUN and asserts READY (R46). -/
  | phaseRun
  /-- PF_GLITCH: PWR_FAIL_N was low for less than 0.5 µs (R55). -/
  | pfGlitch
  /-- PWR_FAIL: a fall of PWR_FAIL_N is recognised (R55, R56). -/
  | pwrFail
  /-- FLUSH_ADMISSION_STOP: event 3 of the power-fail flush: admission stops (R56). -/
  | flushAdmissionStop
  /-- FLUSH_STAGING_CUTOFF: event 4: the staging cut-off (R56). -/
  | flushStagingCutoff
  /-- FLUSH_DIES_READY: event 5: the dies are ready and the header is programmed (R56). -/
  | flushDiesReady
  /-- FLUSH_STAGING_WRITTEN: event 6: the staging is written, with `retries` programs repeated (R56, R59). -/
  | flushStagingWritten (retries : Nat)
  /-- FLUSH_METADATA_WRITTEN: event 7: deltas, windows, Chain heads, Furlong tails, counters and erase marks are
  written (R56, R215). -/
  | flushMetadataWritten
  /-- FLUSH_JOURNAL_WRITTEN: event 8: the journal and the PWR_FAIL record are written (R56). -/
  | flushJournalWritten
  /-- FLUSH_COMPLETE: event 9: the marker is programmed and read back (R56, R59). -/
  | flushComplete
  /-- FLUSH_OVERTIME: the flush has run for 12 ms (R59). -/
  | flushOvertime
  /-- RAILS_LOST: the rails leave specification; where staging was being written, its first `k` items are in flash
  (R49, R59). -/
  | railsLost (k : Nat)
  /-- HALT_EXIT: PWR_FAIL_N has been high for 10 ms in HALT (R60); `straps` are the levels that the start samples. -/
  | haltExit (straps : Nat)
  /-- IMG_OPEN: MGMT_IMG_CTL.OPEN is written (R37, R39). -/
  | imgOpen (i : Iface)
  /-- IMG_DATA: four image bytes are written (R39). -/
  | imgData (i : Iface) (w : Nat)
  /-- IMG_APPLY: MGMT_IMG_CTL.APPLY is written (R39). -/
  | imgApply (i : Iface)
  /-- IMG_STORE: MGMT_IMG_CTL.STORE is written (R39, R40). -/
  | imgStore (i : Iface)
  /-- IMG_ABORT: MGMT_IMG_CTL.ABORT is written (R38, R39). -/
  | imgAbort (i : Iface)
  /-- IMG_CHECK_DONE: the staged checks of the received image end (R33 to R36). -/
  | imgCheckDone
  /-- IMG_STORE_DONE: the flash copy is written and read back (R39, R40). -/
  | imgStoreDone
  /-- LINK_SIGNAL_DETECT: signal is detected on every lane of port `n` (R66). -/
  | linkSignalDetect (n : Nat)
  /-- POLARITY_TIMER: a lane's 2 ms polarity timer expires without lock (R65). -/
  | polarityTimer (lane : Nat)
  /-- POLARITY_ERROR_BLOCKS: more than 32 of 64 blocks of a lane in Q10 are error blocks (R65). -/
  | polarityErrorBlocks (lane : Nat)
  /-- LANE_LOCK: every lane of port `n` is locked; `fec` is the FEC lane found on each physical lane in S100 (R64,
  R66). -/
  | laneLock (n : Nat) (fec : List Nat)
  /-- LINK_HOLD_DONE: lock has held for 1 ms without fault (R66). -/
  | linkHoldDone (n : Nat)
  /-- LINK_FAULT: lock is lost (`cause` 0), or hi_ber (1) or a local fault (2) appears (R66). -/
  | linkFault (n cause : Nat)
  /-- LINK_SIGNAL_LOSS: signal is lost on a lane (R66). -/
  | linkSignalLoss (lane : Nat)
  /-- REMOTE_FAULT_RX: Remote Fault is received (R66). -/
  | remoteFaultRx (n : Nat)
  /-- REMOTE_FAULT_CLEAR: no Remote Fault has been received for 1 ms (R66). -/
  | remoteFaultClear (n : Nat)
  /-- RX_FRAME: a frame has been received (R67 to R71, R76, R77, R84, R89, R228). -/
  | rxFrame (f : Frame)
  /-- XOFF_REPEAT: half the XOFF quanta of port `n` have passed (R72). -/
  | xoffRepeat (n : Nat)
  /-- PAUSE_RX: a PAUSE frame has been received (R76). -/
  | pauseRx (f : Frame)
  /-- PFC_RX: a PFC frame has been received (R77). -/
  | pfcRx (f : Frame)
  /-- PAUSE_EXPIRY: the pause of port `n`, or of one of its priorities, expires (R76, R77). -/
  | pauseExpiry (n : Nat) (prio : Option Nat)
  /-- TX_FRAME_START: port `n` may begin its next frame (R73, R78). -/
  | txFrameStart (n : Nat)
  /-- TX_UNDERRUN: the FIFO of a cut-through frame ran empty after `sent` bytes (R74). -/
  | txUnderrun (n sent : Nat)
  /-- CT_RESTORE: EP0_TX_CTL.CT_RESTORE is written (R74). -/
  | ctRestore (i : Iface)
  /-- STAT_CLEAR: EPn_STAT_CTL.CLEAR is written (R80). -/
  | statClear (i : Iface) (n : Nat)
  /-- OPEN: an OPEN packet is taken from the pool (R90, R93). -/
  | openPkt (pid : Nat)
  /-- PROOF: a PROOF packet is taken from the pool (R92, R94). -/
  | proofPkt (pid : Nat)
  /-- OPEN_TICKET: an OPEN_TICKET packet is taken from the pool (R106). -/
  | openTicket (pid : Nat)
  /-- OPEN_TIMER_EXPIRY: the open timer of a session expires (R104). -/
  | openTimerExpiry (sid : Nat)
  /-- DATA: a DATA packet is taken from the pool (R95 to R98). -/
  | dataPkt (pid : Nat)
  /-- ACK: an ACK packet is taken from the pool (R100, R101). -/
  | ackPkt (pid : Nat)
  /-- KEEPALIVE: a KEEPALIVE packet is taken from the pool (R102). -/
  | keepalivePkt (pid : Nat)
  /-- CLOSE: a CLOSE packet is taken from the pool (R104). -/
  | closePkt (pid : Nat)
  /-- RETX_TIMEOUT: the retransmission timer of a session expires (R100). -/
  | retxTimeout (sid : Nat)
  /-- KEEPALIVE_SEND: a session has sent nothing for KA_INTERVAL (R102). -/
  | keepaliveSend (sid : Nat)
  /-- KEEPALIVE_LOSS: nothing has come on a session for KA_LIMIT intervals (R102). -/
  | keepaliveLoss (sid : Nat)
  /-- SESS_KILL: DKT_SESS_KILL is written with the key (R103). -/
  | sessKill (i : Iface) (sid : Nat)
  /-- ARB_WINDOW: a 1 ms arbitration window begins (R116). -/
  | arbWindow
  /-- DISPATCH: one dispatch opportunity (R118, R120). -/
  | dispatch
  /-- COMMAND_TIMEOUT: the TIMEOUT of the queued command of arrival number `n` has passed (R121). -/
  | commandTimeout (n : Nat)
  /-- STAGING_COMPLETE: the write in context `ctx` has every segment in place and commits (R17, R200). -/
  | stagingComplete (ctx : Nat)
  /-- GET: runs the dispatched GET of a context (R140); `hdrs` are the value headers, by LOC, that the media give
  otherwise than they were stored (R201), here and in the reads below. -/
  | get (ctx : Nat) (hdrs : List (Nat × Bytes))
  /-- PUT: runs the dispatched PUT of a context (R140). -/
  | put (ctx : Nat)
  /-- DELETE: runs the dispatched DELETE of a context (R146, R168). -/
  | delete (ctx : Nat)
  /-- EXISTS: runs the dispatched EXISTS of a context (R140). -/
  | existsKey (ctx : Nat) (hdrs : List (Nat × Bytes))
  /-- CAS_PUT: runs the dispatched CAS_PUT of a context (R141). -/
  | casPut (ctx : Nat)
  /-- GET_RANGE: runs the dispatched GET_RANGE of a context (R140). -/
  | getRange (ctx : Nat) (hdrs : List (Nat × Bytes))
  /-- ITERATE: runs the dispatched ITERATE of a context (R142, R183). -/
  | iterate (ctx : Nat) (hdrs : List (Nat × Bytes))
  /-- EXTENT_WRITE: runs the dispatched EXTENT_WRITE of a context (R144). -/
  | extentWrite (ctx : Nat)
  /-- EXTENT_READ: runs the dispatched EXTENT_READ of a context (R143). -/
  | extentRead (ctx : Nat) (hdrs : List (Nat × Bytes))
  /-- DISCARD: runs the dispatched DISCARD of a context (R145). -/
  | discard (ctx : Nat)
  /-- STREAM_APPEND: runs the dispatched STREAM_APPEND of a context (R271, R272). -/
  | streamAppend (ctx : Nat)
  /-- STREAM_SCAN: runs the dispatched STREAM_SCAN of a context (R274, R275). -/
  | streamScan (ctx : Nat) (hdrs : List (Nat × Bytes) := [])
  /-- FATHOM_PIN: runs the dispatched FATHOM_PIN of a context (R276). -/
  | fathomPin (ctx : Nat)
  /-- FATHOM_RELEASE: runs the dispatched FATHOM_RELEASE of a context (R279). -/
  | fathomRelease (ctx : Nat)
  /-- CHAIN_APPEND: runs the dispatched CHAIN_APPEND of a context (R282, R283). -/
  | chainAppend (ctx : Nat)
  /-- CHAIN_READ: runs the dispatched CHAIN_READ of a context (R285). -/
  | chainRead (ctx : Nat) (hdrs : List (Nat × Bytes) := [])
  /-- CHAIN_SEAL: runs the dispatched CHAIN_SEAL of a context (R283, R284). -/
  | chainSeal (ctx : Nat)
  /-- CHAIN_EXPIRE: runs the dispatched CHAIN_EXPIRE of a context (R287). -/
  | chainExpire (ctx : Nat)
  /-- QUIRE: runs the dispatched QUIRE of a context (R128). -/
  | quire (ctx : Nat)
  /-- FLUSH: runs the dispatched FLUSH of a context (R130). -/
  | flush (ctx : Nat)
  /-- NS_CREATE: runs the dispatched NS_CREATE of a context (R151). -/
  | nsCreate (ctx : Nat)
  /-- NS_DELETE: runs the dispatched NS_DELETE of a context (R153). -/
  | nsDelete (ctx : Nat)
  /-- NS_QUERY: runs the dispatched NS_QUERY of a context (R157, R158). -/
  | nsQuery (ctx : Nat)
  /-- KEYSLOT_LOAD: runs the dispatched KEYSLOT_LOAD of a context (R211). -/
  | keyslotLoad (ctx : Nat)
  /-- KEYSTORE_COMMIT: both key-store copies have committed the oldest load (R212, R214). -/
  | keystoreCommit
  /-- KEYSLOT_ERASE: runs the dispatched KEYSLOT_ERASE of a context (R215). -/
  | keyslotErase (ctx : Nat)
  /-- FW_STAGE: runs the dispatched FW_STAGE of a context (R346). -/
  | fwStage (ctx : Nat)
  /-- FW_STAGE_WRITE_DONE: the staging write ends; `ok` that it reads back (R347). -/
  | fwStageWriteDone (ok : Bool)
  /-- FW_ACTIVATE: runs the dispatched FW_ACTIVATE of a context (R349). -/
  | fwActivate (ctx : Nat)
  /-- FW_READY: the new firmware reports ready (R349). -/
  | fwReady
  /-- FW_READY_TIMEOUT: the new firmware is not ready 150 ms into the pause (R350). -/
  | fwReadyTimeout
  /-- POWER_SET: runs the dispatched POWER_SET of a context (R358, R361, R362). -/
  | powerSet (ctx : Nat)
  /-- HEALTH_READ: runs the dispatched HEALTH_READ of a context (R267). -/
  | healthRead (ctx : Nat)
  /-- JOURNAL_READ: runs the dispatched JOURNAL_READ of a context; `bad` are the slots whose CRC fails, by SEQ (R332, R339). -/
  | journalRead (ctx : Nat) (bad : List Nat := [])
  /-- REG_READ: runs the dispatched REG_READ of a context (R393). -/
  | regRead (ctx : Nat)
  /-- REG_WRITE: runs the dispatched REG_WRITE of a context (R393). -/
  | regWrite (ctx : Nat)
  /-- LG_JOIN: runs the dispatched LG_JOIN of a context (R315). -/
  | lgJoin (ctx : Nat)
  /-- LG_KEEPALIVE: runs the dispatched LG_KEEPALIVE of a context (R316). -/
  | lgKeepalive (ctx : Nat)
  /-- LG_DIR_SET: runs the dispatched LG_DIR_SET of a context (R319). -/
  | lgDirSet (ctx : Nat)
  /-- LG_FENCE: runs the dispatched LG_FENCE of a context (R323). -/
  | lgFence (ctx : Nat)
  /-- LG_REPLICATE: the first packet of an LG_REPLICATE is taken from the pool: a mirror runs the write that it
  carries (R314, R327). -/
  | lgReplicate (pid : Nat)
  /-- LG_RELAY: the first packet of an LG_RELAY is taken from the pool: a primary runs the command that it carries
  (R314, R325). -/
  | lgRelay (pid : Nat)
  /-- LG_LEAVE: runs the dispatched LG_LEAVE of a context (R317). -/
  | lgLeave (ctx : Nat)
  /-- RELAY_RESPONSE: a member's response to a relayed command is whole (R325). -/
  | relayResponse (sid tag : Nat)
  /-- REPLICATE_RESPONSE: the mirror's answer to a replication is whole (R328). -/
  | replicateResponse (sid tag : Nat)
  /-- LG_JOIN_RETRY: 100 ms have passed since a League open or join failed (R315). -/
  | lgJoinRetry
  /-- LG_KEEPALIVE_SEND: 10 ms have passed since the last LG_KEEPALIVE (R316). -/
  | lgKeepaliveSend
  /-- LG_KEEPALIVE_MISS: 10 ms have passed without a keepalive of member `id` (R316, R317). -/
  | lgKeepaliveMiss (id : Nat)
  /-- DIR_COMMIT: LGE_DIR_CTL.COMMIT is written with POS (R319). -/
  | dirCommit (i : Iface) (pos : Nat)
  /-- DIR_CLEAR: LGE_DIR_CTL.CLEAR is written with POS (R319). -/
  | dirClear (i : Iface) (pos : Nat)
  /-- DIR_RESTORE: the lost rule entry at a unit address is rewritten (R320). -/
  | dirRestore (a : Nat)
  /-- MAT_ENT_WRITE: MAT_ENT_CTL.WRITE is written (R300). -/
  | matEntWrite (i : Iface)
  /-- MAT_ENT_READ: MAT_ENT_CTL.READ is written (R300). -/
  | matEntRead (i : Iface)
  /-- MAT_ENT_CLEAR: MAT_ENT_CTL.CLEAR is written (R300). -/
  | matEntClear (i : Iface)
  /-- MAT_SEARCH: MAT_SRCH_CTL.GO is written with PROFILE (R299). -/
  | matSearch (i : Iface) (profile : Nat)
  /-- SCRUB_STEP: 256 core cycles have passed and the scrubber reads its next unit (R301). -/
  | scrubStep (r : ScrubRead)
  /-- ROD_SLOT: a Rod slot begins; `word` is what a deputy receives in it (R303, R305). -/
  | rodSlot (word : Option Nat)
  /-- ROD_TOKEN: a token arrives on MATCH_IN (R304). -/
  | rodToken (token : Nat)
  /-- TOKEN_LOST: the oldest search's token is not back within 1,000 ns (R306). -/
  | tokenLost
  /-- ROD_FULL: the head sees ROD_FULL change its level (R305). -/
  | rodFull (low : Bool)
  /-- ROD_ALIVE_UP: ROD_ALIVE has been high for 1 ms (R306). -/
  | rodAliveUp
  /-- ROD_ALIVE_LOW: ROD_ALIVE goes low (R306). -/
  | rodAliveLow
  /-- ROD_CLK_LOST: a deputy has seen no ROD_CLK edge for 100 ns (R306). -/
  | rodClkLost
  /-- ROD_CHECK: ROD_CTL.CHECK is written (R306). -/
  | rodCheck (i : Iface)
  /-- ROD_CHECK_DONE: the line check finishes; `first` to `third` are the 34 samples of the 17 lines that the deputies at
  positions 1 to 3 returned, none of one that is absent, and `back` is whether the tokens of the patterns came back (R306,
  R307). -/
  | rodCheckDone (first second third : List Nat) (back : Bool)
  /-- ROD_CHECK_RETRY: 10 s have passed since a failed line check (R306). -/
  | rodCheckRetry
  /-- CHECKPOINT_BEGIN: the delta block number is a multiple of 8,192 (R175). -/
  | checkpointBegin
  /-- CHECKPOINT_COMMIT: the commit page is programmed and read back (R175). -/
  | checkpointCommit
  /-- CP_FORCE: IDX_CP_CTL.FORCE is written (R175). -/
  | cpForce (i : Iface)
  /-- RESCAN: IDX_CTL.RESCAN is written with the key (R179). -/
  | rescan (i : Iface)
  /-- INDEX_REBUILD_DONE: a rebuild or rescan of the index completes; the lists are as in PHASE_INDEX (R179, R180). -/
  | indexRebuildDone (pages blocks : List (Nat × Option Bytes))
  /-- PURGE_DONE: the purge sweep of a namespace ends (R154). -/
  | purgeDone
  /-- SEGMENT_COMPRESSED: a CZ engine finishes its segment with a stream (R191, R192). -/
  | segmentCompressed (engine : Nat) (stream : Bytes)
  /-- SEGMENT_SEALED: an AE lane finishes sealing its segment (R194). -/
  | segmentSealed (lane : Nat)
  /-- SEGMENT_CHECKED: the segment at a place of a context's read is read and checked (R201, R202). -/
  | segmentChecked (ctx pos : Nat) (r : MediaRead)
  /-- NS_POLICY_WRITE: VPL_NS_POLICY is written (R149, R207). -/
  | nsPolicyWrite (i : Iface) (w : Nat)
  /-- KLOAD_DATA: SEC_KLOAD_DATA is written over SPI (R211). -/
  | kloadData (w : Nat)
  /-- KLOAD_GO: SEC_KLOAD_CTL.GO is written over SPI (R211). -/
  | kloadGo (slot policy priv : Nat)
  /-- ALARM: tamper sources trip; `active` are those whose condition holds at the present sample (R219 to R222). -/
  | alarm (src active : Nat)
  /-- CRYPTO_ERASE_DONE: both key-store copies have been erased (R222). -/
  | cryptoEraseDone
  /-- UNLOCK: SEC_UNLOCK_CTL.GO is written over SPI; `sources` are those whose condition holds at the present sample
  (R223). -/
  | unlock (sources : Nat)
  /-- UNLOCK_BLOCK_EXPIRY: 1 s has passed since a failed unlock (R223). -/
  | unlockBlockExpiry
  /-- SA_INSTALL: SEC_MSA_CTL.INSTALL is written (R225, R226). -/
  | saInstall (i : Iface)
  /-- SA_CLEAR: SEC_MSA_CTL.CLEAR is written (R229). -/
  | saClear (i : Iface)
  /-- SA_ACTIVATE: SEC_MSA_CTL.ACTIVATE is written (R227). -/
  | saActivate (i : Iface)
  /-- TOD_ARM: SEC_TOD_NEXT_HI is written (R230). -/
  | todArm (i : Iface) (w : Nat)
  /-- PPS_EDGE: a rising edge of PPS_IN (R230, R231). -/
  | ppsEdge
  /-- SRC_LOST_SET: SEC_TOD_CTL.SRC_LOST is written 1 (R231). -/
  | srcLostSet (i : Iface)
  /-- TIME_HOLDOVER: no armed edge has come for 2.5 s (R231). -/
  | timeHoldover
  /-- TIME_UNTRUSTED: holdover reaches HOLD_LIMIT (R231). -/
  | timeUntrusted
  /-- TIME_SAVE: 60 s have passed since SEC saved the time (R231). -/
  | timeSave
  /-- PPS_OUT_RISE: a whole second of device time begins (R230). -/
  | ppsOutRise
  /-- PPS_OUT_FALL: PPS_OUT has been high for 100 ms (R230). -/
  | ppsOutFall
  /-- GROUP_COMMIT: every die of the program group of Bushel `b` reports success (R238, R247). -/
  | groupCommit (b : Nat)
  /-- STAGING_AGE_TIMER: the oldest staged data of head `h` has waited 1 s (R247). -/
  | stagingAgeTimer (h : Nat)
  /-- PARK_TIMEOUT: the parked Bushel `b` has had no head for 60 s (R248). -/
  | parkTimeout (b : Nat)
  /-- PROG_FAIL: a program on a die of Bushel `b` fails (R260). -/
  | progFail (b die : Nat)
  /-- ERASE_DONE: every block of Bushel `b` is erased (R252). -/
  | eraseDone (b : Nat)
  /-- ERASE_FAIL: an erase on a die of Bushel `b` fails (R252). -/
  | eraseFail (b die : Nat)
  /-- COLLECTION_DONE: the items of the victim `b` have been copied and committed; `bad` is the LOC of one that cannot
  be read (R255, R261). -/
  | collectionDone (b : Nat) (bad : Option Nat)
  /-- GC_REQ: FMM_GC_REQ.GO is written with BUSHEL (R254). -/
  | gcReq (i : Iface) (b : Nat)
  /-- FOLD_GO: FMM_CTL.FOLD_GO is written (R250). -/
  | foldGo (i : Iface)
  /-- FOLD_STOP: FMM_CTL.FOLD_STOP is written (R250). -/
  | foldStop (i : Iface)
  /-- WEAR_STEP: firmware calls a wear step (R258). -/
  | wearStep
  /-- PATROL_STEP: patrol reads the next page set: most bits corrected in a codeword, codewords corrected, and what
  the read gave (R264). -/
  | patrolStep (corr cws : Nat) (r : MediaRead)
  /-- DIE_LOST: a die stops answering (R260). -/
  | dieLost (die : Nat)
  /-- TRIG_SAMPLE: the microsecond's sample of trigger input `t`, in mV (R374). -/
  | trigSample (t mv : Nat)
  /-- TRIG_FIRE: trigger `t` has read ACTIVE for its debounce (R277, R374). -/
  | trigFire (t : Nat)
  /-- TRIG_FAULT: a fault state of trigger `t` has held for 10 ms (R375). -/
  | trigFault (t : Nat)
  /-- TRIG_CLEAR: the faulted trigger `t` has read IDLE for 100 ms (R375). -/
  | trigClear (t : Nat)
  /-- JOURNAL_DRAIN: one part drains from the intake FIFO into the ring (R335). -/
  | journalDrain
  /-- JOURNAL_PAGE_PROGRAM: the journal head programs a page of parts (R337, R338). -/
  | journalPageProgram
  /-- JOURNAL_PERSIST: EVJ_CTL.PERSIST is written (R337). -/
  | journalPersist (i : Iface)
  /-- JOURNAL_RD: EVJ_RD_CTL.GO is written; `bad` are the slots whose CRC fails, by SEQ (R332, R340). -/
  | journalRd (i : Iface) (bad : List Nat := [])
  /-- FW_LOAD_OPEN: FWC_LOAD_CTL.OPEN is written over SPI (R352). -/
  | fwLoadOpen
  /-- FW_LOAD_DATA: FWC_LOAD_DATA is written over SPI (R352). -/
  | fwLoadData (w : Nat)
  /-- FW_LOAD_GO: FWC_LOAD_CTL.GO is written over SPI (R352). -/
  | fwLoadGo
  /-- FW_LOAD_ABORT: FWC_LOAD_CTL.ABORT is written over SPI (R352). -/
  | fwLoadAbort
  /-- WDOG_KICK: firmware writes FWC_WDOG.KICK for a cluster (R351). -/
  | wdogKick (cluster : Nat)
  /-- WDOG_EXPIRY: a cluster has missed its watchdog period (R351). -/
  | wdogExpiry (cluster : Nat)
  /-- FW_POLICY_WRITE: the policy register `k` (0 GC_AB, 1 GC_C, 2 AREF, 3 PATROL) is written (R342). -/
  | fwPolicyWrite (i : Iface) (k w : Nat)
  /-- PWR_REQ: PWR_REQ.GO is written with DOMAIN `n` and STATE (R361, R362). -/
  | pwrReq (i : Iface) (n state : Nat)
  /-- DOMAIN_DRAINED: the work inside domain `n` completes (R358). -/
  | domainDrained (n : Nat)
  /-- DOMAIN_SEQ_DONE: domain `n` reaches its requested state (R358, R361). -/
  | domainSeqDone (n : Nat)
  /-- CLOCK_LOST: clock or PLL `c`, numbered as in CLK_STATUS, is lost (R219, R368). -/
  | clockLost (c : Nat)
  /-- CLOCK_RESTORED: clock or PLL `c` returns (R368). -/
  | clockRestored (c : Nat)
  /-- RAIL_TRIP: a rail has been beyond a threshold for 10 µs (R376, R377). -/
  | railTrip (rail : Nat) (beyond : Bool)
  /-- THERMAL_SAMPLE: the millisecond's samples of the thermal sites, in °C; none for a site that returned no sample
  (R378). -/
  | thermalSample (temps : List (Option Int))
  /-- THERMAL_SITE_FAIL: a thermal site has returned no sample for 10 ms (R379). -/
  | thermalSiteFail (site : Nat)
  /-- PF_STUCK: PWR_FAIL_N has been low for 5 s with every rail good (R380). -/
  | pfStuck
  /-- PF_IGNORE_SET: SUP_PF_CTL is written over SPI with the key and IGNORE (R381). -/
  | pfIgnoreSet
  /-- LANE_STUCK: port `n` has been in SEEK for 10 s with signal on every lane (R382). -/
  | laneStuck (n : Nat)
  /-- ACT_TIMEOUT: 50 ms have passed since ACT0 or ACT1 was last driven (R400). -/
  | actTimeout (n : Nat)
  /-- SPI_NOP: an SPI frame that is neither a READ nor a WRITE: a NOP where CMD is 0x5A (R390, R391). -/
  | spiNop (clocks cmd addr data crc : Nat)
  /-- SPI_READ: an SPI READ frame (R390 to R392). -/
  | spiRead (clocks addr data crc : Nat)
  /-- SPI_WRITE: an SPI WRITE frame (R390 to R392). -/
  | spiWrite (clocks addr data crc : Nat)
  /-- REG_WRITE_WORD: a word is written to the register at an address (R12, R388). -/
  | regWriteWord (i : Iface) (a w : Nat)
  /-- LATCHED_READ: the LO word of a register pair is read (R387). -/
  | latchedRead (i : Iface) (a : Nat)
  /-- RC_READ: a register is read; its RC fields clear (R12, R13). -/
  | rcRead (i : Iface) (a : Nat)
  /-- RAILS_IN_RANGE: every rail has been inside its thresholds for 1 ms (R402). -/
  | railsInRange
  /-- NS_TABLE_COMMIT: the namespace-table write of a context commits (R152, R153). -/
  | nsTableCommit (ctx : Nat)
  /-- WINDOW_TABLE_COMMIT: the oldest window-table write commits (R276, R279, R280). -/
  | windowTableCommit
  /-- KEY_ERASE_COMMIT: the oldest erase is written and its slot is gone from both key-store copies (R215). -/
  | keyEraseCommit
  /-- CHALLENGE: a CHALLENGE answers this device's own open (R91). -/
  | challengePkt (pid : Nat)
  /-- ACCEPT: an ACCEPT answers this device's own open (R92). -/
  | acceptPkt (pid : Nat)
  /-- REFUSE: a REFUSE answers this device's own open (R315). -/
  | refusePkt (pid : Nat)
  /-- STALE_WALK_DONE: the walk of the STALE Bushel `b` ends (R251). -/
  | staleWalkDone (b : Nat)
  /-- PURGE_SWEEP_STEP: the purge sweep examines its next unit (R154, R181). -/
  | purgeSweepStep
  /-- SEGMENT_REMOVAL: the next stale segment entry of a deleted Extent object is removed (R146, R182). -/
  | segmentRemoval
  deriving DecidableEq, Repr

end Sys2Proof
end

