-- ==== Sys2Proof/Decode.lean ====
section
/-! DEFINITION. The command table gives no row any bits: a command is no word of a memory, so none decodes. -/

namespace Sys2Proof

/-- The command that a word of `nbits` bits spells: none, since no row of the command table has bits. -/
def decodeTableWord (_nbits _w : Nat) : Option Instr := none

end Sys2Proof
end

