-- ==== Sys2Proof/Machine/Bytes.lean ====
section
/-! DEFINITION. Byte strings and bit fields: most significant byte first (R10), fields written [hi:lo] (R9). -/

namespace Sys2Proof.Machine

/-- The low eight bits of a number as a byte. -/
def byte (n : Nat) : Byte := BitVec.ofNat 8 n

/-- `n` bytes of a number, most significant byte first (R10). -/
def be : Nat → Nat → Bytes
  | 0, _ => []
  | n + 1, v => byte (v / 256 ^ n) :: be n v

/-- The number a byte string carries, most significant byte first (R10). -/
def beVal (b : Bytes) : Nat := b.foldl (fun a x => a * 256 + x.toNat) 0

/-- The `len` bytes at `off`. -/
def slice (b : Bytes) (off len : Nat) : Bytes := (b.drop off).take len

/-- The number in the `len` bytes at `off`, network order. -/
def num (b : Bytes) (off len : Nat) : Nat := beVal (slice b off len)

/-- `n` zero bytes. -/
def zeros (n : Nat) : Bytes := List.replicate n 0

/-- The string cut or filled with zero bytes to length `n`. -/
def padTo (n : Nat) (b : Bytes) : Bytes := (b ++ zeros (n - b.length)).take n

/-- Bits [hi:lo] of a number (R9). -/
def bits (v hi lo : Nat) : Nat := v / 2 ^ lo % 2 ^ (hi + 1 - lo)

/-- Bit `i` of a number. -/
def bit (v i : Nat) : Bool := v / 2 ^ i % 2 == 1

/-- One bit as a number. -/
def b2n (b : Bool) : Nat := if b then 1 else 0

/-- Whether every byte of a string is zero. -/
def allZero (b : Bytes) : Bool := b.all (· == 0)

/-- `data` written over `b` from `off` on; bytes between the end of `b` and `off` become zero. -/
def overlay (b : Bytes) (off : Nat) (data : Bytes) : Bytes :=
  padTo off b ++ data ++ b.drop (off + data.length)

/-- Byte strings in ascending byte order, a proper prefix before the longer string. -/
def bytesLt : Bytes → Bytes → Bool
  | [], [] => false
  | [], _ :: _ => true
  | _ :: _, [] => false
  | x :: xs, y :: ys => x.toNat < y.toNat || (x == y && bytesLt xs ys)

/-- Bytes xor bytes, over the shorter length. -/
def xorBytes (a b : Bytes) : Bytes := List.zipWith (· ^^^ ·) a b

/-- The number a list of bits carries, first bit most significant. -/
def ofBits (l : List Bool) : Nat := l.foldl (fun a b => 2 * a + b2n b) 0

/-- The bytes cut into chunks of `n` (the last may be shorter); `fuel` bounds the number of chunks. -/
def chunksAux (n : Nat) : Nat → Bytes → List Bytes
  | 0, _ => []
  | fuel + 1, b => if b.isEmpty then [] else b.take n :: chunksAux n fuel (b.drop n)

/-- The bytes cut into chunks of `n` bytes, the last possibly shorter. -/
def chunks (n : Nat) (b : Bytes) : List Bytes := chunksAux n b.length b

/-- Round a division up. -/
def ceilDiv (a b : Nat) : Nat := (a + b - 1) / b

/-- A number that counts up and stops at `top` (a saturating counter). -/
def satAdd (top a b : Nat) : Nat := min top (a + b)

end Sys2Proof.Machine
end

