-- ==== Sys2Proof/Machine/Crypto.lean ====
section
/-! DEFINITION. The check values, hashes, ciphers and signatures that the spec names (R86, R166, R195, R210, R217,
R282, R343, R391). PRESUMED (log entry 3): the algorithms are those of the public standards the spec names; it does
not spell them out. -/

set_option cleanup.letToHave false

namespace Sys2Proof.Machine

/-! ## Cyclic redundancy checks -/

/-- One byte of a reflected CRC of 32 bits with the given reflected polynomial. -/
def crcStep32 (poly : Nat) (crc : Nat) (b : Byte) : Nat :=
  (List.range 8).foldl (fun c _ => if c % 2 = 1 then (c / 2) ^^^ poly else c / 2) (crc ^^^ b.toNat)

/-- CRC-32C: polynomial 0x1EDC_6F41 reflected, initial value and final XOR all ones (R86). -/
def crc32c (b : Bytes) : Nat := (b.foldl (crcStep32 0x82F63B78) 0xFFFFFFFF) ^^^ 0xFFFFFFFF

/-- One byte of CRC-8, polynomial 0x1D, not reflected. -/
def crcStep8 (crc : Nat) (b : Byte) : Nat :=
  (List.range 8).foldl (fun c _ => if c ≥ 128 then ((c * 2) ^^^ 0x1D) % 256 else c * 2) (crc ^^^ b.toNat)

/-- CRC-8/SAE-J1850 of an SPI frame: initial value and final XOR all ones (R391). -/
def crc8 (b : Bytes) : Nat := (b.foldl crcStep8 0xFF) ^^^ 0xFF

/-! ## SHA-256 and HMAC -/

/-- Rotate a 32-bit number right. -/
def rotr32 (x : Nat) (n : Nat) : Nat := (x >>> n) ||| ((x <<< (32 - n)) % 4294967296)

/-- The 64 round constants, eight hexadecimal digits each, first constant most significant. -/
def sha256K : Nat :=
  0x428a2f9871374491b5c0fbcfe9b5dba53956c25b59f111f1923f82a4ab1c5ed5d807aa9812835b01243185be550c7dc372be5d7480deb1fe9bdc06a7c19bf174e49b69c1efbe47860fc19dc6240ca1cc2de92c6f4a7484aa5cb0a9dc76f988da983e5152a831c66db00327c8bf597fc7c6e00bf3d5a7914706ca63511429296727b70a852e1b21384d2c6dfc53380d13650a7354766a0abb81c2c92e92722c85a2bfe8a1a81a664bc24b8b70c76c51a3d192e819d6990624f40e3585106aa07019a4c1161e376c082748774c34b0bcb5391c0cb34ed8aa4a5b9cca4f682e6ff3748f82ee78a5636f84c878148cc7020890befffaa4506cebbef9a3f7c67178f2

/-- Round constant `t`. -/
def sha256Kt (t : Nat) : Nat := (sha256K >>> (32 * (63 - t))) % 4294967296

/-- The working variables of SHA-256. -/
structure ShaState where
  a : Nat
  b : Nat
  c : Nat
  d : Nat
  e : Nat
  f : Nat
  g : Nat
  h : Nat
  deriving DecidableEq, Repr

/-- The message schedule: `window` holds the last sixteen words, oldest first; `n` more words follow. -/
def sha256Schedule : Nat → List Nat → List Nat
  | 0, w => w
  | n + 1, w =>
    let w15 := w.getD 1 0
    let w2 := w.getD 14 0
    let s0 := rotr32 w15 7 ^^^ rotr32 w15 18 ^^^ (w15 >>> 3)
    let s1 := rotr32 w2 17 ^^^ rotr32 w2 19 ^^^ (w2 >>> 10)
    let x := (w.getD 0 0 + s0 + w.getD 9 0 + s1) % 4294967296
    match w with
    | [] => []
    | y :: r => y :: sha256Schedule n (r ++ [x])

/-- One round with its schedule word and round constant. -/
def sha256Round (s : ShaState) (kw : Nat) : ShaState :=
  let e1 := rotr32 s.e 6 ^^^ rotr32 s.e 11 ^^^ rotr32 s.e 25
  let ch := (s.e &&& s.f) ^^^ ((4294967295 ^^^ s.e) &&& s.g)
  let t1 := s.h + e1 + ch + kw
  let a0 := rotr32 s.a 2 ^^^ rotr32 s.a 13 ^^^ rotr32 s.a 22
  let mj := (s.a &&& s.b) ^^^ (s.a &&& s.c) ^^^ (s.b &&& s.c)
  { a := (t1 + a0 + mj) % 4294967296, b := s.a, c := s.b, d := s.c,
    e := (s.d + t1) % 4294967296, f := s.e, g := s.f, h := s.g }

/-- The rounds over a list of schedule words, from round `t` on. -/
def sha256Rounds : Nat → List Nat → ShaState → ShaState
  | _, [], s => s
  | t, w :: r, s => sha256Rounds (t + 1) r (sha256Round s (w + sha256Kt t))

/-- Compress one 64-byte block. -/
def sha256Block (s : ShaState) (blk : Bytes) : ShaState :=
  let w := (chunks 4 blk).map beVal
  let t := sha256Rounds 0 (sha256Schedule 48 w) s
  { a := (s.a + t.a) % 4294967296, b := (s.b + t.b) % 4294967296, c := (s.c + t.c) % 4294967296,
    d := (s.d + t.d) % 4294967296, e := (s.e + t.e) % 4294967296, f := (s.f + t.f) % 4294967296,
    g := (s.g + t.g) % 4294967296, h := (s.h + t.h) % 4294967296 }

/-- The initial hash value. -/
def sha256Init : ShaState :=
  { a := 0x6a09e667, b := 0xbb67ae85, c := 0x3c6ef372, d := 0xa54ff53a,
    e := 0x510e527f, f := 0x9b05688c, g := 0x1f83d9ab, h := 0x5be0cd19 }

/-- SHA-256 of a byte string. -/
def sha256 (m : Bytes) : Bytes :=
  let padded := m ++ [0x80] ++ zeros ((119 - m.length % 64) % 64) ++ be 8 (8 * m.length)
  let s := (chunks 64 padded).foldl sha256Block sha256Init
  be 4 s.a ++ be 4 s.b ++ be 4 s.c ++ be 4 s.d ++ be 4 s.e ++ be 4 s.f ++ be 4 s.g ++ be 4 s.h

/-- HMAC-SHA-256 of a message under a key. -/
def hmac256 (key msg : Bytes) : Bytes :=
  let k := padTo 64 (if key.length > 64 then sha256 key else key)
  sha256 (k.map (· ^^^ 0x5C) ++ sha256 (k.map (· ^^^ 0x36) ++ msg))

/-! ## SipHash-2-4 -/

/-- Rotate a 64-bit number left. -/
def rotl64 (x n : Nat) : Nat := ((x <<< n) % 18446744073709551616) ||| (x >>> (64 - n))

/-- The four words of SipHash. -/
structure SipState where
  v0 : Nat
  v1 : Nat
  v2 : Nat
  v3 : Nat
  deriving DecidableEq, Repr

/-- One SipRound. -/
def sipRound (s : SipState) : SipState :=
  let m := 18446744073709551616
  let a0 := (s.v0 + s.v1) % m
  let a1 := rotl64 s.v1 13 ^^^ a0
  let a0 := rotl64 a0 32
  let b2 := (s.v2 + s.v3) % m
  let b3 := rotl64 s.v3 16 ^^^ b2
  let c0 := (a0 + b3) % m
  let c3 := rotl64 b3 21 ^^^ c0
  let d2 := (b2 + a1) % m
  let d1 := rotl64 a1 17 ^^^ d2
  { v0 := c0, v1 := d1, v2 := rotl64 d2 32, v3 := c3 }

/-- The number in a byte string read least significant byte first. -/
def leVal (b : Bytes) : Nat := b.foldr (fun x a => x.toNat + 256 * a) 0

/-- Take one 64-bit message word in. -/
def sipWord (s : SipState) (w : Nat) : SipState :=
  let t := sipRound (sipRound { s with v3 := s.v3 ^^^ w })
  { t with v0 := t.v0 ^^^ w }

/-- SipHash-2-4 of a message under a 16-byte key. -/
def sipHash24 (key msg : Bytes) : Nat :=
  let k0 := leVal (slice key 0 8)
  let k1 := leVal (slice key 8 8)
  let s0 : SipState :=
    { v0 := k0 ^^^ 0x736f6d6570736575, v1 := k1 ^^^ 0x646f72616e646f6d,
      v2 := k0 ^^^ 0x6c7967656e657261, v3 := k1 ^^^ 0x7465646279746573 }
  let full := msg.length / 8
  let words := (chunks 8 (msg.take (8 * full))).map leVal
  let last := leVal (msg.drop (8 * full)) + (msg.length % 256) * 2 ^ 56
  let s1 := (words ++ [last]).foldl sipWord s0
  let s2 := sipRound (sipRound (sipRound (sipRound { s1 with v2 := s1.v2 ^^^ 0xFF })))
  s2.v0 ^^^ s2.v1 ^^^ s2.v2 ^^^ s2.v3

/-! ## AES-256 and GCM -/

/-- The AES substitution box: entry `x` is byte `x` counted from the least significant end. -/
def aesSbox : Nat :=
  0x16bb54b00f2d99416842e6bf0d89a18cdf2855cee9871e9b948ed9691198f8e19e1dc186b95735610ef6034866b53e708a8bbd4b1f74dde8c6b4a61c2e2578ba08ae7a65eaf4566ca94ed58d6d37c8e779e4959162acd3c25c2406490a3a32e0db0b5ede14b8ee4688902a22dc4f816073195d643d7ea7c41744975fec130ccdd2f3ff1021dab6bcf5389d928f40a351a89f3c507f02f94585334d43fbaaefd0cf584c4a39becb6a5bb1fc20ed00d153842fe329b3d63b52a05a6e1b1a2c830975b227ebe28012079a059618c323c7041531d871f1e5a534ccf73f362693fdb7c072a49cafa2d4adf04759fa7dc982ca76abd7fe2b670130c56f6bf27b777c63

/-- The substitution of one byte. -/
def subByte (x : Byte) : Byte := byte (aesSbox >>> (8 * x.toNat))

/-- Doubling in the AES field. -/
def xtime (x : Byte) : Byte := if x.toNat ≥ 128 then (x <<< 1) ^^^ 0x1B else x <<< 1

/-- The key schedule: `w` holds the words already made, newest first. -/
def aesExpand : Nat → Nat → Byte → List Bytes → List Bytes
  | 0, _, _, w => w
  | n + 1, i, rcon, w =>
    let prev := w.getD 0 []
    let old := w.getD 7 []
    let (t, rc) :=
      if i % 8 = 0 then
        match (prev.drop 1 ++ prev.take 1).map subByte with
        | x :: r => ((x ^^^ rcon) :: r, xtime rcon)
        | [] => ([], rcon)
      else if i % 8 = 4 then (prev.map subByte, rcon)
      else (prev, rcon)
    aesExpand n (i + 1) rc (xorBytes old t :: w)

/-- The fifteen round keys of AES-256. -/
def aesRoundKeys (key : Bytes) : List Bytes :=
  chunks 16 ((aesExpand 52 8 1 (chunks 4 key).reverse).reverse.flatten)

/-- The row shift: byte `i` of the result is byte `5 i mod 16` of the state. -/
def shiftRows (s : Bytes) : Bytes := (List.range 16).map fun i => s.getD (5 * i % 16) 0

/-- One column mixed. -/
def mixColumn (c : Bytes) : Bytes :=
  match c with
  | [a, b, d, e] =>
    [xtime a ^^^ (xtime b ^^^ b) ^^^ d ^^^ e, a ^^^ xtime b ^^^ (xtime d ^^^ d) ^^^ e,
     a ^^^ b ^^^ xtime d ^^^ (xtime e ^^^ e), (xtime a ^^^ a) ^^^ b ^^^ d ^^^ xtime e]
  | _ => c

/-- The rounds that follow the first key addition. -/
def aesRounds : List Bytes → Bytes → Bytes
  | [], s => s
  | [k], s => xorBytes (shiftRows (s.map subByte)) k
  | k :: r, s => aesRounds r (xorBytes ((chunks 4 (shiftRows (s.map subByte))).map mixColumn).flatten k)

/-- AES-256 of one block under round keys already made. -/
def aesBlock (rk : List Bytes) (blk : Bytes) : Bytes :=
  match rk with
  | [] => blk
  | k :: r => aesRounds r (xorBytes blk k)

/-- Multiplication in the GCM field, bit 0 the most significant bit of the block. -/
def gcmMulAux : Nat → Nat → Nat → Nat → Nat
  | 0, _, _, z => z
  | n + 1, x, v, z =>
    let z' := if (x >>> n) % 2 = 1 then z ^^^ v else z
    let v' := if v % 2 = 1 then (v >>> 1) ^^^ (0xE1 <<< 120) else v >>> 1
    gcmMulAux n x v' z'

/-- Product of two GCM field elements. -/
def gcmMul (x y : Nat) : Nat := gcmMulAux 128 x y 0

/-- GHASH over whole and partial blocks, each string padded with zeros. -/
def ghash (h : Nat) (aad ct : Bytes) : Nat :=
  let blk := fun (b : Bytes) => (chunks 16 b).map fun x => beVal (padTo 16 x)
  let lens := 8 * aad.length * 2 ^ 64 + 8 * ct.length
  (blk aad ++ blk ct ++ [lens]).foldl (fun y x => gcmMul (y ^^^ x) h) 0

/-- Counter mode from a starting block counter. -/
def aesCtr (rk : List Bytes) (nonce : Bytes) : Nat → List Bytes → List Bytes
  | _, [] => []
  | c, b :: r => xorBytes b (aesBlock rk (nonce ++ be 4 c)) :: aesCtr rk nonce (c + 1) r

/-- AES-256-GCM with a 12-byte nonce: the ciphertext and the 16-byte tag. -/
def gcmSeal (key nonce aad pt : Bytes) : Bytes × Bytes :=
  let rk := aesRoundKeys key
  let h := beVal (aesBlock rk (zeros 16))
  let ct := (aesCtr rk nonce 2 (chunks 16 pt)).flatten
  (ct, xorBytes (be 16 (ghash h aad ct)) (aesBlock rk (nonce ++ be 4 1)))

/-- AES-256-GCM opening: the plaintext where the tag is right. -/
def gcmOpen (key nonce aad ct tag : Bytes) : Option Bytes :=
  let rk := aesRoundKeys key
  let h := beVal (aesBlock rk (zeros 16))
  let t := xorBytes (be 16 (ghash h aad ct)) (aesBlock rk (nonce ++ be 4 1))
  if t = tag then some (aesCtr rk nonce 2 (chunks 16 ct)).flatten else none

/-! ## The curve P-256 -/

/-- The field prime of P-256. -/
def p256P : Nat := 0xffffffff00000001000000000000000000000000ffffffffffffffffffffffff
/-- The group order of P-256. -/
def p256N : Nat := 0xffffffff00000000ffffffffffffffffbce6faada7179e84f3b9cac2fc632551
/-- The coefficient `b` of P-256. -/
def p256B : Nat := 0x5ac635d8aa3a93e7b3ebbd55769886bc651d06b0cc53b0f63bce3c3e27d2604b
/-- The base point of P-256. -/
def p256G : Nat × Nat :=
  (0x6b17d1f2e12c4247f8bce6e563a440f277037d812deb33a0f4a13945d898c296,
   0x4fe342e2fe1a7f9b8ee7eb4a7c0f9e162bce33576b315ececbb6406837bf51f5)

/-- Modular power, by the low `n` bits of the exponent from the most significant down. -/
def powModAux (m b e : Nat) : Nat → Nat → Nat
  | 0, a => a
  | n + 1, a =>
    let a2 := a * a % m
    powModAux m b e n (if (e >>> n) % 2 = 1 then a2 * b % m else a2)

/-- The inverse modulo a prime. -/
def invMod (m a : Nat) : Nat := powModAux m (a % m) (m - 2) 256 1

/-- A point in Jacobian coordinates; `z = 0` is the point at infinity. -/
structure JPoint where
  x : Nat
  y : Nat
  z : Nat
  deriving DecidableEq, Repr

/-- Subtraction modulo the field prime. -/
def fsub (a b : Nat) : Nat := (a + p256P - b % p256P) % p256P

/-- Point doubling on P-256. -/
def jDouble (q : JPoint) : JPoint :=
  if q.z = 0 ∨ q.y = 0 then { x := 1, y := 1, z := 0 }
  else
    let yy := q.y * q.y % p256P
    let s := 4 * q.x * yy % p256P
    let zz := q.z * q.z % p256P
    let m := 3 * fsub q.x zz * (q.x + zz) % p256P
    let x := fsub (m * m) (2 * s)
    { x := x, y := fsub (m * fsub s x) (8 * yy * yy), z := 2 * q.y * q.z % p256P }

/-- Point addition on P-256. -/
def jAdd (q r : JPoint) : JPoint :=
  if q.z = 0 then r
  else if r.z = 0 then q
  else
    let z1 := q.z * q.z % p256P
    let z2 := r.z * r.z % p256P
    let u1 := q.x * z2 % p256P
    let u2 := r.x * z1 % p256P
    let s1 := q.y * z2 * r.z % p256P
    let s2 := r.y * z1 * q.z % p256P
    if u1 = u2 then (if s1 = s2 then jDouble q else { x := 1, y := 1, z := 0 })
    else
      let h := fsub u2 u1
      let rr := fsub s2 s1
      let h2 := h * h % p256P
      let h3 := h * h2 % p256P
      let v := u1 * h2 % p256P
      let x := fsub (rr * rr) (h3 + 2 * v)
      { x := x, y := fsub (rr * fsub v x) (s1 * h3), z := h * q.z * r.z % p256P }

/-- Double and add over the low `n` bits of the scalar. -/
def jMulAux (k : Nat) (q : JPoint) : Nat → JPoint → JPoint
  | 0, a => a
  | n + 1, a =>
    let a2 := jDouble a
    jMulAux k q n (if (k >>> n) % 2 = 1 then jAdd a2 q else a2)

/-- Scalar multiple of an affine point. -/
def jMul (k : Nat) (q : Nat × Nat) : JPoint :=
  jMulAux k { x := q.1, y := q.2, z := 1 } 256 { x := 1, y := 1, z := 0 }

/-- Affine coordinates, none for the point at infinity. -/
def affine (q : JPoint) : Option (Nat × Nat) :=
  if q.z = 0 then none
  else
    let i := invMod p256P q.z
    let i2 := i * i % p256P
    some (q.x * i2 % p256P, q.y * i2 * i % p256P)

/-- Whether a pair is a point of the curve other than infinity. -/
def onCurve (q : Nat × Nat) : Bool :=
  q.1 < p256P && q.2 < p256P &&
    q.2 * q.2 % p256P == (q.1 * q.1 % p256P * q.1 + (p256P - 3) * q.1 + p256B) % p256P

/-- ECDSA verification of a 32-byte digest against a public key and a signature. -/
def ecdsaVerify (q : Nat × Nat) (digest : Bytes) (r s : Nat) : Bool :=
  if onCurve q ∧ 0 < r ∧ r < p256N ∧ 0 < s ∧ s < p256N then
    let w := invMod p256N s
    let u1 := beVal digest * w % p256N
    let u2 := r * w % p256N
    match affine (jAdd (jMul u1 p256G) (jMul u2 q)) with
    | some (x, _) => x % p256N == r
    | none => false
  else false

/-- ECDSA signature of a digest under a private scalar with a drawn scalar `k`. -/
def ecdsaSign (d : Nat) (digest : Bytes) (k : Nat) : Nat × Nat :=
  match affine (jMul k p256G) with
  | some (x, _) =>
    let r := x % p256N
    (r, invMod p256N k * (beVal digest + r * d) % p256N)
  | none => (0, 0)

/-- The public point of a private scalar. -/
def p256Public (d : Nat) : Nat × Nat := (affine (jMul d p256G)).getD (0, 0)

/-- ECDH: the x coordinate of the product, none where the peer's point is off the curve. -/
def ecdh (d : Nat) (q : Nat × Nat) : Option Nat :=
  if onCurve q then (affine (jMul d q)).map (·.1) else none

end Sys2Proof.Machine
end

