-- ==== Sys2Proof/Machine/ImageTypes.lean ====
section
/-! DEFINITION. The fields of an Aeduc structure image as plain data (R29, R32). -/

namespace Sys2Proof.Machine

/-- A PORTn block of the PORT section (R32). -/
structure PortCfg where
  mac : Nat
  vlan : Nat
  ipv4 : Nat
  ipv6 : Nat
  pfcEn : Nat
  pauseEn : Nat
  deriving DecidableEq, Repr

/-- A namespace entry: of the NSTB section (R32) and of NS_CREATE (R151). -/
structure NsEntry where
  nsId : Nat
  type : Nat
  comp : Nat
  depth : Nat
  enc : Nat
  noGain : Nat
  keySlot : Nat
  cls : Nat
  capacity : Nat
  retention : Nat
  name : Bytes
  deriving DecidableEq, Repr

/-- An initial match-array entry of the MATI section (R32). -/
structure MatiEntry where
  bank : Nat
  index : Nat
  result : Nat
  value : Nat
  mask : Nat
  deriving DecidableEq, Repr

/-- An entry of the TRIG section (R32). -/
structure TrigCfg where
  enable : Nat
  before : Nat
  after : Nat
  debounce : Nat
  deriving DecidableEq, Repr

/-- The LGUE section (R32). -/
structure LeagueCfg where
  present : Bool
  role : Nat
  memberId : Nat
  rodPos : Nat
  mode : Nat
  ticketSlot : Nat
  serviceAddr : Bytes
  headAddr : Bytes
  deriving DecidableEq, Repr

/-- The PORT section (R32). -/
structure PortSection where
  mode : Nat
  txMode : Nat
  laneMap : Nat
  macsecEn : Nat
  maxLen : Nat
  dktPort : Nat
  ctStart : Nat
  ports : List PortCfg
  deriving DecidableEq, Repr

/-- The PART section (R32). -/
structure PartSection where
  sessions : Nat
  adminSess : Nat
  depths : List Nat
  weights : List Nat
  urgentPct : Nat
  mRate : Nat
  deriving DecidableEq, Repr

/-- The POLI section (R32). -/
structure PoliSection where
  gcA : Nat
  gcB : Nat
  gcC : Nat
  wearSpread : Nat
  aRef : Nat
  patrolDays : Nat
  deriving DecidableEq, Repr

/-- Every field that an image sets, defaults of missing optional sections filled in (R32). -/
structure Image where
  gen : Nat
  floor : Nat
  keyX : Nat
  keyY : Nat
  port : PortSection
  part : PartSection
  nstb : List NsEntry
  ingest : Nat
  pslcBushels : Nat
  chainMib : Nat
  matiPresent : Bool
  widths : List Nat
  mati : List MatiEntry
  aeMacsec : Nat
  czFurlong : Nat
  czOther : Nat
  pwri : List Nat
  fullPolicy : Nat
  persistSev : Nat
  league : LeagueCfg
  poli : PoliSection
  hardAlarm : Nat
  pnThresh : Nat
  creds : List (Nat × Nat)
  trig : List TrigCfg
  deriving DecidableEq, Repr

/-- Where and how an image failed: MGMT_IMG_ERR's fields (R33). -/
structure ImgErr where
  stage : Nat
  code : Nat
  section_ : Nat
  deriving DecidableEq, Repr

end Sys2Proof.Machine
end

