-- ==== Sys2Proof/Machine/Tab.lean ====
section
/-! DEFINITION. Operations of a sparse table: a list of pairs with strictly rising keys. Equal tables are equal lists. -/

namespace Sys2Proof

/-- The entry at a key. -/
def Tab.find {α : Type} : Tab α → Nat → Option α
  | [], _ => none
  | (k', v) :: r, k => if k' = k then some v else Tab.find r k

/-- Whether a key has an entry. -/
def Tab.has {α : Type} (t : Tab α) (k : Nat) : Bool := (t.find k).isSome

/-- The entry at a key, or a given value where the key has none. -/
def Tab.getD {α : Type} (t : Tab α) (k : Nat) (d : α) : α := (t.find k).getD d

/-- Put an entry at a key, in its place in key order. -/
def Tab.put {α : Type} : Tab α → Nat → α → Tab α
  | [], k, v => [(k, v)]
  | (k', v') :: r, k, v =>
    if k < k' then (k, v) :: (k', v') :: r
    else if k = k' then (k, v) :: r
    else (k', v') :: Tab.put r k v

/-- Remove the entry at a key. -/
def Tab.del {α : Type} : Tab α → Nat → Tab α
  | [], _ => []
  | (k', v) :: r, k => if k' = k then Tab.del r k else (k', v) :: Tab.del r k

/-- Change the entry at a key where there is one. -/
def Tab.mod {α : Type} : Tab α → Nat → (α → α) → Tab α
  | [], _, _ => []
  | (k', v) :: r, k, f => if k' = k then (k', f v) :: Tab.mod r k f else (k', v) :: Tab.mod r k f

/-- Change every entry; the keys stay. -/
def Tab.mapAll {α β : Type} (t : Tab α) (f : Nat → α → β) : Tab β := t.map fun p => (p.1, f p.1 p.2)

/-- Keep the entries that pass a test. -/
def Tab.keep {α : Type} (t : Tab α) (f : Nat → α → Bool) : Tab α := t.filter fun p => f p.1 p.2

/-- The first entry, in key order, that passes a test. -/
def Tab.first {α : Type} (t : Tab α) (f : Nat → α → Bool) : Option (Nat × α) := t.find? fun p => f p.1 p.2

/-- How many entries pass a test. -/
def Tab.count {α : Type} (t : Tab α) (f : Nat → α → Bool) : Nat := (t.filter fun p => f p.1 p.2).length

/-- The lowest key from `k` on, among `fuel` keys tried, that has no entry. -/
def Tab.freeFrom {α : Type} (t : Tab α) : Nat → Nat → Option Nat
  | _, 0 => none
  | k, fuel + 1 => if t.has k then Tab.freeFrom t (k + 1) fuel else some k

/-- Insert an element before the first that it may precede. -/
def insertBy {α : Type} (le : α → α → Bool) (x : α) : List α → List α
  | [] => [x]
  | y :: r => if le x y then x :: y :: r else y :: insertBy le x r

/-- Sort a list; equal elements keep their order. -/
def sortBy {α : Type} (le : α → α → Bool) : List α → List α
  | [] => []
  | x :: r => insertBy le x (sortBy le r)

/-- Put an element at a place of a list; places before it that the list does not reach hold `fresh`. -/
def setAt {α : Type} (fresh : α) : List α → Nat → α → List α
  | [], 0, x => [x]
  | [], n + 1, x => fresh :: setAt fresh [] n x
  | _ :: r, 0, x => x :: r
  | y :: r, n + 1, x => y :: setAt fresh r n x

/-- The canonical form: keys strictly rising. -/
def Tab.wf {α : Type} : Tab α → Bool
  | [] => true
  | [_] => true
  | (k, _) :: (k', v') :: r => decide (k < k') && Tab.wf ((k', v') :: r)

end Sys2Proof
end

