-- ==== Sys2Proof/Machine/ImageFormat.lean ====
section
/-! DEFINITION. Reading and checking an Aeduc image: stages 1 to 6 of R33, with the ranges of R32 and the
cross-checks of R34. Stage 7 needs the device and stands with the image window. -/

set_option cleanup.letToHave false

namespace Sys2Proof.Machine

/-- A directory entry of an image (R29). -/
structure DirEntry where
  id : Nat
  version : Nat
  offset : Nat
  length : Nat
  crc : Nat
  deriving DecidableEq, Repr

/-- The directory entries, `n` of them, from byte 64 on (R29). -/
def imageDir (b : Bytes) (n : Nat) : List DirEntry :=
  (List.range n).map fun i =>
    let o := 64 + 16 * i
    { id := num b o 2, version := num b (o + 2) 2, offset := num b (o + 4) 4,
      length := num b (o + 8) 4, crc := num b (o + 12) 4 }

/-- The body of a section, empty where the image has none. -/
def imageSection (b : Bytes) (dir : List DirEntry) (id : Nat) : Option Bytes :=
  (dir.find? fun e => e.id == id).map fun e => slice b e.offset e.length

/-- Ports that a port mode drives (R32): Q10 and Q25 all four, D25 EP0 and EP2, S100 EP0. -/
def portsOfMode (mode : Nat) : List Nat :=
  if mode = 2 then [0, 2] else if mode = 3 then [0] else [0, 1, 2, 3]

/-- A namespace entry read from 64 bytes (R32). -/
def nsEntryOf (b : Bytes) : NsEntry :=
  { nsId := num b 0 2, type := num b 2 1, comp := num b 3 1, depth := num b 4 2, enc := num b 6 1,
    noGain := num b 7 1, keySlot := num b 8 2, cls := num b 10 1, capacity := num b 12 4,
    retention := num b 16 2, name := slice b 32 32 }

/-- The bytes of a namespace entry (R32). -/
def nsEntryBytes (e : NsEntry) : Bytes :=
  be 2 e.nsId ++ be 1 e.type ++ be 1 e.comp ++ be 2 e.depth ++ be 1 e.enc ++ be 1 e.noGain ++
    be 2 e.keySlot ++ be 1 e.cls ++ zeros 1 ++ be 4 e.capacity ++ be 2 e.retention ++ zeros 14 ++
    padTo 32 e.name

/-- Whether a namespace entry's fields lie in their ranges (R32). DEDUCED (log entry 20): the NAME's ranges
are not checked, since its table names only an encoding. -/
def nsEntryOk (e : NsEntry) : Bool :=
  1 ≤ e.nsId && e.nsId ≤ 1023 && e.type ≤ 3 && e.comp ≤ 2 &&
  (e.comp == 0 || (4 ≤ e.depth && e.depth ≤ 256)) && e.enc ≤ 1 && 2 ≤ e.noGain &&
  (e.enc == 0 || e.keySlot ≤ 511) && e.cls ≤ 5 &&
  (if e.type = 2 then 2 ≤ e.capacity && e.capacity ≤ 8192 else e.capacity == 0) &&
  (if e.type = 3 then 1 ≤ e.retention && e.retention ≤ 3650 else e.retention == 0)

/-- Whether a list has no entry twice. -/
def noRepeat (l : List Nat) : Bool := l.eraseDups.length == l.length

/-- The four-entry list of the lanes a LANE_MAP names. -/
def laneMapOf (m : Nat) : List Nat := [bits m 1 0, bits m 3 2, bits m 5 4, bits m 7 6]

/-- The PORT section read from its body (R32). -/
def portSectionOf (b : Bytes) : PortSection :=
  { mode := num b 0 1, txMode := num b 1 1, laneMap := num b 2 1, macsecEn := num b 3 1,
    maxLen := num b 4 2, dktPort := num b 6 2, ctStart := num b 8 2,
    ports := (List.range 4).map fun i =>
      let o := 12 + 32 * i
      { mac := num b o 6, vlan := num b (o + 6) 2, ipv4 := num b (o + 8) 4, ipv6 := num b (o + 12) 16,
        pfcEn := num b (o + 28) 1, pauseEn := num b (o + 29) 1 } }

/-- Whether a PORTn block is in range for a port in use. -/
def portCfgOk (p : PortCfg) : Bool :=
  p.mac / 2 ^ 40 % 2 == 0 && p.vlan ≤ 4094 && !(p.ipv4 == 0 && p.ipv6 == 0) &&
    p.pauseEn ≤ 1 && (p.pauseEn == 0 || p.pfcEn == 0)

/-- Whether the PORT section is in range (R32). -/
def portSectionOk (b : Bytes) : Bool :=
  let s := portSectionOf b
  s.mode ≤ 3 && s.txMode ≤ 1 && (s.txMode == 0 || s.mode == 3) && noRepeat (laneMapOf s.laneMap) &&
  s.macsecEn ≤ 15 && 1518 ≤ s.maxLen && s.maxLen ≤ 9216 && 1 ≤ s.dktPort &&
  2048 ≤ s.ctStart && s.ctStart ≤ 9216 && s.ctStart % 1024 == 0 &&
  (List.range 4).all fun i =>
    if (portsOfMode s.mode).contains i then
      match s.ports[i]? with
      | some p => portCfgOk p
      | none => false
    else allZero (slice b (12 + 32 * i) 32)

/-- The PART section read from its body (R32). -/
def partSectionOf (b : Bytes) : PartSection :=
  { sessions := num b 0 2, adminSess := num b 2 2,
    depths := (List.range 8).map fun i => num b (4 + 2 * i) 2,
    weights := (List.range 4).map fun i => num b (20 + i) 1,
    urgentPct := num b 24 1, mRate := num b 26 2 }

/-- Whether the PART section is in range (R32). -/
def partSectionOk (s : PartSection) : Bool :=
  1 ≤ s.sessions && s.sessions ≤ 4096 && s.adminSess ≤ 64 && s.adminSess < s.sessions &&
  s.depths.all (fun d => 1 ≤ d && d ≤ 4096) && s.weights.all (fun w => 1 ≤ w) &&
  1 ≤ s.urgentPct && s.urgentPct ≤ 100 && 1 ≤ s.mRate

/-- The width code of bank `b` in the eight WIDTH bytes (R32). -/
def widthCodes (v : Nat) : List Nat := (List.range 32).map fun b => v / 4 ^ b % 4

/-- Bits of one entry at a width code; the refused code counts as 80 bits (R32). -/
def widthBits (c : Nat) : Nat := if c = 1 then 160 else if c = 2 then 320 else 80

/-- Entries a bank holds at a width code (R32). -/
def bankCapacity (c : Nat) : Nat := if c = 1 then 2048 else if c = 2 then 1024 else 4096

/-- The MATI entries in a body, from an offset on; none where the body is too short (R32). -/
def matiEntries (b : Bytes) (widths : List Nat) : Nat → Nat → Option (List MatiEntry × Nat)
  | 0, o => some ([], o)
  | n + 1, o =>
    if b.length < o + 8 then none
    else
      let bank := num b o 1
      let w := widthBits (widths.getD bank 0) / 8
      if b.length < o + 8 + 2 * w then none
      else
        match matiEntries b widths n (o + 8 + 2 * w) with
        | none => none
        | some (r, e) =>
          some ({ bank := bank, index := num b (o + 2) 2, result := num b (o + 4) 4,
                  value := num b (o + 8) w, mask := num b (o + 8 + w) w } :: r, e)

/-- The MATI section: widths and entries where the body's length is right (R32). -/
def matiOf (b : Bytes) : Option (List Nat × List MatiEntry) :=
  if b.length < 16 then none
  else
    let widths := widthCodes (num b 0 8)
    let count := num b 8 4
    if count > b.length then none
    else
      match matiEntries b widths count 16 with
      | some (r, e) => if e = b.length then some (widths, r) else none
      | none => none

/-- Whether a MATI entry is in range: its bank, its VALUE under its MASK, and its RESULT, DROP in banks 0 to 3 and
without the bits that must be zero elsewhere (R32, R295 to R297). -/
def matiEntryOk (e : MatiEntry) : Bool :=
  e.bank ≤ 31 && (e.value &&& e.mask) == e.value &&
    (if e.bank < 4 then e.result == 0x20000000 else (e.result &&& 0xFFFF40C0) == 0)

/-- The domain states of PWRI: bits [2d+1:2d] of its 17-byte field, most significant byte first (R10, R32). -/
def pwriOf (b : Bytes) : List Nat := (List.range 67).map fun d => num b 0 17 / 4 ^ d % 4

/-- The LGUE section read from its body (R32). -/
def leagueOf (b : Bytes) : LeagueCfg :=
  { present := true, role := num b 0 1, memberId := num b 1 1, rodPos := num b 2 1, mode := num b 3 1,
    ticketSlot := num b 4 2, serviceAddr := slice b 8 20, headAddr := slice b 28 20 }

/-- The League fields of an image without an LGUE section (R32). -/
def leagueDefault : LeagueCfg :=
  { present := false, role := 0, memberId := 0, rodPos := 0, mode := 0, ticketSlot := 0,
    serviceAddr := zeros 20, headAddr := zeros 20 }

/-- Whether the LGUE section is in range (R32). -/
def leagueOk (l : LeagueCfg) : Bool :=
  l.role ≤ 3 && l.memberId ≤ 63 &&
  (if l.role = 2 then 1 ≤ l.rodPos && l.rodPos ≤ 3 else l.rodPos == 0) &&
  l.mode ≤ 1 && l.ticketSlot ≤ 511 && (l.role != 1 || allZero l.headAddr)

/-- The POLI section read from its body (R32). -/
def poliOf (b : Bytes) : PoliSection :=
  { gcA := num b 0 2, gcB := num b 2 2, gcC := num b 4 2, wearSpread := num b 6 2,
    aRef := num b 8 4, patrolDays := num b 12 1 }

/-- POLI's defaults (R32). -/
def poliDefault : PoliSection :=
  { gcA := 45875, gcB := 13107, gcC := 6554, wearSpread := 200, aRef := 604800, patrolDays := 7 }

/-- Whether the POLI section is in range (R32). -/
def poliOk (p : PoliSection) : Bool :=
  10 ≤ p.wearSpread && p.wearSpread ≤ 3000 && 3600 ≤ p.aRef && p.aRef ≤ 31536000 &&
    1 ≤ p.patrolDays && p.patrolDays ≤ 60

/-- The TRIG entries read from the body (R32). -/
def trigOf (b : Bytes) : List TrigCfg :=
  (List.range 4).map fun t =>
    { enable := num b (8 * t) 1, before := num b (8 * t + 2) 2, after := num b (8 * t + 4) 2,
      debounce := num b (8 * t + 6) 2 }

/-- TRIG's default: every input disabled; the debounce at its register's reset value (R32, R385). -/
def trigDefault : List TrigCfg :=
  List.replicate 4 { enable := 0, before := 0, after := 0, debounce := 1 }

/-- Whether a TRIG entry is in range (R32). -/
def trigOk (t : TrigCfg) : Bool :=
  t.enable ≤ 1 && t.before ≤ 600 && t.after ≤ 120 && 1 ≤ t.debounce && t.debounce ≤ 10000

/-- The credential entries of SECP (R32). -/
def credsOf (b : Bytes) (n : Nat) : List (Nat × Nat) :=
  (List.range n).map fun i => (num b (8 + 4 * i) 2, num b (10 + 4 * i) 1)

/-- The NSTB entries in a body of COUNT entries (R32). -/
def nstbOf (b : Bytes) : List NsEntry :=
  (List.range (num b 0 2)).map fun i => nsEntryOf (slice b (4 + 64 * i) 64)

/-- Stage 6 of R33, the part of one section: its body length and field ranges (R32). -/
def sectionOk (id : Nat) (b : Bytes) : Bool :=
  if id = 1 then b.length == 144 && portSectionOk b
  else if id = 2 then b.length == 32 && partSectionOk (partSectionOf b)
  else if id = 3 then
    2 ≤ b.length && b.length == 4 + 64 * num b 0 2 && num b 0 2 ≤ 1023 &&
      (nstbOf b).all nsEntryOk && noRepeat ((nstbOf b).map (·.nsId))
  else if id = 4 then
    b.length == 16 && num b 0 1 ≤ 2 && num b 2 2 ≤ 2048 && (num b 0 1 == 0 || num b 2 2 != 0) &&
      num b 4 4 ≤ 262144
  else if id = 5 then
    match matiOf b with
    | some (w, es) => w.all (· ≤ 2) && es.all matiEntryOk
    | none => false
  else if id = 6 then b.length == 8
  else if id = 7 then b.length == 20 && num b 0 17 < 2 ^ 134
  else if id = 8 then b.length == 4 && num b 0 1 ≤ 1 && num b 1 1 ≤ 7
  else if id = 9 then b.length == 48 && leagueOk (leagueOf b)
  else if id = 10 then b.length == 16 && poliOk (poliOf b)
  else if id = 11 then
    4 ≤ b.length && b.length == 8 + 4 * num b 2 2 && num b 2 2 ≤ 512 && num b 0 1 ≤ 1 &&
      1 ≤ num b 4 4 && num b 4 4 ≤ 0xFFFFFFFE &&
      (credsOf b (num b 2 2)).all (fun c => c.1 ≤ 511 && c.2 ≤ 31)
  else if id = 12 then b.length == 32 && (trigOf b).all trigOk
  else false

/-- The image's fields, read from its sections; missing optional sections take their defaults (R32). -/
def imageOf (b : Bytes) (dir : List DirEntry) : Image :=
  let sec := fun i => (imageSection b dir i).getD []
  let has := fun i => (imageSection b dir i).isSome
  let sigAt := num b 8 4 - 132
  let mati := (matiOf (sec 5)).getD (List.replicate 32 0, [])
  { gen := num b 16 4, floor := num b 20 4, keyX := num b sigAt 32, keyY := num b (sigAt + 32) 32,
    port := portSectionOf (sec 1), part := partSectionOf (sec 2),
    nstb := if has 3 then nstbOf (sec 3) else [],
    ingest := num (sec 4) 0 1, pslcBushels := num (sec 4) 2 2, chainMib := num (sec 4) 4 4,
    matiPresent := has 5, widths := mati.1, mati := mati.2,
    aeMacsec := num (sec 6) 0 1, czFurlong := num (sec 6) 1 1, czOther := num (sec 6) 2 1,
    pwri := pwriOf (sec 7),
    fullPolicy := if has 8 then num (sec 8) 0 1 else 0,
    persistSev := if has 8 then num (sec 8) 1 1 else 1,
    league := if has 9 then leagueOf (sec 9) else leagueDefault,
    poli := if has 10 then poliOf (sec 10) else poliDefault,
    hardAlarm := if has 11 then num (sec 11) 0 1 else 0,
    pnThresh := if has 11 then num (sec 11) 4 4 else 0x80000000,
    creds := if has 11 then credsOf (sec 11) (num (sec 11) 2 2) else [],
    trig := if has 12 then trigOf (sec 12) else trigDefault }

/-- MACsec lanes that R24 asks for: none without MACsec, 2 for Q10 and D25, 4 for Q25 and S100. -/
def macsecLanesNeeded (im : Image) : Nat :=
  if im.port.macsecEn = 0 then 0 else if im.port.mode = 0 ∨ im.port.mode = 2 then 2 else 4

/-- The number of set bits among the low `n` of a number. -/
def popCount (v n : Nat) : Nat := ((List.range n).filter (bit v ·)).length

/-- The uses that an image makes of key slots: slot, policy and the section that names it (R34). -/
def slotUses (im : Image) : List (Nat × Nat × Nat) :=
  (im.nstb.filter (·.enc == 1)).map (fun e => (e.keySlot, 1, 3)) ++
    [(im.league.ticketSlot, 3, 9)] ++ im.creds.map (fun c => (c.1, 4, 11))

/-- The first pair of uses that give one slot two policies, as the section to report (R34). -/
def slotClash : List (Nat × Nat × Nat) → Option Nat
  | [] => none
  | (sl, pol, sec) :: r =>
    match r.find? (fun u => u.1 == sl && u.2.1 != pol) with
    | some u => some (max sec u.2.2)
    | none => slotClash r

/-- The domains that R34 asks PWRI to leave ON: SDQ, the EPs in use, MB, DR, CC, IDX and FC. -/
def pwriMustOn (im : Image) : List Nat :=
  [20] ++ (portsOfMode im.port.mode).map (16 + ·) ++ (List.range 4).map (57 + ·) ++
    (List.range 4).map (53 + ·) ++ [61, 62, 63] ++ List.range 16

/-- pSLC Bushels of the Chain reserve: 504 MiB each, rounded up (R34). -/
def chainBushels (im : Image) : Nat := ceilDiv im.chainMib 504

/-- The cross-checks of stage 6 in the order R34 lists them: the failed check's section. -/
def crossCheck (im : Image) : Option Nat :=
  if popCount im.aeMacsec 8 < macsecLanesNeeded im then some 6
  else if im.czFurlong = 0 ∨ im.czOther = 0 ∨ (im.czFurlong ||| im.czOther) ≠ 255 then some 6
  else if (pwriMustOn im).any (fun d => im.pwri.getD d 0 != 0) then some 7
  else if (im.league.role = 1 ∨ im.league.role = 2) ∧ im.pwri.getD 65 0 ≠ 0 then some 7
  else if im.nstb.any (·.enc == 1) ∧ im.aeMacsec = 255 then some 6
  else if ((im.nstb.filter (·.type == 2)).map (·.capacity)).sum > 8192 then some 3
  else if im.pslcBushels + chainBushels im > 2048 then some 4
  else if im.nstb.any (·.type == 3) ∧ im.chainMib = 0 then some 3
  else if im.mati.any (fun e => e.index ≥ bankCapacity (im.widths.getD e.bank 0)) then some 5
  else if im.league.role = 3 ∧ im.mati ≠ [] then some 5
  else if im.league.role = 3 ∧ im.nstb.any (·.type == 2) then some 3
  else slotClash (slotUses im)

/-- Stage 5: one directory entry after those before it (R33). -/
def dirEntryOk (hi lo : Nat) (before : List DirEntry) (e : DirEntry) : Bool :=
  lo ≤ e.offset && e.offset + e.length ≤ hi && e.offset % 64 == 0 &&
  before.all (fun f => e.offset + e.length ≤ f.offset || f.offset + f.length ≤ e.offset) &&
  e.version == 1 && 1 ≤ e.id && e.id ≤ 12 && !(before.any (·.id == e.id))

/-- Stage 5: the first directory entry that fails, entries in order. -/
def dirBad (hi lo : Nat) : List DirEntry → List DirEntry → Option Nat
  | _, [] => none
  | before, e :: r => if dirEntryOk hi lo before e then dirBad hi lo (before ++ [e]) r else some e.id

/-- Stages 1 and 2: framing and closing CRC (R33). `rcvd` is the number of bytes received, `overrun` a word
received past the length. -/
def checkFraming (b : Bytes) (rcvd : Nat) (overrun : Bool) : Option ImgErr :=
  let len := num b 8 4
  if overrun ∨ rcvd < 256 ∨ len ≠ rcvd ∨ len < 256 ∨ len > 4194304 ∨ len % 4 ≠ 0 then
    some { stage := 1, code := 1, section_ := 0 }
  else if num b 0 4 ≠ 0x41454443 then some { stage := 1, code := 2, section_ := 0 }
  else if num b 4 2 ≠ 1 ∨ num b 6 2 ≠ 64 then some { stage := 1, code := 3, section_ := 0 }
  else if crc32c (b.take (len - 4)) ≠ num b (len - 4) 4 then some { stage := 2, code := 4, section_ := 0 }
  else none

/-- Stage 3: the authority, or the enrolment condition of R30, and the signature (R33). -/
def checkSignature (b : Bytes) (authority : Option Bytes) (enrol : Bool) : Option ImgErr :=
  let at_ := num b 8 4 - 132
  let key := slice b at_ 64
  let trusted :=
    match authority with
    | some a => sha256 key == a
    | none => enrol
  if !trusted then some { stage := 3, code := 5, section_ := 0 }
  else if !(ecdsaVerify (num b at_ 32, num b (at_ + 32) 32) (sha256 (b.take at_))
      (num b (at_ + 64) 32) (num b (at_ + 96) 32)) then some { stage := 3, code := 6, section_ := 0 }
  else none

/-- Stage 4: part, generation and floor (R33, R31). -/
def checkIdentity (b : Bytes) (floor : Nat) : Option ImgErr :=
  if num b 24 4 ≠ 0x1664 then some { stage := 4, code := 7, section_ := 0 }
  else if num b 16 4 = 0 ∨ num b 16 4 < floor ∨ num b 20 4 > num b 16 4 then
    some { stage := 4, code := 8, section_ := 0 }
  else none

/-- Stage 5: the directory and the section CRCs (R33). DEDUCED (log entry 22): the checks of the stage run in
the order its row lists them. -/
def checkDirectory (b : Bytes) : Option ImgErr :=
  let n := num b 12 2
  let hi := num b 8 4 - 132
  if n < 5 ∨ n > 12 then some { stage := 5, code := 9, section_ := 0 }
  else
    let dir := imageDir b n
    match dirBad hi (64 + 16 * n) [] dir with
    | some id => some { stage := 5, code := 9, section_ := id }
    | none =>
      match [1, 2, 4, 6, 7].find? (fun i => !(dir.any (·.id == i))) with
      | some i => some { stage := 5, code := 0x0B, section_ := i }
      | none =>
        match dir.find? (fun e => crc32c (slice b e.offset e.length) != e.crc) with
        | some e => some { stage := 5, code := 0x0A, section_ := e.id }
        | none => none

/-- Stage 6: bodies in ascending ID, then the cross-checks (R33, R34). -/
def checkMeaning (b : Bytes) : Option ImgErr :=
  let dir := imageDir b (num b 12 2)
  let bad := [1, 2, 3, 4, 5, 6, 7, 8, 9, 10, 11, 12].find? fun i =>
    match imageSection b dir i with
    | some body => !(sectionOk i body)
    | none => false
  match bad with
  | some i => some { stage := 6, code := 0x0C, section_ := i }
  | none =>
    match crossCheck (imageOf b dir) with
    | some i => some { stage := 6, code := 0x0C, section_ := i }
    | none => none

/-- Stages 1 to 6 in order: the first failure, or the image's fields (R33). -/
def checkImage (b : Bytes) (rcvd : Nat) (overrun : Bool) (authority : Option Bytes) (enrol : Bool)
    (floor : Nat) : Except ImgErr Image :=
  match checkFraming b rcvd overrun with
  | some e => .error e
  | none =>
    match checkSignature b authority enrol with
    | some e => .error e
    | none =>
      match checkIdentity b floor with
      | some e => .error e
      | none =>
        match checkDirectory b with
        | some e => .error e
        | none =>
          match checkMeaning b with
          | some e => .error e
          | none => .ok (imageOf b (imageDir b (num b 12 2)))

end Sys2Proof.Machine
end

