-- ==== Sys2Proof/Config.lean ====
section
/-! DEFINITION. What an implementation fixes and the spec leaves open, and the free values. -/

namespace Sys2Proof

/-- The value of draw `n` of the device's random source: nonces, initial sequence numbers, salts and the index hash key
(R90, R91, R150, R161, R223). FREE VALUE (log entry 10): nothing constrains it. -/
opaque Config.freeValue : Nat → BitVec 512

/-- A value of the device that the spec leaves open, by its number in log entry 11 and an argument. FREE VALUE. -/
opaque Config.openValue : Nat → Nat → BitVec 64

end Sys2Proof
end

