-- ==== Sys2Proof/Machine/TransportTypes.lean ====
section
/-! DEFINITION. State of the ports, of Dialur Key Transport and of the command engine (R66, R79, R83, R104, R109,
R118, R122). -/

namespace Sys2Proof.Machine

/-! ## Ports -/

/-- Link states of a port (R66). -/
inductive LinkState where
  | down
  | seek
  | hold
  | up
  | rfault
  deriving DecidableEq, Repr

/-- What a transmitted frame carries: MAC control with its quanta; an answer to an ARP request or to a neighbour
solicitation, or such a request of this device's own, with both addresses; a DKT packet with its UDP and IP addresses
(R70, R72, R84, R312). -/
inductive TxBody where
  | pause (quanta : Nat)
  | pfc (vector quanta : Nat)
  | arp (request : Bool) (ownIp peerMac peerIp : Nat)
  | advert (ownIp peerIp : Nat)
  | solicit (ownIp peerIp : Nat)
  | dkt (session : Nat) (v6 : Bool) (srcIp srcPort dstIp dstPort : Nat) (packet : Bytes)
  deriving DecidableEq, Repr

/-- A frame queued for transmission or on the wire: destination MAC, priority and length as R67 counts it. -/
structure TxFrame where
  dst : Nat
  pcp : Nat
  len : Nat
  body : TxBody
  deriving DecidableEq, Repr

/-- States of a MACsec SA (R236). -/
inductive SaState where
  | ready
  | active
  | exhausted
  deriving DecidableEq, Repr

/-- One generation of a key slot (R208, R209). -/
structure KeyGen where
  gen : Nat
  key : Bytes
  deriving DecidableEq, Repr

/-- An installed MACsec SA (R225 to R228). `pn` is the next PN of a transmit SA or the lowest acceptable PN of a
receive SA. -/
structure Sa where
  state : SaState
  slot : Nat
  key : KeyGen
  xpn : Bool
  pn : Nat
  next : Nat
  nextEn : Bool
  win : Nat
  ssci : Nat
  salt : Nat
  deriving DecidableEq, Repr

/-- The frame that a port began last: the cycle of its first bit and, for a frame sent protected, the index of its SA
and the SA as it stood, whose `pn` is the frame's PN (R73, R225, R227). -/
structure TxNow where
  frame : TxFrame
  since : Nat
  sa : Option (Nat × Sa)
  deriving DecidableEq, Repr

/-- What a port's transmitters send: electrical idle, data frames, Idle only, or Remote Fault (R66). -/
inductive TxSignal where
  | electricalIdle
  | data
  | idleOnly
  | remoteFault
  deriving DecidableEq, Repr

/-- One EP block (R66, R72 to R79, R82). `pfcLeft` has a priority's remaining quanta; `counters` has the 48-bit
counter at an index, none while it is 0; `stomped` is the last frame that went out with a stomped FCS, as the wire
carried it (R74, R75). -/
structure Port where
  link : LinkState
  sending : TxSignal
  blockLock : Bool
  aligned : Bool
  hiBer : Bool
  localFault : Bool
  remoteFault : Bool
  ctCur : Nat
  counters : Tab Nat
  half : Nat
  txq : List TxFrame
  current : Option TxNow
  stomped : Bytes
  pauseLeft : Nat
  pauseSince : Nat
  pfcLeft : Tab Nat
  pfcSince : Nat
  seekSince : Nat
  stuckWritten : Bool
  deriving DecidableEq, Repr

/-- One SerDes lane (R65, R83). `kept` holds its polarity, once it has gained lock, until the lane loses signal. -/
structure Lane where
  kept : Bool
  sigDet : Bool
  cdrLock : Bool
  rxInv : Bool
  fecLane : Nat
  locked : Bool
  flips : Nat
  deriving DecidableEq, Repr

/-! ## Dialur Key Transport -/

/-- The fields of a DKT header (R86). -/
structure DktHdr where
  type : Nat
  som : Bool
  eom : Bool
  ackReq : Bool
  retx : Bool
  queue : Nat
  epoch : Nat
  session : Nat
  seq : Nat
  ack : Nat
  limit : Nat
  tag : Nat
  payLen : Nat
  offset : Nat
  sack : Nat
  deriving DecidableEq, Repr

/-- The classification key of a packet (R89): port, receive SC, IP version, source address and UDP port and, for
IPv4, destination address and port. -/
structure ClassKey where
  port : Nat
  sc : Nat
  v6 : Bool
  srcIp : Nat
  srcPort : Nat
  dstIp : Nat
  dstPort : Nat
  deriving DecidableEq, Repr

/-- A packet held in the receive cell pool (R71, R87). -/
structure RxPkt where
  key : ClassKey
  dstIp : Nat
  srcMac : Nat
  hdr : DktHdr
  payload : Bytes
  cells : Nat
  /-- The session that classification gave, none for a packet that matches none (R89). -/
  session : Option Nat
  deriving DecidableEq, Repr

/-- Session states (R104). `opening` is a League session that this device opens and that its peer has not yet
challenged (R91). -/
inductive SessState where
  | opening
  | challenged
  | established
  | draining
  | closing
  deriving DecidableEq, Repr

/-- A packet sent and not yet acknowledged (R100): TYPE DATA or CLOSE and what its header and payload carry. -/
structure TxPkt where
  seq : Nat
  type : Nat
  som : Bool
  eom : Bool
  queue : Nat
  tag : Nat
  offset : Nat
  payload : Bytes
  fast : Bool
  deriving DecidableEq, Repr

/-- A message waiting to be sent, wholly or in part; `more` while its bytes are still being released (R110). -/
structure OutMsg where
  queue : Nat
  tag : Nat
  sent : Nat
  data : Bytes
  more : Bool
  deriving DecidableEq, Repr

/-- The message that a queue of a session has open (R95, R96): its tag, the bytes of its first packet, the bytes so far
and what they feed. `cmd` is the command it feeds; `dead` a message already answered whose rest is discarded. -/
structure InMsg where
  tag : Nat
  first : Nat
  next : Nat
  total : Nat
  cmd : Option Nat
  dead : Bool
  bytes : Bytes
  cells : Nat
  deriving DecidableEq, Repr

/-- A DKT session that is not FREE (R89 to R104). `wireId` and `wireEpoch` are the SESSION and EPOCH that its packets
carry: its own, or the peer's where this device opened the session (`opener`, R313). `league` marks a League session
between devices. -/
structure Sess where
  state : SessState
  epoch : Nat
  wireId : Nat
  wireEpoch : Nat
  opener : Bool
  priv : Nat
  ticket : Bool
  slot : Nat
  bound : Option KeyGen
  key : ClassKey
  devIp : Nat
  mac : Nat
  cn : Bytes
  dn : Bytes
  hostIsn : Nat
  devIsn : Nat
  privReq : Nat
  hostWin : Nat
  rxNext : Nat
  advLimit : Nat
  held : Tab RxPkt
  txNext : Nat
  txLimit : Nat
  unacked : List TxPkt
  out : List OutMsg
  timeoutUs : Nat
  retries : Nat
  /-- The core cycles in which a packet last came and in which an acknowledgement last made progress (R15, R100, R102). -/
  heardAt : Option Nat
  ackedAt : Option Nat
  inMsgs : Tab InMsg
  tags : List Nat
  acceptPay : Bytes
  league : Bool
  /-- Complete answers to this device's own requests on a session that it opened, by TAG (R325, R328). -/
  answers : List (Nat × Bytes)
  deriving DecidableEq, Repr

/-! ## The command engine -/

/-- A lock identity (R122). -/
inductive LockId where
  | key (ns : Nat) (k : Bytes)
  | stream (ns n : Nat)
  | chain (ns : Nat)
  | barrier (ns : Nat)
  deriving DecidableEq, Repr

/-- A command from its arrival on (R96, R109). `arrival` is its place in the order of arrival (R124) and the number
of its context once dispatched; `whole` that its whole message is in sequence; `cells` the pool cells its waiting
value holds. -/
structure Cmd where
  session : Nat
  queue : Nat
  tag : Nat
  op : Nat
  raw : Bool
  fua : Bool
  ns : Nat
  timeout : Nat
  param : Bytes
  key : Bytes
  valLen : Nat
  value : Bytes
  whole : Bool
  locks : List LockId
  isWrite : Bool
  waited : Nat
  cells : Nat
  /-- The message ended under R96 with this DETAIL of MALFORMED. -/
  broken : Option Nat
  /-- The LG_RELAY parameter block of a relayed command, empty for any other (R314, R327). -/
  mirror : Bytes
  deriving DecidableEq, Repr

end Sys2Proof.Machine
end

