-- ==== Sys2Proof/Machine/ControlTypes.lean ====
section
/-! DEFINITION. State of the start and reset logic, the image window, SEC, the event journal, power, clocks and
supervision (R37 to R62, R208 to R236, R332 to R341, R355 to R385). -/

namespace Sys2Proof.Machine

/-! ## Start, reset and power loss -/

/-- The phases that CHIP_BOOT_STATUS.PHASE names (R62). -/
inductive Phase where
  | reset
  | aon
  | rom
  | fw
  | mem
  | media
  | image
  | index
  | metadata
  | ports
  | run
  | recovery
  | test
  | waitImage
  | halt
  deriving DecidableEq, Repr

/-- What the flush now running ends in: a power-fail flush (R56), or the quiesce and flush of a pin reset, a device
reset or an ordered shutdown (R51). -/
inductive FlushKind where
  | none
  | powerFail
  | pin
  | device
  | shutdown
  deriving DecidableEq, Repr

/-- The balls that carry levels (R43, R46, R55, R395, R400). -/
structure Pins where
  resetLow : Bool
  pfLow : Bool
  straps : Nat
  ready : Bool
  faultLow : Bool
  ppsOut : Bool
  act0 : Bool
  act1 : Bool
  thermLow : Bool
  deriving DecidableEq, Repr

/-- State of the start, of resets and of the power-fail flush (R46 to R62). `flushStep` is the last event of R56 that
has happened; `bootSrc` the straps as last sampled; `holdup` that a flush had begun before an unclean start; `started`
that READY has been asserted in this start. -/
structure Life where
  powered : Bool
  phase : Phase
  bootSrc : Nat
  pfWait : Bool
  flush : FlushKind
  flushStep : Nat
  overtime : Bool
  glitches : Nat
  edges : Nat
  retries : Nat
  stagedBytes : Nat
  putsDropped : Nat
  pfStatus : Nat
  started : Bool
  startMs : Nat
  startCycle : Nat
  flushCycle : Nat
  unclean : Bool
  holdup : Bool
  replayMs : Nat
  discarded : Nat
  fwCopied : Bool
  coresDown : Bool
  datapathDown : Bool
  /-- RESET_N fell during a power-fail flush; the reset takes effect after event 9 (R59). -/
  resetHeld : Bool
  /-- Faults that hold FAULT_N low: bit 0 image, 1 alarm, 2 stuck PWR_FAIL_N, 3 ordered shutdown, 4 test (R42, R44,
  R51, R220, R380). -/
  faults : Nat
  deriving DecidableEq, Repr

/-! ## The image window -/

/-- States of the image window (R39). -/
inductive ImgState where
  | home
  | recv
  | check
  | store
  deriving DecidableEq, Repr

/-- The image window (R37 to R40): its owner, the bytes received, the error fields and the inactive copy. `task`
is what a check in CHECK serves: 0 APPLY, 1 STORE; `copyErrA` and `copyErrB` are STAGE and CODE of the flash copies as the start found them. -/
structure ImgWindow where
  state : ImgState
  owner : Option Iface
  bytes : Bytes
  rcvd : Nat
  len : Nat
  overrun : Bool
  enrol : Bool
  persist : Bool
  task : Nat
  target : Nat
  copyA : Bool
  errSection : Nat
  errStage : Nat
  errCode : Nat
  inactiveA : Bool
  copyApplied : Option Bool
  fallback : Bool
  src : Nat
  checked : Option Image
  copyErrA : Nat × Nat
  copyErrB : Nat × Nat
  deriving DecidableEq, Repr

/-! ## SEC -/

/-- A key slot that holds a key (R208): policy, privileges, generations newest first. -/
structure KeySlot where
  policy : Nat
  priv : Nat
  gens : List KeyGen
  deriving DecidableEq, Repr

/-- A load that passed its checks and waits for both key-store copies (R212). `ctx` is the command's context, none
for a load over SPI. -/
structure KeyLoad where
  slot : Nat
  entry : KeySlot
  gen : Nat
  ctx : Option Nat
  iface : Iface
  deriving DecidableEq, Repr


/-- Time states (R231). -/
inductive TimeState where
  | free
  | synced
  | holdover
  | untrusted
  deriving DecidableEq, Repr

/-- The device's 802.1AS time (R230 to R233), held in femtoseconds; `slew` is the offset still to be slewed, `rate` the
time of a core cycle in 10⁻⁶ fs with `frac` what is left below 1 fs, and `edge` the last armed edge: its cycle and the
time that it marked. -/
structure DevTime where
  fs : Nat
  rate : Nat
  frac : Nat
  edge : Option (Nat × Nat)
  slew : Int
  state : TimeState
  armed : Bool
  armedAt : Nat
  srcLost : Bool
  holdSince : Nat
  stepped : Bool
  deriving DecidableEq, Repr

/-- SEC's non-volatile store and fuses (R30, R31, R161, R209, R217, R221 to R226, R231, R344). Alarms and erases
of the key store do not touch the fuses. -/
structure Secure where
  serial : Nat
  rootKey : Bytes
  fwAuthority : List Bytes
  authority : Option Bytes
  floor : Nat
  indexKey : Option Bytes
  svnFloor : Nat
  slotGen : Tab Nat
  txGen : Tab Nat
  eraseMarks : Tab Bool
  alarmLatch : Nat
  alarms : Nat
  eraseEpoch : Nat
  erased : Bool
  epochDead : Bool
  unlockFails : Nat
  savedTime : Nat
  lateTriggers : List (Nat × Nat × Nat)
  alarmDue : Bool
  deriving DecidableEq, Repr

/-- SEC's volatile state (R213, R217, R223, R224). `stops` holds, by port, the AN whose exhaustion in this core cycle left no
successor (R227, R235). -/
structure Sec where
  locked : Bool
  slots : Tab KeySlot
  ksk : Option Bytes
  ik : Option Nat
  lk : Option Nat
  sources : Nat
  nonce : Bytes
  sig : Tab Word
  blocked : Bool
  kload : Bytes
  kloadCount : Nat
  loads : List KeyLoad
  erases : List (Nat × Option Nat × Nat)
  sas : Tab Sa
  scis : Tab Nat
  stops : Tab Nat
  msaErr : Nat
  time : DevTime
  deriving DecidableEq, Repr

/-! ## The event journal -/

/-- One part of a journal record (R332, R333). -/
structure JPart where
  sev : Nat
  tq : Nat
  more : Bool
  part : Nat
  code : Nat
  time : Nat
  param : Bytes
  deriving DecidableEq, Repr

/-- A part in the ring with its SEQ; `kept` once it is persisted (R337). -/
structure RingPart where
  seq : Nat
  kept : Bool
  refused : Bool
  p : JPart
  deriving DecidableEq, Repr

/-- The event journal (R335 to R340). `reserved` is the end of the reserved SEQ block and stands, like `store`,
across power loss; `badSlots` are the slots whose CRC failed when the journal was last read (R332). -/
structure Journal where
  fifo : List JPart
  ring : List RingPart
  store : List (List (Nat × JPart))
  nextSeq : Nat
  reserved : Nat
  lost : Nat
  lostSev : Nat
  lostTime : Nat
  fullLatch : Bool
  stopLatch : Bool
  ended : Bool
  rdHit : Bool
  rdData : Bytes
  badSlots : List Nat
  deriving DecidableEq, Repr

/-! ## Power, clocks and supervision -/

/-- States of a power domain (R356). -/
inductive DomState where
  | on
  | gated
  | retain
  | off
  deriving DecidableEq, Repr

/-- A request for a domain's state (R358, R361); `ctx` the POWER_SET that made it, none for PWR_REQ. -/
structure DomReq where
  target : DomState
  ctx : Option Nat
  iface : Iface
  deriving DecidableEq, Repr

/-- A power domain: its state, the sequence running in it (`drained` once nothing is left inside) and the one held
request (R358, R359). -/
structure Domain where
  state : DomState
  running : Option DomReq
  drained : Bool
  prev : DomState
  held : Option DomReq
  deriving DecidableEq, Repr

/-- Power control (R361, R364, R372). -/
structure Power where
  doms : List Domain
  resultDomain : Nat
  resultCode : Nat
  resultPrev : Nat
  resultState : Nat
  accAddr : Nat
  deriving DecidableEq, Repr

/-- A trigger input (R374, R375, R277). `state` is its band as SUP_TRIGn_STATUS codes it; `activeFor` the samples
of ACTIVE in a row, `activeAt` the time and TQ of the first of them, `idleFor` the samples of IDLE in a row; `fired` that it
waits to read IDLE before it may fire again. -/
structure Trigger where
  level : Nat
  state : Nat
  activeFor : Nat
  activeAt : Nat × Nat
  idleFor : Nat
  fired : Bool
  fault : Bool
  faultSince : Nat
  deriving DecidableEq, Repr

/-- A thermal site (R378, R379): readings in °C, and whether it has given one. -/
structure Site where
  sampled : Bool
  now : Int
  peak : Int
  failed : Bool
  hot : Nat
  deriving DecidableEq, Repr

/-- Supervision (R374 to R382). -/
structure Supervision where
  triggers : List Trigger
  uv : Nat
  ov : Nat
  sites : List Site
  pfStuck : Bool
  pfIgnored : Bool
  aonHot : Bool
  deriving DecidableEq, Repr

/-- The clocks that are present or locked: CLK_STATUS's bits (R373), and when each was lost. -/
structure Clocks where
  status : Nat
  lostAt : Tab Nat
  deriving DecidableEq, Repr

/-- The previous SPI frame, whose response the next frame carries (R390, R391). -/
structure SpiPrev where
  status : Nat
  addr : Nat
  data : Nat
  deriving DecidableEq, Repr

end Sys2Proof.Machine
end

