-- ==== Sys2Proof/Machine/LeagueTypes.lean ====
section
/-! DEFINITION. State of the match array, the Rod bus and the League engine (R292 to R331). -/

namespace Sys2Proof.Machine

/-- An entry of the match array (R295): VALUE and MASK of its bank's width, and RESULT. -/
structure MatEntry where
  value : Nat
  mask : Nat
  result : Nat
  deriving DecidableEq, Repr

/-- The match array and its shadow (R292, R300, R301). An entry's key is its address, bank ‖ first unit. -/
structure Mat where
  widths : List Nat
  entries : Tab MatEntry
  scrub : Nat
  fixTimes : List Nat
  entErr : Nat
  entValid : Bool
  srchHit : Bool
  srchMulti : Bool
  srchResult : Nat
  srchAddr : Nat
  deriving DecidableEq, Repr

/-- Cascade states (R306, R310). -/
inductive RodState where
  | off
  | check
  | up
  | down
  deriving DecidableEq, Repr

/-- A placement search on the Rod bus whose token is out (R304): the context that asked, the operation of its QUIRE, and
whether the head's own banks matched. -/
structure RodSearch where
  ctx : Nat
  op : Nat
  own : Bool
  deriving DecidableEq, Repr

/-- The Rod bus (R303 to R307, R310). `waiting` are the searches whose words have not been sent, by context and
operation; `found` the outcomes of a command whose other operations are still searched; `words`, on a deputy, those received
and not yet answered. `wordOut` is the word that the head drives in the present slot, `tokenOut` the last token that the
device sent on MATCH_OUT, and `disc` the discovery token that came back to the head. -/
structure Rod where
  state : RodState
  alive : Bool
  full : Bool
  clkOk : Bool
  deputies : Nat
  ringOk : Bool
  ringCode : Nat
  results : Tab Nat
  waiting : List (Nat × Nat)
  flights : List RodSearch
  found : List (Nat × Nat × Option Nat)
  lostRow : Nat
  words : List Nat
  wordOut : Option Nat
  tokenOut : Nat
  disc : Option Nat
  deriving DecidableEq, Repr

/-- Member states on the head (R317, R331). -/
inductive MemberState where
  | absent
  | joining
  | up
  | lost
  | left
  deriving DecidableEq, Repr

/-- A member as the head sees it (R316, R317). `inSess` is the League session the member opened, `outSess` the one
the head opened. -/
structure Member where
  state : MemberState
  role : Nat
  pos : Nat
  missed : Nat
  heardAt : Option Nat
  flags : Nat
  ipv4 : Nat
  ipv6 : Nat
  port : Nat
  inSess : Option Nat
  outSess : Option Nat
  leaving : Option Nat
  deriving DecidableEq, Repr

/-- A deputy's or member's view of the head (R318). -/
inductive HeadView where
  | none
  | joining
  | up
  | lost
  deriving DecidableEq, Repr

/-- What a League request of this device's own serves, until its answer arrives. -/
inductive CallKind where
  | join
  | keepalive
  | dirSet (closing : Bool)
  | fence
  | relay (ctx member : Nat)
  | replicate (ctx mirror : Nat)
  | flush (ctx member : Nat)
  | leave
  deriving DecidableEq, Repr

/-- A League request sent and not answered (R315, R325, R327). -/
structure LgCall where
  session : Nat
  tag : Nat
  kind : CallKind
  deriving DecidableEq, Repr

/-- Where a League session that this device opens leads: the head, a member, or a mirror. -/
inductive LgTarget where
  | toHead
  | toMember (id : Nat)
  | toMirror (id : Nat)
  deriving DecidableEq, Repr

/-- What this device has learned of a peer's link-layer address: the receive SC of the answer, as the classification
word carries it, and the address (R296, R312). -/
structure Neighbour where
  v6 : Bool
  ip : Nat
  sc : Nat
  mac : Nat
  deriving DecidableEq, Repr

/-- The League engine (R315 to R328, R331). `queued` are requests that wait for their session to open; `asked` the
addresses, IPv6 or not, that this device has asked for, `neighbours` those learned for the next open (R312). `dirGen` and
`dir` are the stored directory (position · 2^17 + address) and stand in the flash system area; `dirWidths` are the bank
widths of the image that was applied last, at which the stored entries were written (R35, R293). -/
structure League where
  members : Tab Member
  head : HeadView
  targets : List (Nat × LgTarget)
  calls : List LgCall
  queued : List (LgTarget × Bytes × CallKind)
  asked : List (Bool × Nat)
  neighbours : List Neighbour
  nextTag : Nat
  dirGen : Nat
  dir : Tab MatEntry
  dirStored : Bool
  dirWidths : List Nat
  headGen : Nat
  busy : Bool
  err : Nat
  fenceTime : Nat
  tickets : List (Bytes × Nat)
  lostRules : List (Nat × MatEntry)
  relayed : List (Nat × Nat)
  deriving DecidableEq, Repr

end Sys2Proof.Machine
end

