-- ==== Sys2Proof/Machine/MediaTypes.lean ====
section
/-! DEFINITION. State of the namespaces, the hash index, the value pipeline, the flash media, Furlong and Chain data
and firmware (R135 to R207, R237 to R291, R342 to R354). -/

namespace Sys2Proof.Machine

/-! ## Namespaces -/

/-- State of a namespace (R157). -/
inductive NsState where
  | active
  | deleting
  deriving DecidableEq, Repr

/-- A namespace (R149 to R154): its creation entry, the policy now in force, creation version and salt. `order` is its
place among the namespaces in DELETING, `sweepStart` the moment its sweep began. -/
structure Namespace where
  entry : NsEntry
  comp : Nat
  depth : Nat
  noGain : Nat
  cls : Nat
  createVer : Nat
  salt : Bytes
  state : NsState
  order : Nat
  sweepStart : Option Nat
  lastVersion : Nat
  keyGen : Nat
  deriving DecidableEq, Repr

/-! ## Stored values (R188) -/

/-- A segment descriptor and its stored body. -/
structure StoredSeg where
  counter : Nat
  tag : Bytes
  crc : Nat
  form : Nat
  body : Bytes
  deriving DecidableEq, Repr

/-- A stored value: the fields of its header, and its segments. -/
structure Value where
  kind : Nat
  ns : Nat
  key : Bytes
  enc : Bool
  version : Nat
  valueLen : Nat
  keyGen : Nat
  createVer : Nat
  segNo : Nat
  segs : List StoredSeg
  deriving DecidableEq, Repr

/-! ## The hash index (R163 to R183) -/

/-- An index entry (R164). -/
structure IdxEntry where
  sig : Nat
  loc : Nat
  seg : Bool
  tag : Nat
  deriving DecidableEq, Repr

/-- A delta record (R172). `block` is the LOC of the delta block that carries it and `kept`
that this block is programmed. -/
structure Delta where
  pos : Nat
  set : Bool
  unit : Nat
  slot : Nat
  ns : Nat
  version : Nat
  entry : IdxEntry
  oldLoc : Nat
  block : Nat
  kept : Bool
  deriving DecidableEq, Repr

/-- A checkpoint copy of a unit (R174): its AS_OF and its occupied slots. -/
structure UnitCopy where
  asOf : Nat
  slots : Tab IdxEntry
  deriving DecidableEq, Repr

/-- What a commit page holds (R174). `purge` is the sweep's cursor: the namespace and the next unit. -/
structure CommitPage where
  gen : Nat
  origin : Nat
  used : Nat
  keys : Tab Nat
  purge : Option (Nat × Nat)
  deriving DecidableEq, Repr

/-- A checkpoint page on flash (R174): its LOC, its generation, and its unit records or what its commit page says. -/
structure CpPage where
  loc : Nat
  gen : Nat
  units : Tab UnitCopy
  commit : Option CommitPage
  deriving DecidableEq, Repr

/-- A checkpoint generation in progress (R175): its commit page, the units still to be copied and how many are copied. -/
structure CpRun where
  page : CommitPage
  units : List Nat
  copied : Nat
  startCycle : Nat
  deriving DecidableEq, Repr

/-- States that IDX_STATUS shows (R185). -/
inductive IdxState where
  | off
  | loading
  | replay
  | ready
  | rebuild
  | rescan
  deriving DecidableEq, Repr

/-- The purge sweep of a namespace in DELETING (R154, R181). -/
structure Sweep where
  ns : Nat
  next : Nat
  removed : Nat
  deriving DecidableEq, Repr

/-- A deleted Extent object whose segment entries are still to be removed (R146, R182). -/
structure Removal where
  ns : Nat
  key : Bytes
  createVer : Nat
  next : Nat
  limit : Nat
  deriving DecidableEq, Repr

/-- The index: its slots by unit · 28 + bucket · 7 + slot, its counts, its deltas from the replay origin on, and its
checkpoint pages. `began` and `cause` are of the load, rebuild or rescan in progress. -/
structure Index where
  state : IdxState
  slots : Tab IdxEntry
  asOf : Tab Nat
  dirty : List Nat
  used : Nat
  keys : Tab Nat
  nextPos : Nat
  deltas : List Delta
  pages : List CpPage
  committed : CommitPage
  run : Option CpRun
  heldSince : Option Nat
  sweep : Option Sweep
  removals : List Removal
  keysFull : Bool
  began : Nat
  cause : Nat
  deriving DecidableEq, Repr

/-! ## The value pipeline (R186 to R205) -/

/-- Where a segment of a write stands (R200). `merging` waits for the segment to be merged, `checking` for the check
of a RAW body, `waiting` for a CZ engine, `unsealed` for an AE lane. -/
inductive SegStage where
  | merging
  | checking
  | waiting
  | compressing (engine noGain comp depth : Nat)
  | unsealed
  | sealing (lane : Nat)
  | placed
  deriving DecidableEq, Repr

/-- A segment of a write. `base` is the value it is merged into, `patches` the new bytes by offset. -/
structure SegWork where
  no : Nat
  len : Nat
  base : Option Nat
  patches : List (Nat × Bytes)
  plain : Bytes
  stage : SegStage
  form : Nat
  body : Bytes
  crc : Nat
  counter : Nat
  deriving DecidableEq, Repr

/-- One operation of a write: what its commit stores and removes. `drops` are Extent segments that lose their mapping,
`size` the value's length or the object's size, `version` and `loc` are set once a value written through is placed; `time`, `tq`, `sealRec`
and `record` are a Chain record's, `before` the stream's TIME before an append that is written through. -/
structure WOp where
  op : Nat
  kind : Nat
  ns : Nat
  key : Bytes
  bind : Option KeyGen
  segs : List SegWork
  drops : List Nat
  size : Nat
  version : Nat
  loc : Nat
  time : Nat
  tq : Nat
  sealRec : Bool
  record : Bytes
  before : Nat
  deriving DecidableEq, Repr

/-- Where a write stands: its segments are being made; it waits for the programs of R129, R131 or the window of
R325. -/
inductive WritePhase where
  | building
  | programming
  | mirroring
  deriving DecidableEq, Repr

/-- A write (R200): its operations, whether it is written through, how many bytes have been cut, the offset of the next
piece of an Extent command (R129), and what its response carries. -/
structure WriteJob where
  ops : List WOp
  phase : WritePhase
  through : Bool
  cut : Nat
  pieceOff : Nat
  version : Nat
  param : Bytes
  data : Bytes
  status : Nat
  deriving DecidableEq, Repr

/-- A segment of a read: its number in the command, where it lies and the value it belongs to, its place there, what of it is
released, what is sent before and after it, the DETAIL of its failure, and its bytes once it has passed. `loc` 0 is a
range that no segment maps. -/
structure ReadSeg where
  no : Nat
  loc : Nat
  src : Option Value
  idx : Nat
  off : Nat
  len : Nat
  pre : Bytes
  post : Bytes
  detail : Nat
  ready : Option Bytes
  stop : Option (Nat × Nat)
  deriving DecidableEq, Repr

/-- A read whose segments are being checked and released (R201, R202). -/
structure ReadJob where
  segs : List ReadSeg
  raw : Bool
  flags : Nat
  version : Nat
  param : Bytes
  total : Nat
  sent : Bool
  delivered : Nat
  deriving DecidableEq, Repr

/-- What an engine or a lane holds: a command's operation and segment, or the segment of a read. -/
structure EngineHold where
  ctx : Nat
  op : Nat
  seg : Nat
  deriving DecidableEq, Repr

/-- The pipeline (R150, R193, R198, R199): its engines, the write counter with the end of its reserved block, and the salts
that have ever been drawn. -/
structure Vpl where
  cz : Tab EngineHold
  dz : Tab EngineHold
  ae : Tab EngineHold
  salts : List Bytes
  wctr : Nat
  reserved : Nat
  warned : Nat
  exhausted : Bool
  deriving DecidableEq, Repr

/-! ## The flash media (R237 to R267) -/

/-- Bushel states (R251). -/
inductive BState where
  | free
  | erasing
  | opened
  | parked
  | closed
  | victim
  | released
  | kept
  | system
  | retired
  deriving DecidableEq, Repr

/-- A Bushel table entry (R251) with the end of its last committed group and the dies of its SUSPECT blocks. -/
structure Bushel where
  state : BState
  mode : Nat
  area : Nat
  head : Nat
  ns : Nat
  flags : Nat
  failedDie : Nat
  absentDie : Nat
  tlcErases : Nat
  pslcErases : Nat
  valid : Nat
  written : Nat
  committed : Nat
  rdCount : Nat
  closeTime : Nat
  openSeq : Nat
  firstTime : Nat
  pin : Nat
  maxCorr : Nat
  suspect : List Nat
  deriving DecidableEq, Repr

/-- A log head (R245): its open Bushel, its last append, and the delta block that its current group
holds: block number and LOC. -/
structure Head where
  bushel : Option Nat
  ns : Nat
  lastAppend : Nat
  block : Option (Nat × Nat)
  deriving DecidableEq, Repr

/-- Staged data (R57, R247): where it is to be programmed, and the command that staged it. `through` is data written
through, which takes no room in MB1 (R129). -/
structure Staged where
  loc : Nat
  grains : Nat
  head : Nat
  session : Nat
  arrival : Nat
  since : Nat
  through : Bool
  deriving DecidableEq, Repr

/-- Why a Bushel is being collected. -/
inductive CollKind where
  | gc
  | fold
  | wear (target : Nat)
  | refresh (cause : Nat)
  deriving DecidableEq, Repr

/-- A fold that FMM_CTL.FOLD_GO commanded (R250). -/
structure FoldRun where
  count : Nat
  bytes : Nat
  since : Nat
  deriving DecidableEq, Repr

/-- What the power-fail area holds (R48, R56): the staging written, whether the shutdown marker follows it, what
CHIP_PF_STATUS shows of the flush, and the Bushels whose programs event 4 aborted (R57). -/
structure PfArea where
  staged : List Staged
  marker : Bool
  status : Nat
  aborted : List Nat
  deriving DecidableEq, Repr

/-- The media manager. `bushels` lists the Bushels that have ever been opened or changed; `freed` counts grains freed since the
24-Bushel floor was entered, `waits` the writes that wait under it, `blocks` holds the replaced
entries of the block map, by Bushel · 64 + die; `values` the values by LOC, `dead` the LOCs of those that have become invalid,
`moving` those that a collection has still to copy; `health` the counts of the health page by offset. -/
structure Fmm where
  bushels : Tab Bushel
  heads : List Head
  values : Tab Value
  dead : List Nat
  moving : List Nat
  fillers : Tab Nat
  deltaBlocks : Tab Nat
  staged : List Staged
  blocks : Tab Nat
  spareUsed : Tab Nat
  lostDies : List Nat
  colls : Tab CollKind
  floor : Nat
  exhausted : Bool
  suspended : Bool
  suspendedSince : Nat
  fold : Option FoldRun
  openSeq : Nat
  patrol : Nat × Nat
  sweepMarks : Nat
  health : Tab Nat
  binMs : Tab Nat
  upMs : Nat
  pf : Option PfArea
  freed : Nat
  waits : Tab Nat
  deriving DecidableEq, Repr

/-! ## Furlong, Fathom and Chain (R271 to R291) -/

/-- A stream of a Furlong namespace: last accepted TIME and next SEQ (R272). -/
structure Stream where
  last : Nat
  next : Nat
  deriving DecidableEq, Repr

/-- An extent entry of the stream directory (R273). -/
structure Extent where
  firstGrain : Nat
  first : Nat
  last : Nat
  count : Nat
  deriving DecidableEq, Repr

/-- A HELD Fathom window (R276, R280). `source` is 0 for FATHOM_PIN, 1 to 4 for a trigger. -/
structure Window where
  source : Nat
  t : Nat
  start : Nat
  stop : Nat
  tq : Nat
  merges : Nat
  deriving DecidableEq, Repr

/-- A Chain record held (R281): where it lies, its stamp, its length, whether it is a seal, and its hash H, which the
next record's PREV carries. -/
structure ChainRec where
  loc : Nat
  time : Nat
  tq : Nat
  len : Nat
  sealRec : Bool
  hash : Bytes
  deriving DecidableEq, Repr

/-- A Chain namespace's ledger (R281 to R289). `sealDue` is a periodic seal still due, `expiryDue` an expiry seal. -/
structure Ledger where
  next : Nat
  first : Nat
  keptFirst : Nat
  lastHash : Bytes
  recs : Tab ChainRec
  sealDue : Bool
  expiryDue : Bool
  ended : Bool
  deriving DecidableEq, Repr

/-- Furlong, Fathom and Chain state. `windowsKept` is the window table in the system area; `streams` is keyed
namespace · 2^16 + stream, `extents` Bushel · 2^26 + namespace · 2^16 + stream. -/
structure Capture where
  streams : Tab Stream
  streamsKept : Tab Stream
  extents : Tab Extent
  windows : Tab Window
  windowsKept : Tab Window
  windowDirty : Bool
  noRefill : List Nat
  ledgers : Tab Ledger
  sctr : Nat
  sctrReserved : Nat
  chainFull : Bool
  chainLow : Bool
  missed : Nat
  firings : List (Nat × Nat × Nat)
  deriving DecidableEq, Repr

/-! ## Firmware (R343 to R354) -/

/-- A firmware image: its header's version and SVN, and its bytes. -/
structure FwImage where
  version : Nat
  svn : Nat
  bytes : Bytes
  deriving DecidableEq, Repr

/-- States of the active slot and of the staging slot (R345). -/
inductive FwActive where
  | valid
  | copying
  | bad
  deriving DecidableEq, Repr

inductive FwStaging where
  | empty
  | writing
  | staged
  deriving DecidableEq, Repr

/-- What runs (R354). -/
inductive FwRunning where
  | none
  | slot
  | live
  | rom
  deriving DecidableEq, Repr

/-- Firmware's state. `stage` is a staging write in progress with its context (none over SPI); `act` an activation:
its context, the cycle of its pause and what ran before it; `kicked` the core cycle of each cluster's last kick. -/
structure Fw where
  running : FwRunning
  runImage : Option FwImage
  active : FwActive
  activeImage : Option FwImage
  staging : FwStaging
  stagedImage : Option FwImage
  stage : Option (Option Nat × FwImage)
  act : Option (Nat × Nat × FwRunning × Option FwImage)
  wdogTimes : List Nat
  kicked : Tab Nat
  loadOpen : Bool
  loadBytes : Bytes
  loadCode : Nat
  heldAct : Option Nat
  deriving DecidableEq, Repr

/-! ## Dispatched commands -/

/-- What a dispatched command is doing. `fresh` waits for the step that runs its opcode; the others wait for the step
that ends them. `window` waits for the window table: `back` are the Bushels that a release has returned, none for a pin. -/
inductive Job where
  | fresh
  | placing
  | write (w : WriteJob)
  | read (r : ReadJob)
  | flush
  | nsCreate (e : NsEntry)
  | nsDelete
  | window (w : Nat) (back : Option Nat)
  | keyCommit
  | keyErase (slot : Nat)
  | fwStage
  | fwActivate
  | power (prev : Nat)
  | relayed (member : Nat)
  | closed
  deriving DecidableEq, Repr

/-- A dispatched command (R120): the queue it was arbitrated as, its place in the order of dispatch (R193), the storage keys
that it bound then by namespace (R197), whether it has passed its lock identities on (R126), and its job. `dead` a
command whose session is gone, so that its response is discarded (R103). -/
structure Flight where
  cmd : Cmd
  cls : Nat
  order : Nat
  keys : Tab KeyGen
  passed : Bool
  dead : Bool
  job : Job
  deriving DecidableEq, Repr

end Sys2Proof.Machine
end

