-- ==== Sys2Proof/Machine/Device.lean ====
section
/-! DEFINITION. The state of the DLR-1664 but for SEC's non-volatile store and the queue of waiting commands. -/

namespace Sys2Proof.Machine

/-- The command engine (R115 to R126, R134). `queued` holds the commands that wait, `flights` those dispatched, by
arrival number; `deficits` and `served` the round robin; `sessNext` the session that each queue serves next. -/
structure Engine where
  queued : Tab Cmd
  flights : Tab Flight
  arrivals : Nat
  dispatched : Nat
  uCost : Nat
  allCost : Nat
  lastU : Nat
  lastAll : Nat
  deficits : List Int
  served : Nat
  sessNext : List Nat
  mgmt : Tab Nat
  weights : List Nat
  urgentPct : Nat
  mRate : Nat
  paused : Bool
  slotsLow : Nat
  ctxEmptySince : Option Nat
  ctxWaited : Bool
  deriving DecidableEq, Repr

/-- How often a limited record has been written: the cycles of its records and what has happened since the last. -/
structure Rate where
  times : List Nat
  since : Nat
  deriving DecidableEq, Repr

/-- What SEC hands to other blocks at a start: the serial number of the CHIP block and the index hash key (R161, R284). -/
structure Ident where
  serial : Nat
  indexKey : Bytes
  deriving DecidableEq, Repr

/-- The two key-store copies in the flash system area (R218): the ERASE_EPOCH whose KSK wraps each and its slots. -/
structure KeyStore where
  copyA : Option (Nat × Tab KeySlot)
  copyB : Option (Nat × Tab KeySlot)
  deriving DecidableEq, Repr

/-- The device but for SEC's non-volatile store and fuses. `latches` holds the HI words that reads of LO have latched,
by path · 2^24 + address; `readData` the word that the last register read gave. -/
structure Dev where
  cycles : Nat
  free : Nat
  pins : Pins
  life : Life
  regs : Tab Word
  latches : Tab Word
  readData : Word
  rates : Tab Rate
  imgWin : ImgWindow
  image : Option Image
  copyA : Option Bytes
  copyB : Option Bytes
  sec : Sec
  evj : Journal
  power : Power
  sup : Supervision
  clocks : Clocks
  spi : Option SpiPrev
  spiErrs : Nat × Nat × Nat
  ports : List Port
  lanes : List Lane
  poolLow : Nat
  belowXoff : Bool
  rx : Tab RxPkt
  rxNext : Nat
  cellsHeld : Nat
  sess : Tab Sess
  epochs : Tab Nat
  cqe : Engine
  mat : Mat
  rod : Rod
  lge : League
  ident : Ident
  keyStore : KeyStore
  nss : Tab Namespace
  idx : Index
  vpl : Vpl
  fmm : Fmm
  cap : Capture
  fw : Fw
  deriving DecidableEq, Repr

end Sys2Proof.Machine
end

