-- ==== Sys2Proof/Machine/RegTable.lean ====
section
/-! DEFINITION. The registers whose value is held as a word: addresses, reset values and access types (R12, R62, R82,
R83, R108, R134, R185, R207, R236, R268 to R270, R291, R309, R310, R331, R341, R354, R372, R373, R385, R397, R398).
Registers that show other state are computed where they are read. -/

namespace Sys2Proof.Machine

/-- A row of the register table: `count` registers from `base` on, `stride` bytes apart, with the reset value and
the bits of each access type. -/
structure RegRow where
  base : Nat
  stride : Nat
  count : Nat
  reset : Nat
  rw : Nat
  rwl : Nat
  w1c : Nat
  rc : Nat
  deriving DecidableEq, Repr

/-- One register of RW bits. -/
def rwReg (a reset mask : Nat) : RegRow := ⟨a, 4, 1, reset, mask, 0, 0, 0⟩

/-- `n` registers of RW bits, 4 bytes apart. -/
def rwRegs (a n : Nat) : RegRow := ⟨a, 4, n, 0, 0xFFFFFFFF, 0, 0, 0⟩

/-- One register of RW and RWL bits. -/
def rwlReg (a reset rw rwl : Nat) : RegRow := ⟨a, 4, 1, reset, rw, rwl, 0, 0⟩

/-- An IRQ_STATUS register of W1C bits. -/
def w1cReg (a mask : Nat) : RegRow := ⟨a, 4, 1, 0, 0, 0, mask, 0⟩

/-- `n` saturating counters that clear on read. -/
def rcRegs (a n : Nat) : RegRow := ⟨a, 4, n, 0, 0, 0, 0, 0xFFFFFFFF⟩

/-- CHIP (R62, R397). -/
def chipRows : List RegRow :=
  [rwReg 0x14 0 0xFFFFFFFF, w1cReg 0x20 0x80000000, rwReg 0x24 0 0x8007FFFF, w1cReg 0x28 0x80000000,
   rcRegs 0x2C 1, ⟨0x44, 4, 1, 1, 0, 0, 0xFF, 0⟩]

/-- PWR, CLK and SUP (R372, R373, R385). -/
def pwrRows : List RegRow :=
  [rwReg 0x1000 0 0x007F0003, w1cReg 0x1040 7, rwReg 0x1044 0 7, w1cReg 0x1048 0x80000000, rcRegs 0x1100 5,
   w1cReg 0x2004 0x7F, rwReg 0x2008 0 0x7F,
   rwReg 0x3008 0 0xF, ⟨0x3010, 0x10, 4, 1, 0x80003FFF, 0, 0, 0⟩, ⟨0x3014, 0x10, 4, 0, 0x03FF007F, 0, 0, 0⟩,
   rwReg 0x3050 0x005A006E 0x00FF00FF, rwReg 0x3054 0 1, w1cReg 0x3058 0x1F, rwReg 0x305C 0 0x1F, rcRegs 0x3100 3]

/-- MGMT (R38, R398). -/
def mgmtRows : List RegRow :=
  [w1cReg 0x4000 8, rwReg 0x4004 0 0xF, rcRegs 0x4010 4, rwReg 0x4100 0 0xF0, rwReg 0x4104 0 0x7FFFFF,
   w1cReg 0x410C 0xE00]

/-- The four EP blocks (R82): each register lies once in each block. -/
def epRows : List RegRow :=
  [⟨0x10000, 0x1000, 4, 0x2400, 0, 0x0FFF3FFF, 0, 0⟩, ⟨0x10004, 0x1000, 4, 0x800, 0, 0x13FFF, 0, 0⟩,
   ⟨0x1000C, 0x1000, 4, 0xFFFF0000, 0xFFFF0000, 0x1FF, 0, 0⟩, ⟨0x10010, 0x1000, 4, 0, 0xFFFFFF, 0, 0, 0⟩,
   ⟨0x10018, 0x1000, 4, 0, 0, 0, 0x3F, 0⟩, ⟨0x1001C, 0x1000, 4, 0, 0x3F, 0, 0, 0⟩,
   ⟨0x1002C, 0x1000, 4, 0, 0, 0xFFFF, 0, 0⟩, ⟨0x10030, 0x1000, 4, 0, 0, 0xFFFFFFFF, 0, 0⟩]

/-- SDQ (R83). -/
def sdqRows : List RegRow :=
  [rwlReg 0x18000 0x390 0 0x3FF, rwReg 0x1800C 0x20001000 0xFFFFFFFF,
   ⟨0x18010, 0x10, 4, 0x01043F20, 0x010F3FF1, 0, 0, 0⟩]

/-- DKT (R108). -/
def dktRows : List RegRow :=
  [rwlReg 0x20000 0x1E401000 0 0xFFFF1FFF, rwlReg 0x20004 0x10 0 0x7F, rwReg 0x20008 0x03E80008 0xFFFF00FF,
   rwReg 0x2000C 0x07D06400 0xFFFFFF00, rwReg 0x20010 0x00080040 0x07FF07FF, rwReg 0x2001C 0 0xFFF,
   w1cReg 0x20030 0xF, rwReg 0x20034 0 0xF, rcRegs 0x20100 16]

/-- CQE (R134). -/
def cqeRows : List RegRow :=
  [rwReg 0x30000 0x01010101 0xFFFFFFFF, rwReg 0x30004 0x03E80019 0xFFFF007F,
   ⟨0x30010, 4, 8, 0x1000, 0, 0x1FFF, 0, 0⟩, w1cReg 0x30048 0x1F, rwReg 0x3004C 0 0x1F, rwReg 0x30050 0 0x7FFF,
   rcRegs 0x30100 13]

/-- SEC (R236). -/
def secRows : List RegRow :=
  [rwlReg 0x60000 0 0 0x10, rwReg 0x60008 0 0x1FF, rwReg 0x60014 0 0x3F, rwReg 0x60080 0 0x07FF01FF,
   w1cReg 0x60088 0x100, rwReg 0x60098 0 0xFFFFFFFF, rwReg 0x6009C 0 0xFFFFFFFF, rwReg 0x600A0 0x258 0x8001FFFF,
   rwlReg 0x600B0 0x80000000 0 0xFFFFFFFF, rwReg 0x60100 0 0x7F, rwReg 0x60104 0 0x138001FF,
   ⟨0x60108, 4, 4, 0, 0xFFFFFFFF, 0, 0, 0⟩, ⟨0x60118, 4, 5, 0, 0xFFFFFFFF, 0, 0, 0⟩, w1cReg 0x60140 0x3F,
   rwReg 0x60144 0 0x3F, rcRegs 0x60200 12]

/-- MAT (R309). -/
def matRows : List RegRow :=
  [rwlReg 0x80000 0 0 0xFFFFFFFF, rwlReg 0x80004 0 0 0xFFFFFFFF, rwReg 0x80010 0xF 0xF,
   rwReg 0x80014 0xFFFFFFF0 0xFFFFFFF0, rwRegs 0x80018 2, rwReg 0x80020 0 0x001F0FFF, rwRegs 0x80028 1,
   w1cReg 0x80038 7, rwReg 0x8003C 0 7, rwRegs 0x80040 10, rwRegs 0x80080 10, rwRegs 0x800C0 10,
   rwReg 0x800E8 4 6, rcRegs 0x80100 8]

/-- ROD and LGE (R310, R331). -/
def rodRows : List RegRow :=
  [rwlReg 0x90000 0 0 0xF0, rwReg 0x90008 1 3, w1cReg 0x90028 0xF, rwReg 0x9002C 0 0xF, rcRegs 0x90100 6,
   rwlReg 0x90200 0 0 0xE03F, rwReg 0x90208 0 0x30, rwReg 0x90214 0 0x3F, w1cReg 0x90228 0x3F,
   rwReg 0x9022C 0 0x3F, rcRegs 0x90300 11]

/-- EVJ (R341). -/
def evjRows : List RegRow :=
  [rwReg 0xA0000 0x10 0x71, rwReg 0xA0020 0 0xFFFFFFFF, rwReg 0xA0024 0 0xFF, w1cReg 0xA0028 2,
   w1cReg 0xA0050 0xF, rwReg 0xA0054 0 0xF, rcRegs 0xA0100 7]

/-- IDX and VPL (R185, R207). -/
def idxRows : List RegRow :=
  [rwReg 0x40028 0 0x1F, w1cReg 0x40030 0x1F, rwReg 0x40034 0 0x1F, rcRegs 0x40100 12,
   rwlReg 0x50000 0x3FFFF 0 0xFFFFFF, rwReg 0x50004 0 0x3FF, w1cReg 0x50020 0x3F, rwReg 0x50024 0 0x3F,
   rcRegs 0x50100 12]

/-- FMM and FC0 to FC15 (R269, R270, R291). -/
def fmmRows : List RegRow :=
  [rwReg 0x70000 1 3, rwReg 0x7001C 0x3FFF 0x3FFF, rwReg 0x70020 0 0x3FFF, w1cReg 0x70080 0x1FF,
   rwReg 0x70084 0 0x1FF, rwReg 0x70090 0 0xF, rwReg 0x700B4 0 0x3FF, w1cReg 0x700D0 0x3F, rwReg 0x700D4 0 0x3F,
   rcRegs 0x70100 10] ++
  (List.range 6).map fun i => ⟨0x71010 + 4 * i, 0x100, 16, 0, 0, 0, 0, 0xFFFFFFFF⟩

/-- FWC (R354). -/
def fwcRows : List RegRow :=
  [rwReg 0xB0014 0x64 0xFFFF, rcRegs 0xB0018 1, rwReg 0xB0020 0xB3333333 0xFFFFFFFF,
   rwReg 0xB0024 0xC8199A 0xFFFFFFFF, rwReg 0xB0028 0x93A80 0xFFFFFFFF, rwReg 0xB002C 7 0xFF, w1cReg 0xB0030 0x1F,
   rwReg 0xB0034 0 0x1F, rwReg 0xB0044 0 0xFFFFFFFF, w1cReg 0xB004C 0x300, rcRegs 0xB0100 7]

/-- Every row of the table. -/
def regRows : List RegRow :=
  chipRows ++ pwrRows ++ mgmtRows ++ epRows ++ sdqRows ++ dktRows ++ cqeRows ++ secRows ++ matRows ++ rodRows ++
    evjRows ++ idxRows ++ fmmRows ++ fwcRows

/-- Whether a row holds the register at an address. -/
def RegRow.covers (r : RegRow) (a : Nat) : Bool :=
  r.base ≤ a && (a - r.base) % r.stride == 0 && (a - r.base) / r.stride < r.count

/-- The row of the register at an address, none where no word is held there. -/
def regRow (a : Nat) : Option RegRow := regRows.find? (·.covers a)

/-- The reset value of the register at an address. -/
def resetWord (a : Nat) : Word :=
  match regRow a with
  | some r => BitVec.ofNat 32 r.reset
  | none => 0

end Sys2Proof.Machine
end

