-- ==== Sys2Proof/Machine/Flags.lean ====
section
/-! DEFINITION. The names of the interrupt bits, of the register counters and of the journal's event codes (R394 and
the register and record tables of the chapters). -/

namespace Sys2Proof.Machine

/-- A bit of an IRQ_STATUS register. -/
structure Irq where
  addr : Nat
  bit : Nat
  deriving DecidableEq, Repr

/-- A journal event: SOURCE ‖ CODE and its severity (R332, R334). -/
structure Ev where
  code : Nat
  sev : Nat
  deriving DecidableEq, Repr

/-- PWR's counters (R372). -/
def pwrCnt (i : Nat) : Nat := 0x1100 + 4 * i
/-- SUP's counters (R385). -/
def supCnt (i : Nat) : Nat := 0x3100 + 4 * i
/-- MGMT_SPI_CNT (R398). -/
def spiCnt (i : Nat) : Nat := 0x4010 + 4 * i
/-- DKT's counters (R108). -/
def dktCnt (i : Nat) : Nat := 0x20100 + 4 * i
/-- CQE's counters (R134). -/
def cqeCnt (i : Nat) : Nat := 0x30100 + 4 * i
/-- IDX's counters (R185). -/
def idxCnt (i : Nat) : Nat := 0x40100 + 4 * i
/-- VPL's counters (R207). -/
def vplCnt (i : Nat) : Nat := 0x50100 + 4 * i
/-- SEC's counters (R236). -/
def secCnt (i : Nat) : Nat := 0x60200 + 4 * i
/-- FMM's counters (R269). -/
def fmmCnt (i : Nat) : Nat := 0x70100 + 4 * i
/-- MAT's counters (R309). -/
def matCnt (i : Nat) : Nat := 0x80100 + 4 * i
/-- ROD's counters (R310). -/
def rodCnt (i : Nat) : Nat := 0x90100 + 4 * i
/-- LGE's counters (R331). -/
def lgeCnt (i : Nat) : Nat := 0x90300 + 4 * i
/-- EVJ's counters (R341). -/
def evjCnt (i : Nat) : Nat := 0xA0100 + 4 * i
/-- FWC's counters (R354). -/
def fwcCnt (i : Nat) : Nat := 0xB0100 + 4 * i

/-- An interrupt bit of a block. -/
def irqPwr (b : Nat) : Irq := ⟨0x1040, b⟩
def irqClk (b : Nat) : Irq := ⟨0x2004, b⟩
def irqSup (b : Nat) : Irq := ⟨0x3058, b⟩
def irqMgmt (b : Nat) : Irq := ⟨0x4000, b⟩
def irqEp (n b : Nat) : Irq := ⟨0x10018 + 0x1000 * n, b⟩
def irqDkt (b : Nat) : Irq := ⟨0x20030, b⟩
def irqCqe (b : Nat) : Irq := ⟨0x30048, b⟩
def irqIdx (b : Nat) : Irq := ⟨0x40030, b⟩
def irqVpl (b : Nat) : Irq := ⟨0x50020, b⟩
def irqFmm (b : Nat) : Irq := ⟨0x70080, b⟩
def irqXt (b : Nat) : Irq := ⟨0x700D0, b⟩
def irqFwc (b : Nat) : Irq := ⟨0xB0030, b⟩
def irqSec (b : Nat) : Irq := ⟨0x60140, b⟩
def irqMat (b : Nat) : Irq := ⟨0x80038, b⟩
def irqRod (b : Nat) : Irq := ⟨0x90028, b⟩
def irqLge (b : Nat) : Irq := ⟨0x90228, b⟩
def irqEvj (b : Nat) : Irq := ⟨0xA0050, b⟩
/-- CHIP_IRQ_STATUS.START (R397). -/
def irqStart : Irq := ⟨0x20, 31⟩

/-! ## Records of start, image, ports, transport, commands, SEC and supervision -/

def evImgApplied : Ev := ⟨0x0201, 1⟩
def evImgCopyBad : Ev := ⟨0x0202, 3⟩
def evImgFallback : Ev := ⟨0x0203, 4⟩
def evImgNone : Ev := ⟨0x0204, 5⟩
def evImgStored : Ev := ⟨0x0205, 2⟩
def evImgNsConflict : Ev := ⟨0x0206, 3⟩
def evImgEnrolled : Ev := ⟨0x0207, 2⟩
def evImgNsSkipped : Ev := ⟨0x0208, 3⟩
def evStartClean : Ev := ⟨0x0301, 1⟩
def evStartUnclean : Ev := ⟨0x0302, 4⟩
def evPwrFail : Ev := ⟨0x0303, 2⟩
def evPfOvertime : Ev := ⟨0x0304, 4⟩
def evReset : Ev := ⟨0x0305, 2⟩
def evWdogReset : Ev := ⟨0x0306, 3⟩
def evPfGlitch : Ev := ⟨0x0307, 2⟩
def evOrderedShutdown : Ev := ⟨0x0308, 5⟩
def evTrigLate : Ev := ⟨0x0309, 3⟩
def evStartHalted : Ev := ⟨0x030A, 3⟩
def evLinkUp : Ev := ⟨0x0401, 1⟩
def evLinkDown : Ev := ⟨0x0402, 3⟩
def evPoolDrop : Ev := ⟨0x0403, 2⟩
def evCtRaised : Ev := ⟨0x0404, 2⟩
def evLaneOrder : Ev := ⟨0x0405, 1⟩
def evPolarity : Ev := ⟨0x0406, 1⟩
def evDktOpen : Ev := ⟨0x0501, 0⟩
def evDktClose : Ev := ⟨0x0502, 0⟩
def evAuthFail : Ev := ⟨0x0503, 3⟩
def evSessFull : Ev := ⟨0x0504, 3⟩
def evSessLost : Ev := ⟨0x0505, 2⟩
def evTicketRefused : Ev := ⟨0x0506, 2⟩
def evPoolFull : Ev := ⟨0x0601, 3⟩
def evLockFull : Ev := ⟨0x0602, 3⟩
def evCtxExhausted : Ev := ⟨0x0603, 2⟩
def evPolicySet : Ev := ⟨0x0604, 1⟩
def evInternal : Ev := ⟨0x0605, 4⟩
def evNsCreated : Ev := ⟨0x0701, 1⟩
def evNsDeleted : Ev := ⟨0x0702, 2⟩
def evNsPurged : Ev := ⟨0x0703, 1⟩
def evNsPolicySet : Ev := ⟨0x0704, 1⟩
def evNsKeysFull : Ev := ⟨0x0705, 3⟩
def evNsReadOnly : Ev := ⟨0x0706, 5⟩
def evKeyLoaded : Ev := ⟨0x0A01, 2⟩
def evKeyErased : Ev := ⟨0x0A02, 2⟩
def evKeyGenDropped : Ev := ⟨0x0A03, 3⟩
def evKeystoreLost : Ev := ⟨0x0A04, 5⟩
def evSecAlarm : Ev := ⟨0x0A05, 6⟩
def evSecUnlocked : Ev := ⟨0x0A06, 2⟩
def evSecUnlockFail : Ev := ⟨0x0A07, 3⟩
def evPnThresh : Ev := ⟨0x0A08, 2⟩
def evSaSwitch : Ev := ⟨0x0A09, 1⟩
def evTxStop : Ev := ⟨0x0A0A, 4⟩
def evTimeStep : Ev := ⟨0x0A0B, 3⟩
def evTimeHoldover : Ev := ⟨0x0A0C, 2⟩
def evTimeUntrusted : Ev := ⟨0x0A0D, 3⟩
def evTimeSynced : Ev := ⟨0x0A0E, 1⟩
def evScrubFix : Ev := ⟨0x0D01, 2⟩
def evEntryLost : Ev := ⟨0x0D02, 4⟩
def evRodUp : Ev := ⟨0x0D03, 1⟩
def evRodDown : Ev := ⟨0x0D04, 3⟩
def evRodCheckFail : Ev := ⟨0x0D05, 4⟩
def evTokenLost : Ev := ⟨0x0D06, 2⟩
def evMemberUp : Ev := ⟨0x0E01, 1⟩
def evMemberLost : Ev := ⟨0x0E02, 3⟩
def evJoinRefused : Ev := ⟨0x0E03, 3⟩
def evDirSet : Ev := ⟨0x0E04, 2⟩
def evDirRestored : Ev := ⟨0x0E05, 2⟩
def evMirrorFail : Ev := ⟨0x0E06, 4⟩
def evHeadLost : Ev := ⟨0x0E07, 3⟩
def evJrnFull : Ev := ⟨0x0F02, 3⟩
def evJrnPolicySet : Ev := ⟨0x0F03, 1⟩
def evJrnSeqEnd : Ev := ⟨0x0F04, 5⟩
def evPwrSet : Ev := ⟨0x1101, 1⟩
def evPwrRefused : Ev := ⟨0x1102, 2⟩
def evPwrNeeded : Ev := ⟨0x1103, 3⟩
def evClkLost : Ev := ⟨0x1104, 5⟩
def evClkRestored : Ev := ⟨0x1105, 1⟩
def evClkPllFatal : Ev := ⟨0x1106, 7⟩
def evTrigFault : Ev := ⟨0x1201, 3⟩
def evTrigClear : Ev := ⟨0x1202, 1⟩
def evThermWarn : Ev := ⟨0x1203, 2⟩
def evSiteFail : Ev := ⟨0x1204, 5⟩
def evPfStuck : Ev := ⟨0x1205, 5⟩
def evPfIgnored : Ev := ⟨0x1206, 3⟩
def evLaneStuck : Ev := ⟨0x1207, 3⟩
def evSpiErr : Ev := ⟨0x1301, 2⟩
def evRegRefused : Ev := ⟨0x1302, 2⟩

/-! ## Records of the index, the pipeline, the media, capture and firmware -/

def evCpDone : Ev := ⟨0x0801, 0⟩
def evCpStall : Ev := ⟨0x0802, 3⟩
def evPairFull : Ev := ⟨0x0803, 4⟩
def evReplay : Ev := ⟨0x0804, 1⟩
def evRebuild : Ev := ⟨0x0805, 2⟩
def evCpLost : Ev := ⟨0x0806, 5⟩
def evDeltaLost : Ev := ⟨0x0807, 5⟩
def evTagFail : Ev := ⟨0x0901, 4⟩
def evCheckFail : Ev := ⟨0x0902, 4⟩
def evHdrBad : Ev := ⟨0x0903, 4⟩
def evNonceWarn : Ev := ⟨0x0904, 3⟩
def evNonceExhausted : Ev := ⟨0x0905, 5⟩
def evRawRefused : Ev := ⟨0x0906, 2⟩
def evProgFail : Ev := ⟨0x0B01, 4⟩
def evEraseFail : Ev := ⟨0x0B02, 3⟩
def evNarrow : Ev := ⟨0x0B03, 2⟩
def evRetired : Ev := ⟨0x0B04, 4⟩
def evUncorr : Ev := ⟨0x0B05, 4⟩
def evRebuildRead : Ev := ⟨0x0B06, 2⟩
def evRefresh : Ev := ⟨0x0B07, 1⟩
def evFloor : Ev := ⟨0x0B08, 3⟩
def evThermal : Ev := ⟨0x0B09, 3⟩
def evSpareZero : Ev := ⟨0x0B0A, 3⟩
def evDieLost : Ev := ⟨0x0B0B, 5⟩
def evKept : Ev := ⟨0x0B0C, 4⟩
def evGcRestart : Ev := ⟨0x0B0D, 2⟩
def evFold : Ev := ⟨0x0B0E, 1⟩
def evMediaExhausted : Ev := ⟨0x0B0F, 5⟩
def evPatrolDone : Ev := ⟨0x0B10, 1⟩
def evFthOpened : Ev := ⟨0x0C01, 2⟩
def evFthMerged : Ev := ⟨0x0C02, 2⟩
def evFthMissed : Ev := ⟨0x0C03, 5⟩
def evFthReleased : Ev := ⟨0x0C04, 2⟩
def evNoRefill : Ev := ⟨0x0C05, 3⟩
def evDirFull : Ev := ⟨0x0C06, 3⟩
def evChnExpired : Ev := ⟨0x0C07, 2⟩
def evChnLow : Ev := ⟨0x0C08, 3⟩
def evChnFull : Ev := ⟨0x0C09, 5⟩
def evChnSeqEnd : Ev := ⟨0x0C0A, 5⟩
def evFwStaged : Ev := ⟨0x1001, 2⟩
def evFwStageRefused : Ev := ⟨0x1002, 3⟩
def evFwCopied : Ev := ⟨0x1003, 2⟩
def evFwActivated : Ev := ⟨0x1004, 2⟩
def evFwActivateFail : Ev := ⟨0x1005, 4⟩
def evFwRomFallback : Ev := ⟨0x1006, 5⟩
def evFwPolicySet : Ev := ⟨0x1007, 1⟩

end Sys2Proof.Machine
end

