-- ==== Sys2Proof/Machine/Ops.lean ====
section
/-! DEFINITION. The operations every block uses: register words, interrupt bits, counters, the journal's intake, time,
and drawn values. -/

set_option cleanup.letToHave false

namespace Sys2Proof.Machine

/-! ## Register words -/

/-- The word a register holds. -/
def Dev.reg (d : Dev) (a : Nat) : Word := d.regs.getD a (resetWord a)

/-- The number a register holds. -/
def Dev.regN (d : Dev) (a : Nat) : Nat := (d.reg a).toNat

/-- Bits [hi:lo] of a register. -/
def Dev.regF (d : Dev) (a hi lo : Nat) : Nat := bits (d.regN a) hi lo

/-- The register words with one of them set; a word at its reset value is not listed. -/
def setRegIn (t : Tab Word) (a : Nat) (v : Word) : Tab Word :=
  if v = resetWord a then t.del a else t.put a v

/-- Set a register's word. -/
def Dev.setReg (d : Dev) (a : Nat) (v : Word) : Dev := { d with regs := setRegIn d.regs a v }

/-- Set a register from a number. -/
def Dev.setRegN (d : Dev) (a v : Nat) : Dev := d.setReg a (BitVec.ofNat 32 v)

/-- A number with bits [hi:lo] replaced. -/
def putBits (v hi lo f : Nat) : Nat :=
  v - bits v hi lo * 2 ^ lo + f % 2 ^ (hi + 1 - lo) * 2 ^ lo

/-- Set bits [hi:lo] of a register. -/
def Dev.setRegF (d : Dev) (a hi lo f : Nat) : Dev := d.setRegN a (putBits (d.regN a) hi lo f)

/-- Raise an interrupt bit (R394). -/
def Dev.raise (d : Dev) (i : Irq) : Dev := d.setReg i.addr (d.reg i.addr ||| (1#32 <<< i.bit))

/-- Raise an interrupt bit where a condition holds. -/
def Dev.raiseIf (d : Dev) (c : Bool) (i : Irq) : Dev := if c then d.raise i else d

/-- Add to a 32-bit counter that saturates at 0xFFFF_FFFF. -/
def Dev.countN (d : Dev) (a n : Nat) : Dev := d.setRegN a (satAdd 0xFFFFFFFF (d.regN a) n)

/-- Add 1 to a saturating counter. -/
def Dev.count (d : Dev) (a : Nat) : Dev := d.countN a 1

/-! ## What a flush still lets happen (R53, R56) -/

/-- No flush runs, or a power-fail flush has not yet reached event `n` (R56). -/
def Dev.flushBefore (d : Dev) (n : Nat) : Bool :=
  d.life.flush == .none || (d.life.flush == .powerFail && d.life.flushStep < n)

/-- Whether packets are admitted and commands dispatched: in RUN, with the datapath up, and before event 3 of a
power-fail flush (R46, R51, R56). -/
def Dev.admits (d : Dev) : Bool := d.life.phase == .run && !d.life.datapathDown && d.flushBefore 3

/-- Whether media operations go on: from phase PORTS on, and before event 4 of a power-fail flush (R46, R56). -/
def Dev.mediaOn (d : Dev) : Bool := (d.life.phase == .run || d.life.phase == .ports) && d.flushBefore 4

/-- Whether the core logic runs: powered, past phase AON and not in HALT (R46, R60). -/
def Dev.coreUp (d : Dev) : Bool :=
  d.life.powered && d.life.phase != .reset && d.life.phase != .aon && d.life.phase != .halt

/-- Run an operation where a condition holds; the command is discarded where it does not. -/
def Dev.when (d : Dev) (c : Bool) (f : Dev → Dev) : Dev := if c then f d else d

/-! ## Time and drawn values -/

/-- The time of a core cycle at the nominal rate, 0.8 ns, in 10⁻⁶ fs. -/
def nominalRate : Nat := 800000000000

/-- Core cycles in a second (1.25 GHz). -/
def cyclesPerSecond : Nat := 1250000000

/-- The device's 802.1AS time in nanoseconds (R230). -/
def Dev.now (d : Dev) : Nat := d.sec.time.fs / 1000000

/-- The code of a time state (R232). -/
def TimeState.code : TimeState → Nat
  | .free => 0
  | .synced => 1
  | .holdover => 2
  | .untrusted => 3

/-- The TQ of the present time state (R232). -/
def Dev.tq (d : Dev) : Nat := d.sec.time.state.code

/-- A drawn value of `n` bytes, and the device with the draw used up. What the draw gives is not stated (R90, R91,
R150, R161, R223): a free value, log entry 10. -/
def Dev.draw (d : Dev) (n : Nat) : Bytes × Dev :=
  (be n (Config.freeValue d.free).toNat, { d with free := d.free + 1 })

/-! ## The journal's intake (R333 to R335) -/

/-- What a session parameter carries for an interface (R333). -/
def Iface.param : Iface → Nat
  | .inBand s => s
  | .spi => 0xFFFF
  | .firmware => 0xFFFE
  | .device => 0xFFFD

/-- The IFACE field of CHIP_ACC_ERR (R397). -/
def Iface.code : Iface → Nat
  | .spi => 0
  | .inBand _ => 1
  | .firmware => 2
  | .device => 3

/-- The parts of a record: parameters in pieces of 12 bytes, 1 to 4 parts (R333). -/
def partsOf (e : Ev) (tq time : Nat) (params : Bytes) : List JPart :=
  let n := max 1 (min 4 (ceilDiv params.length 12))
  (List.range n).map fun i =>
    { sev := e.sev, tq := tq, more := i + 1 < n, part := i, code := e.code, time := time,
      param := padTo 12 (slice params (12 * i) 12) }

/-- Take the parts of a record into the intake FIFO, or refuse it whole (R335). -/
def Journal.intake (j : Journal) (ps : List JPart) : Journal :=
  match ps with
  | [] => j
  | p :: _ =>
    if j.fifo.length + ps.length ≤ 256 then { j with fifo := j.fifo ++ ps }
    else
      { j with
        lost := j.lost + 1
        lostSev := max j.lostSev p.sev
        lostTime := if j.lost = 0 then p.time else min j.lostTime p.time }

/-- Whether the FIFO takes a record of `n` parts in. -/
def Journal.takes (j : Journal) (n : Nat) : Bool := !j.ended && j.fifo.length + n ≤ 256

/-- Write a journal record (R332 to R336): taken into the FIFO, or refused and counted. -/
def Dev.log (d : Dev) (e : Ev) (params : Bytes) : Dev :=
  let ps := partsOf e d.tq d.now params
  if d.evj.takes ps.length then
    ({ d with evj := d.evj.intake ps }).raiseIf (5 ≤ e.sev) (irqEvj 0)
  else if d.evj.ended then (d.count (evjCnt 3)).raise (irqEvj 1)
  else (({ d with evj := d.evj.intake ps }).count (evjCnt 3)).raise (irqEvj 1)

/-- The cycles of the last second's records under a key. -/
def Dev.recent (d : Dev) (key : Nat) : List Nat :=
  ((d.rates.getD key ⟨[], 0⟩).times).filter fun t => d.cycles < t + cyclesPerSecond

/-- Count one happening of a limited record under a key, and write the record where fewer than `limit` were written in
the last second; its parameters may use the happenings since the last such record. -/
def Dev.logKeyed (d : Dev) (key : Nat) (e : Ev) (limit : Nat) (params : Nat → Bytes) : Dev :=
  let r := d.rates.getD key ⟨[], 0⟩
  let recent := d.recent key
  if recent.length < limit then
    ({ d with rates := d.rates.put key ⟨recent ++ [d.cycles], 0⟩ }).log e (params (r.since + 1))
  else { d with rates := d.rates.put key ⟨recent, r.since + 1⟩ }

/-- A record limited for the device as a whole. -/
def Dev.logLimited (d : Dev) (e : Ev) (limit : Nat) (params : Nat → Bytes) : Dev := d.logKeyed e.code e limit params

end Sys2Proof.Machine
end

