-- ==== Sys2Proof/Machine/MatOps.lean ====
section
/-! DEFINITION. The match array's entries and searches, classification entries and the placement word (R292 to R300). -/

set_option cleanup.letToHave false

namespace Sys2Proof.Machine

/-- Whether a power domain counts as ON: in ON with no sequence running in it (R358). -/
def Dev.domOn (d : Dev) (n : Nat) : Bool :=
  match d.power.doms[n]? with
  | some x => x.state == .on && x.running.isNone
  | none => decide (n < 67)

/-- The width code of a bank. -/
def Mat.width (m : Mat) (bank : Nat) : Nat := m.widths.getD bank 0

/-- The address of entry `j` of a bank: bank ‖ first unit (R292). -/
def Mat.addr (m : Mat) (bank j : Nat) : Nat := bank * 4096 + j * (widthBits (m.width bank) / 80)

/-- The power domain of a bank (R292). -/
def bankDomain (bank : Nat) : Nat := 45 + bank / 4

/-- Whether an entry of width `w` matches a 320-bit word: the word's first `w` bits under the mask (R295). -/
def entryMatches (w : Nat) (e : MatEntry) (word : Nat) : Bool := ((word >>> (320 - w)) &&& e.mask) == e.value

/-- The outcome of a search (R299): the winning entry, whether more than one matched, whether a bank of the profile
was skipped (R298). -/
structure Found where
  win : Option (Nat × MatEntry)
  multi : Bool
  skipped : Bool

/-- Search a word in the banks of a profile (R298, R299). -/
def Dev.search (d : Dev) (profile word : Nat) : Found :=
  let hits := d.mat.entries.filter fun p =>
    let b := p.1 / 4096
    bit profile b && d.domOn (bankDomain b) && entryMatches (widthBits (d.mat.width b)) p.2 word
  { win := hits.head?, multi := 1 < hits.length,
    skipped := (List.range 32).any fun b => bit profile b && !d.domOn (bankDomain b) }

/-- Count a search in MAT's counters (R309). -/
def Dev.countSearch (d : Dev) (f : Found) : Dev :=
  let d := d.count (matCnt 0)
  let d := if f.win.isSome then d.count (matCnt 1) else d
  let d := if f.multi then d.count (matCnt 2) else d
  if f.skipped then d.count (matCnt 7) else d

/-- The 160-bit classification word as the first bits of a 320-bit search word (R296, its table). -/
def classWord (k : ClassKey) : Nat :=
  let head := k.port % 4 * 2 ^ 158 + (if k.v6 then 2 else 1) * 2 ^ 156 + k.sc % 8 * 2 ^ 153
  let w := if k.v6 then head + k.srcIp * 2 ^ 16 + k.srcPort
    else head + k.srcIp * 2 ^ 112 + k.srcPort * 2 ^ 96 + k.dstPort * 2 ^ 80
  w * 2 ^ 160

/-- The profile of classification searches: MAT_PROFILE0, banks 0 to 3. -/
def Dev.profile0 (d : Dev) : Nat := d.regF 0x80010 3 0

/-- The profile of placement searches: MAT_PROFILE1, banks 4 to 31. -/
def Dev.profile1 (d : Dev) : Nat := d.regF 0x80014 31 4 * 16

/-- The highest free entry of a bank, as its address. -/
def Mat.freeIn (m : Mat) (bank : Nat) : Option Nat :=
  let cap := bankCapacity (m.width bank)
  ((List.range cap).map fun i => m.addr bank (cap - 1 - i)).find? fun a => !m.entries.has a

/-- Where a session entry of `need` bits goes: the narrowest width that holds it, the highest-numbered bank of that
width, its highest free entry (R296). -/
def Dev.classPlace (d : Dev) (need : Nat) : Option Nat :=
  let banks := ([3, 2, 1, 0] : List Nat).filter fun b => bit d.profile0 b && d.domOn (bankDomain b)
  let ofWidth := fun c => (banks.filter fun b => d.mat.width b == c).findSome? d.mat.freeIn
  ([0, 1, 2] : List Nat).findSome? fun c => if need ≤ widthBits c then ofWidth c else none

/-- Bits that a classification form needs (R296). -/
def formBits (v6 : Bool) : Nat := if v6 then 160 else 80

/-- Whether a classification entry is free for a key (R93). -/
def Dev.classFree (d : Dev) (k : ClassKey) : Bool := (d.classPlace (formBits k.v6)).isSome

/-- Install the classification entry of a session (R89, R296). -/
def Dev.classInstall (d : Dev) (k : ClassKey) (sid : Nat) : Dev :=
  match d.classPlace (formBits k.v6) with
  | none => d
  | some a =>
    let w := widthBits (d.mat.width (a / 4096))
    let ones := (2 ^ formBits k.v6 - 1) * 2 ^ (w - formBits k.v6)
    let e : MatEntry := ⟨classWord k >>> (320 - w), ones, 0x10000000 + sid⟩
    ({ d with mat := { d.mat with entries := d.mat.entries.put a e } }).count (matCnt 6)

/-- Whether a RESULT is that of a session's entry (R296). -/
def isSessionResult (sid r : Nat) : Bool := r == 0x10000000 + sid

/-- Remove the classification entry of a session (R89, R104, R309). -/
def Dev.classRemove (d : Dev) (sid : Nat) : Dev :=
  let kept := d.mat.entries.keep fun a e => !(a / 4096 < 4 && isSessionResult sid e.result)
  ({ d with mat := { d.mat with entries := kept } }).countN (matCnt 6) (d.mat.entries.length - kept.length)

/-- What classification makes of a packet's key (R89, R296). -/
inductive Classified where
  | session (sid : Nat)
  | drop
  | none
  deriving DecidableEq, Repr

/-- The kind of a classification RESULT. -/
def classOf (f : Found) : Classified :=
  match f.win with
  | some (_, e) => if e.result / 2 ^ 28 = 1 then .session (e.result % 4096)
    else if e.result / 2 ^ 28 = 2 then .drop else .none
  | none => .none

/-- The 320-bit placement word of a command (R297). -/
def placementWord (ns : Nat) (key : Bytes) : Nat :=
  ns * 2 ^ 310 + key.length % 256 * 2 ^ 296 + beVal (padTo 37 key)

/-- Whether a rule RESULT keeps its zero bits (R297). -/
def ruleResultOk (r : Nat) : Bool := (r &&& 0xFFFF40C0) == 0

/-- Whether a RESULT is in range for its bank: DROP in banks 0 to 3, a placement RESULT elsewhere (R296, R297). -/
def resultOk (bank r : Nat) : Bool := if bank < 4 then r == 0x20000000 else ruleResultOk r

/-- The cause for which an entry write through the registers is discarded, 0 for none (R300). -/
def Dev.entryErr (d : Dev) (bank index value mask result : Nat) : Nat :=
  if index ≥ bankCapacity (d.mat.width bank) then 1
  else
    let old := d.mat.entries.find (d.mat.addr bank index)
    if bank < 4 ∧ (old.map fun e => e.result / 2 ^ 28) = some 1 then 2
    else if (value &&& mask) ≠ value then 3
    else if !resultOk bank result then 4
    else if !d.domOn (bankDomain bank) then 5
    else 0

/-- Write an entry, shadow and array (R300). -/
def Dev.entryPut (d : Dev) (a : Nat) (e : MatEntry) : Dev :=
  ({ d with mat := { d.mat with entries := d.mat.entries.put a e } }).count (matCnt 6)

/-- Invalidate an entry. -/
def Dev.entryDel (d : Dev) (a : Nat) : Dev :=
  ({ d with mat := { d.mat with entries := d.mat.entries.del a } }).count (matCnt 6)

end Sys2Proof.Machine
end

