-- ==== Sys2Proof/Machine/Wire.lean ====
section
/-! DEFINITION. The bytes of a transmitted frame on the wire: Ethernet, IP and UDP headers, MACsec protection and the FCS
(R67, R70, R72, R74, R84, R225). What the spec names without laying it out has its standard form (log entry 74). -/

set_option cleanup.letToHave false

namespace Sys2Proof.Machine

/-! ## Checksums -/

/-- The CRC-32 of IEEE 802.3, as the FCS carries it. -/
def crc32 (b : Bytes) : Nat := (b.foldl (crcStep32 0xEDB88320) 0xFFFFFFFF) ^^^ 0xFFFFFFFF

/-- The four bytes of an FCS, in the order of the wire. -/
def fcsBytes (v : Nat) : Bytes := (be 4 v).reverse

/-- The FCS of a stomped frame: the bitwise inverse of the correct CRC-32 over the bytes sent (R74). -/
def stompedFcs (sent : Bytes) : Bytes := fcsBytes (crc32 sent ^^^ 0xFFFFFFFF)

/-- Fold a sum into 16 bits with end-around carry; `fuel` bounds the folds. -/
def fold16 : Nat → Nat → Nat
  | 0, s => s
  | n + 1, s => if s < 65536 then s else fold16 n (s / 65536 + s % 65536)

/-- The Internet checksum of a byte string. -/
def inetSum (b : Bytes) : Nat := 0xFFFF - fold16 8 ((chunks 2 b).map fun c => beVal (padTo 2 c)).sum

/-! ## IP and UDP (R84) -/

/-- The UDP datagram of a payload, its checksum filled; a sum of 0 is sent as 0xFFFF. -/
def udpBytes (v6 : Bool) (src dst srcPort dstPort : Nat) (payload : Bytes) : Bytes :=
  let len := 8 + payload.length
  let pseudo := if v6 then be 16 src ++ be 16 dst ++ be 4 len ++ be 4 17 else be 4 src ++ be 4 dst ++ be 2 17 ++ be 2 len
  let head := be 2 srcPort ++ be 2 dstPort ++ be 2 len
  let sum := inetSum (pseudo ++ head ++ zeros 2 ++ payload)
  head ++ be 2 (if sum = 0 then 0xFFFF else sum) ++ payload

/-- An IPv4 packet: no options, DSCP 0, DF set, TTL 64. The identification and the ECN bits are open values (log
entry 11). -/
def ipv4Bytes (src dst proto : Nat) (payload : Bytes) : Bytes :=
  let head := fun (sum : Nat) => [0x45] ++ be 1 ((Config.openValue 5 0).toNat % 4) ++ be 2 (20 + payload.length) ++
    be 2 ((Config.openValue 4 dst).toNat % 65536) ++ be 2 0x4000 ++ be 1 64 ++ be 1 proto ++ be 2 sum ++ be 4 src ++ be 4 dst
  head (inetSum (head 0)) ++ payload

/-- An IPv6 packet: no extension header, DSCP 0. The ECN bits and the flow label are open values (log entry 11). -/
def ipv6Bytes (src dst next hops : Nat) (payload : Bytes) : Bytes :=
  be 4 (6 * 2 ^ 28 + (Config.openValue 5 0).toNat % 4 * 2 ^ 20 + (Config.openValue 6 dst).toNat % 2 ^ 20) ++
    be 2 payload.length ++ be 1 next ++ be 1 hops ++ be 16 src ++ be 16 dst ++ payload

/-! ## Address resolution (R70, R312) -/

/-- The solicited-node multicast MAC address of an IPv6 address. -/
def solicitedMac (ip : Nat) : Nat := 0x3333FF000000 + ip % 2 ^ 24

/-- The solicited-node multicast address of an IPv6 address. -/
def solicitedIp (ip : Nat) : Nat := 0xFF0200000000000000000001FF000000 + ip % 2 ^ 24

/-- An ARP packet of this device: a request, or the reply to one. -/
def arpBytes (request : Bool) (mac ownIp peerMac peerIp : Nat) : Bytes :=
  be 2 1 ++ be 2 0x0800 ++ be 1 6 ++ be 1 4 ++ be 2 (if request then 1 else 2) ++ be 6 mac ++ be 4 ownIp ++
    be 6 peerMac ++ be 4 peerIp

/-- An ICMPv6 neighbour message with its link-layer address option: an advertisement (136) or a solicitation (135). -/
def neighbourBytes (type flags src dst target option_ mac : Nat) : Bytes :=
  let body := fun (sum : Nat) => be 1 type ++ zeros 1 ++ be 2 sum ++ be 4 flags ++ be 16 target ++ be 1 option_ ++ be 1 1 ++
    be 6 mac
  let pseudo := be 16 src ++ be 16 dst ++ be 4 32 ++ be 4 58
  ipv6Bytes src dst 58 255 (body (inetSum (pseudo ++ body 0)))

/-! ## The frame (R67, R225) -/

/-- The EtherType of a body and what follows it. -/
def TxBody.bytes (mac : Nat) : TxBody → Nat × Bytes
  | .pause quanta => (0x8808, be 2 1 ++ be 2 quanta)
  | .pfc vector quanta =>
    (0x8808, be 2 0x101 ++ be 2 vector ++ (List.range 8).flatMap fun i => be 2 (if bit vector i then quanta else 0))
  | .arp request ownIp peerMac peerIp => (0x0806, arpBytes request mac ownIp peerMac peerIp)
  | .advert ownIp peerIp => (0x86DD, neighbourBytes 136 0x60000000 ownIp peerIp ownIp 2 mac)
  | .solicit ownIp peerIp => (0x86DD, neighbourBytes 135 0 ownIp (solicitedIp peerIp) peerIp 1 mac)
  | .dkt _ v6 srcIp srcPort dstIp dstPort packet =>
    let udp := udpBytes v6 srcIp dstIp srcPort dstPort packet
    if v6 then (0x86DD, ipv6Bytes srcIp dstIp 17 64 udp) else (0x0800, ipv4Bytes srcIp dstIp 17 udp)

/-- Whether a frame is a MAC control frame (R78). -/
def TxBody.isControl : TxBody → Bool
  | .pause _ => true
  | .pfc _ _ => true
  | _ => false

/-- The SCI of a port: its MAC address and port number 1, as IEEE 802.1AE composes it. PRESUMED (log entry 74). -/
def sciOf (mac : Nat) : Nat := mac * 65536 + 1

/-- The SecTAG of a frame, its explicit SCI included: E and C set, the short length, and the low 32 bits of the PN
(R225). -/
def secTagBytes (sci an pn len : Nat) : Bytes :=
  be 2 0x88E5 ++ be 1 (0x2C + an % 4) ++ be 1 (if len < 48 then len else 0) ++ be 4 (pn % 2 ^ 32) ++ be 8 sci

/-- The GCM nonce of a frame: SCI ‖ PN, or with XPN (SSCI ‖ PN) xor the salt (R225). -/
def Sa.nonce (s : Sa) (sci : Nat) : Bytes :=
  if s.xpn then xorBytes (be 4 s.ssci ++ be 8 s.pn) (be 12 s.salt) else be 8 sci ++ be 4 s.pn

/-- A frame protected by a SA: SecTAG, the sealed EtherType and payload, and the 16-byte ICV; the addresses and the
SecTAG are authenticated (R225). -/
def protect (s : Sa) (an mac : Nat) (addresses tag secure : Bytes) : Bytes :=
  let sectag := secTagBytes (sciOf mac) an s.pn secure.length
  let (ct, icv) := gcmSeal s.key.key (s.nonce (sciOf mac)) (addresses ++ sectag) secure
  addresses ++ tag ++ sectag ++ ct ++ icv

/-- The bytes of a frame up to its FCS, padded to its length (R67). `mac` and `vlan` are the port's. -/
def TxNow.bytes (t : TxNow) (mac vlan : Nat) : Bytes :=
  let f := t.frame
  let (etherType, payload) := f.body.bytes mac
  let addresses := be 6 f.dst ++ be 6 mac
  let tag := if vlan = 0 ∨ f.body.isControl then [] else be 2 0x8100 ++ be 2 (f.pcp * 8192 + vlan)
  let secure := be 2 etherType ++ payload
  padTo (f.len - 4) (match t.sa with
    | none => addresses ++ tag ++ secure
    | some (i, s) => protect s (i % 4) mac addresses tag secure)

/-- Bytes that a port sends in `n` core cycles, by mode: 10, 25 or 100 Gb/s. -/
def wireBytes (mode n : Nat) : Nat := if mode = 0 then n else if mode = 3 then 10 * n else 5 * n / 2

/-- Bytes of a frame that are on the wire after its preamble and SFD, before the FCS (R67). -/
def TxNow.sent (t : TxNow) (mode cycles : Nat) : Nat := min (t.frame.len - 4) (wireBytes mode (cycles - t.since) - 8)

/-- Whether a frame has left the port whole. -/
def TxNow.gone (t : TxNow) (mode cycles : Nat) : Bool := t.frame.len + 8 ≤ wireBytes mode (cycles - t.since)

end Sys2Proof.Machine
end

