-- ==== Sys2Proof/Machine/PortOps.lean ====
section
/-! DEFINITION. Shared operations of the ports: counters, the cell pool, queueing and choosing frames for transmission,
MACsec associations on both sides (R66 to R80, R225 to R229). -/

set_option cleanup.letToHave false

namespace Sys2Proof.Machine

/-- A port that has been reset (R66, R82). -/
def Port.fresh : Port :=
  { link := .down, sending := .electricalIdle, blockLock := false, aligned := false, hiBer := false, localFault := false,
    remoteFault := false, ctCur := 0x800, counters := [], half := 0, txq := [], current := none, stomped := [],
    pauseLeft := 0, pauseSince := 0, pfcLeft := [], pfcSince := 0, seekSince := 0, stuckWritten := false }

/-- Port `n`. -/
def Dev.port (d : Dev) (n : Nat) : Port := d.ports.getD n Port.fresh

/-- Change port `n`. -/
def Dev.modPort (d : Dev) (n : Nat) (f : Port → Port) : Dev :=
  if n < 4 then { d with ports := setAt Port.fresh d.ports n (f (d.port n)) } else d

/-- A lane that has been reset (R83). -/
def Lane.fresh : Lane :=
  { kept := false, sigDet := false, cdrLock := false, rxInv := false, fecLane := 0, locked := false, flips := 0 }

/-- Lane `n`. -/
def Dev.lane (d : Dev) (n : Nat) : Lane := d.lanes.getD n Lane.fresh

/-- Change lane `n`. -/
def Dev.modLane (d : Dev) (n : Nat) (f : Lane → Lane) : Dev :=
  if n < 4 then { d with lanes := setAt Lane.fresh d.lanes n (f (d.lane n)) } else d

/-- The ports that the applied image's mode uses, none while no image is applied (R63). -/
def Dev.portsInUse (d : Dev) : List Nat :=
  match d.image with
  | some im => portsOfMode im.port.mode
  | none => []

/-- The physical lanes of a port: all four in S100, else the one LANE_MAP names (R63, R64). -/
def Dev.lanesOf (d : Dev) (n : Nat) : List Nat :=
  match d.image with
  | some im => if im.port.mode = 3 then [0, 1, 2, 3] else [(laneMapOf im.port.laneMap).getD n 0]
  | none => []

/-- Whether a port admits received frames (R66). -/
def Port.admits (p : Port) : Bool := p.link == .up || p.link == .rfault

/-- Whether the domain of a port's EP block is in ON; a sequence that leaves ON still counts (R79, R356). -/
def Dev.epOn (d : Dev) (n : Nat) : Bool :=
  match d.power.doms[16 + n]? with
  | some x => x.state == .on
  | none => true

/-- Add to a port counter; it wraps at 2^48, and a rise of bit 47 sets its HALF bit. A counter keeps its value while its
EP domain is not ON (R79). -/
def Dev.portCount (d : Dev) (n i amt : Nat) : Dev :=
  if !d.epOn n then d
  else
    let old := (d.port n).counters.getD i 0
    let new := (old + amt) % 2 ^ 48
    let crossed := !bit old 47 && bit new 47
    let d := d.modPort n fun p =>
      { p with counters := if new = 0 then p.counters.del i else p.counters.put i new,
               half := if crossed then p.half ||| 2 ^ i else p.half }
    d.raiseIf crossed (irqEp n 5)

/-- The size bin of a length: 0 for 64 bytes to 7 for 4,096 and more (R79). -/
def sizeBin (len : Nat) : Nat :=
  if len ≤ 64 then 0 else if len ≤ 127 then 1 else if len ≤ 255 then 2 else if len ≤ 511 then 3
  else if len ≤ 1023 then 4 else if len ≤ 1518 then 5 else if len ≤ 4095 then 6 else 7

/-- The broadcast address. -/
def macBroadcast : Nat := 0xFFFFFFFFFFFF

/-- The MAC control address 01-80-C2-00-00-01. -/
def macControlAddr : Nat := 0x0180C2000001

/-- Whether an address is a group address. -/
def isGroup (mac : Nat) : Bool := mac / 2 ^ 40 % 2 == 1

/-- The counter of a destination's kind after a base: unicast, multicast, broadcast (R79). -/
def kindIndex (dst : Nat) : Nat := if dst = macBroadcast then 2 else if isGroup dst then 1 else 0

/-- The address of an EP register. -/
def epReg (n off : Nat) : Nat := 0x10000 + 0x1000 * n + off

/-- A port's own MAC address. -/
def Dev.portMac (d : Dev) (n : Nat) : Nat :=
  d.regF (epReg n 0x2C) 15 0 * 2 ^ 32 + d.regN (epReg n 0x30)

/-- PORT.MAX_LEN as the port holds it. -/
def Dev.maxLen (d : Dev) (n : Nat) : Nat := d.regF (epReg n 0) 13 0

/-- PORTn.VLAN as the port holds it. -/
def Dev.portVlan (d : Dev) (n : Nat) : Nat := d.regF (epReg n 0) 27 16

/-- Whether MACsec is enabled on a port (R225). -/
def Dev.macsecOn (d : Dev) (n : Nat) : Bool :=
  match d.image with
  | some im => bit im.port.macsecEn n
  | none => false

/-- The configuration of a port in the applied image. -/
def Dev.portCfg (d : Dev) (n : Nat) : Option PortCfg := d.image.bind fun im => im.port.ports[n]?

/-- The League fields of the applied image. -/
def Dev.league (d : Dev) : LeagueCfg :=
  match d.image with
  | some im => im.league
  | none => leagueDefault

/-- Whether an IP address is one the device answers on a port: the port's own or, on a head, SERVICE_ADDR (R311). -/
def Dev.ownIp (d : Dev) (n : Nat) (v6 : Bool) (ip : Nat) : Bool :=
  let svc := if v6 then num d.league.serviceAddr 4 16 else num d.league.serviceAddr 0 4
  ip != 0 &&
    ((match d.portCfg n with
      | some c => ip == (if v6 then c.ipv6 else c.ipv4)
      | none => false) || (d.league.role == 1 && ip == svc))

/-- The mode of the applied image (R63); 0 while none is applied. -/
def Dev.portMode (d : Dev) : Nat :=
  match d.image with
  | some im => im.port.mode
  | none => 0

/-! ## The cell pool (R71, R72) -/

/-- Free cells of the pool. -/
def Dev.cellsFree (d : Dev) : Nat := 65536 - d.cellsHeld

/-- Whether a port sends XOFF and XON: UP, with PAUSE or PFC enabled (R72, R78). -/
def Dev.flowControls (d : Dev) (n : Nat) : Bool :=
  (d.port n).link == .up && d.regF (epReg n 0xC) 8 0 != 0

/-- Queue a MAC control frame with the given quanta on a port: PAUSE, or PFC for every enabled priority (R72). -/
def Dev.sendFlow (d : Dev) (n quanta : Nat) : Dev :=
  let pfc := d.regF (epReg n 0xC) 7 0
  let body := if pfc ≠ 0 then TxBody.pfc pfc quanta else TxBody.pause quanta
  d.modPort n fun p => { p with txq := p.txq ++ [⟨macControlAddr, 0, 64, body⟩] }

/-- Send XOFF on every port that flow-controls; `crossing` counts it (R72). -/
def Dev.sendXoff (d : Dev) (crossing : Bool) : Dev :=
  ([0, 1, 2, 3] : List Nat).foldl (fun d n =>
    if d.flowControls n then
      let d := d.sendFlow n (d.regF (epReg n 0xC) 31 16)
      if crossing then d.portCount n 63 1 else d
    else d) d

/-- Send XON, quanta 0, on every port that flow-controls (R72). -/
def Dev.sendXon (d : Dev) : Dev :=
  ([0, 1, 2, 3] : List Nat).foldl (fun d n => if d.flowControls n then d.sendFlow n 0 else d) d

/-- Take cells from the pool; a fall below XOFF sends XOFF (R72). -/
def Dev.takeCells (d : Dev) (n : Nat) : Dev :=
  let d := { d with cellsHeld := d.cellsHeld + n }
  let d := { d with poolLow := min d.poolLow d.cellsFree }
  if d.cellsFree < d.regF 0x1800C 15 0 ∧ !d.belowXoff then ({ d with belowXoff := true }).sendXoff true else d

/-- Return cells to the pool; a rise above XON sends XON (R72). -/
def Dev.freeCells (d : Dev) (n : Nat) : Dev :=
  let d := { d with cellsHeld := d.cellsHeld - n }
  if d.regF 0x1800C 31 16 < d.cellsFree ∧ d.belowXoff then ({ d with belowXoff := false }).sendXon else d

/-- Cells that a frame holds while it arrives and that return when it is dropped whole (R68). -/
def Dev.passCells (d : Dev) (n : Nat) : Dev :=
  let n := min n d.cellsFree
  (d.takeCells n).freeCells n

/-! ## Pauses (R76, R77, R79) -/

/-- One pause quantum of the mode in femtoseconds (512 bit times). -/
def Dev.quantumFs (d : Dev) : Nat := if d.portMode = 0 then 51200000 else if d.portMode = 3 then 5120000 else 20480000

/-- Quanta that have passed since a cycle. -/
def Dev.quantaSince (d : Dev) (since : Nat) : Nat := (d.cycles - since) * 800000 / d.quantumFs

/-- The quanta for which the PAUSE and the PFC pauses of a port have held it so far. -/
def Dev.heldQuanta (d : Dev) (n : Nat) : Nat :=
  let p := d.port n
  min p.pauseLeft (d.quantaSince p.pauseSince) +
    min ((p.pfcLeft.map fun x => x.2).foldl max 0) (d.quantaSince p.pfcSince)

/-! ## Transmission (R67, R70, R73, R75 to R78) -/

/-- Bytes of a frame that carries an IP packet of `n` bytes after its IP header, padded to 64 (R67, R85). -/
def Dev.ipFrameLen (d : Dev) (port : Nat) (v6 : Bool) (n : Nat) : Nat :=
  max 64 (18 + (if d.portVlan port ≠ 0 then 4 else 0) + (if d.macsecOn port then 32 else 0) +
    (if v6 then 40 else 20) + n)

/-- The largest DKT payload on a port (R85). -/
def Dev.maxPay (d : Dev) (port : Nat) (v6 : Bool) : Nat :=
  d.maxLen port - 18 - (if d.portVlan port ≠ 0 then 4 else 0) - (if d.macsecOn port then 32 else 0) -
    (if v6 then 40 else 20) - 8 - 32

/-- Queue a data frame on a port; discarded and counted while the port is not UP (R75). -/
def Dev.queueFrame (d : Dev) (n : Nat) (f : TxFrame) : Dev :=
  if (d.port n).link = .up then d.modPort n fun p => { p with txq := p.txq ++ [f] }
  else d.portCount n 42 1


/-- Discard the frames queued on a port, counted in TX_DROP_LINK; MAC control frames stay where `keep` (R75, R78). -/
def Dev.dropQueue (d : Dev) (n : Nat) (keep : Bool) : Dev :=
  let p := d.port n
  let lost := p.txq.filter fun f => !(keep && f.body.isControl)
  (d.modPort n fun p => { p with txq := p.txq.filter fun f => keep && f.body.isControl }).portCount n 42 lost.length

/-- The frame on a port's wire: the one begun last, until its last bit has gone out (R67, R73). -/
def Dev.onWire (d : Dev) (n : Nat) : Option TxNow :=
  match (d.port n).current with
  | some t => if t.gone d.portMode d.cycles then none else some t
  | none => none

/-- Take a frame's octets and size bin back, and count the shorter frame that went out (R74, R75, R79). -/
def Dev.recountTx (d : Dev) (n len sent : Nat) : Dev :=
  let d := d.modPort n fun p => { p with
    counters :=
      let put := fun (t : Tab Nat) (i v : Nat) => if v = 0 then t.del i else t.put i v
      let t := put p.counters 32 (p.counters.getD 32 0 - len)
      put t (44 + sizeBin len) (t.getD (44 + sizeBin len) 0 - 1) }
  (d.portCount n 32 sent).portCount n (44 + sizeBin sent) 1

/-- End a frame after `sent` bytes with a stomped FCS, counted in the given counter; the frame's octets and its size are
those that went out (R74, R75, R79). -/
def Dev.cutFrame (d : Dev) (n counter sent : Nat) (t : TxNow) : Dev :=
  let out := (t.bytes (d.portMac n) (d.portVlan n)).take sent
  ((d.recountTx n t.frame.len (sent + 4)).portCount n counter 1).modPort n fun p =>
    { p with current := none, stomped := out ++ stompedFcs out }

/-- End the frame on a port's wire with a stomped FCS, counted in the given counter (R75). -/
def Dev.stomp (d : Dev) (n counter : Nat) : Dev :=
  match d.onWire n with
  | some t => d.cutFrame n counter (t.sent d.portMode d.cycles) t
  | none => d

/-! ## MACsec associations (R225 to R229) -/

/-- The key of an association: SEC_MSA_SEL's value. -/
def saIndex (port dir sc an : Nat) : Nat := port * 32 + dir * 16 + sc * 4 + an

/-- The active transmit association of a port. -/
def Dev.activeSa (d : Dev) (port : Nat) : Option (Nat × Sa) :=
  d.sec.sas.first fun i s => i / 16 == port * 2 && s.state == .active

/-- Change the association at an index. -/
def Dev.modSa (d : Dev) (i : Nat) (f : Sa → Sa) : Dev :=
  { d with sec := { d.sec with sas := d.sec.sas.mod i f } }

/-- The last PN that a transmit association may use (R227). -/
def Sa.lastPn (s : Sa) : Nat := if s.xpn then 0xFFFFFFFFFFFFFFFE else 0xFFFFFFFE

/-- The PN at which the threshold is reported (R227). -/
def Dev.pnThresh (d : Dev) (s : Sa) : Nat := if s.xpn then d.regN 0x600B0 * 2 ^ 32 else d.regN 0x600B0

/-- The successor that an exhausted association names, where it is one (R227). -/
def Dev.saSuccessor (d : Dev) (i : Nat) (s : Sa) : Option Nat :=
  let j := i / 4 * 4 + s.next
  match d.sec.sas.find j with
  | some t => if s.nextEn ∧ t.state = .ready ∧ j ≠ i then some j else none
  | none => none

/-- The transmit association at `i` is exhausted: its successor takes over, or the port stops data, which is reported at
the end of the core cycle (R227, R235). -/
def Dev.saExhaust (d : Dev) (i : Nat) : Dev :=
  match d.sec.sas.find i with
  | none => d
  | some s =>
    let port := i / 32
    let d := d.modSa i fun s => { s with state := .exhausted }
    match d.saSuccessor i s with
    | some j =>
      (d.modSa j fun t => { t with state := .active }).log evSaSwitch (be 1 port ++ be 4 (i % 4) ++ be 4 (j % 4))
    | none => { d with sec := { d.sec with stops := d.sec.stops.put port (i % 4) } }

/-- Report the ports that stopped data in this core cycle (R227, R235). -/
def Dev.reportStops (d : Dev) : Dev :=
  d.sec.stops.foldl (fun (d : Dev) (p : Nat × Nat) => (d.raise (irqSec 4)).log evTxStop (be 1 p.1 ++ be 4 p.2))
    { d with sec := { d.sec with stops := [] } }

/-- Protect one frame under the active association: use its PN, report the threshold, exhaust it at its last PN. A switch
to the successor takes effect from the next frame (R227). -/
def Dev.saUse (d : Dev) (i : Nat) (s : Sa) : Dev :=
  let port := i / 32
  let d := (d.modSa i fun s => { s with pn := s.pn + 1 }).portCount port 43 1
  let d := if s.pn = d.pnThresh s then
      (d.raise (irqSec 3)).log evPnThresh (be 1 port ++ be 4 (i % 4) ++ be 8 s.pn)
    else d
  if s.pn ≥ s.lastPn then d.saExhaust i else d

/-- The outcome of MACsec for a received frame (R228). -/
inductive SecRx where
  | unprotected
  | accept (sc : Nat)
  | drop (counter : Nat)
  deriving DecidableEq, Repr

/-- Check a received frame's SecTAG against the receive associations of its port (R228). -/
def Dev.secCheck (d : Dev) (port : Nat) (t : SecTag) : SecRx :=
  match ([0, 1, 2, 3] : List Nat).find? fun sc => d.sec.scis.find (port * 4 + sc) == some t.sci with
  | none => .drop 4
  | some sc =>
    match d.sec.sas.find (saIndex port 1 sc (t.an % 4)) with
    | none => .drop 5
    | some s =>
      if t.pn + s.win < s.pn then .drop 6
      else if !t.icvOk then .drop 7
      else .accept sc

/-- A frame has passed: raise the lowest acceptable PN (R228). -/
def Dev.secPass (d : Dev) (port sc : Nat) (t : SecTag) : Dev :=
  d.modSa (saIndex port 1 sc (t.an % 4)) fun s => { s with pn := max s.pn (t.pn + 1) }

end Sys2Proof.Machine
end

