-- ==== Sys2Proof/Machine/DktOps.lean ====
section
/-! DEFINITION. Shared operations of Dialur Key Transport: headers, sequence numbers, sending, windows and
acknowledgement (R86 to R101). -/

set_option cleanup.letToHave false

namespace Sys2Proof.Machine

/-! ## Headers and sequence numbers (R86, R88) -/

/-- The header fields in the first 32 bytes of a UDP payload. -/
def DktHdr.ofBytes (b : Bytes) : DktHdr :=
  let f := num b 1 1
  { type := num b 0 1 % 16, som := bit f 7, eom := bit f 6, ackReq := bit f 5, retx := bit f 4, queue := f % 8,
    epoch := num b 2 2 / 4096, session := num b 2 2 % 4096, seq := num b 4 4, ack := num b 8 4,
    limit := num b 12 4, tag := num b 16 2, payLen := num b 18 2, offset := num b 20 4, sack := num b 24 4 }

/-- The 32 header bytes, HCRC included. -/
def DktHdr.bytes (h : DktHdr) : Bytes :=
  let b := be 1 (0x10 + h.type) ++
    be 1 (128 * b2n h.som + 64 * b2n h.eom + 32 * b2n h.ackReq + 16 * b2n h.retx + h.queue) ++
    be 2 (h.epoch * 4096 + h.session) ++ be 4 h.seq ++ be 4 h.ack ++ be 4 h.limit ++ be 2 h.tag ++
    be 2 h.payLen ++ be 4 h.offset ++ be 4 h.sack
  b ++ be 4 (crc32c b)

/-- A header of zeros of the given type. -/
def DktHdr.blank (type : Nat) : DktHdr :=
  { type := type, som := false, eom := false, ackReq := false, retx := false, queue := 0, epoch := 0, session := 0,
    seq := 0, ack := 0, limit := 0, tag := 0, payLen := 0, offset := 0, sack := 0 }

/-- Sequence arithmetic modulo 2^32. -/
def seqAdd (a n : Nat) : Nat := (a + n) % 2 ^ 32

/-- How far `b` lies after `a`, modulo 2^32. -/
def seqDist (a b : Nat) : Nat := (b + 2 ^ 32 - a % 2 ^ 32) % 2 ^ 32

/-- Whether `a` precedes `b` (R88). -/
def seqLt (a b : Nat) : Bool := 1 ≤ seqDist a b && seqDist a b < 2 ^ 31

/-- Whether `a` precedes or equals `b`. -/
def seqLe (a b : Nat) : Bool := seqDist a b < 2 ^ 31

/-! ## Sending -/

/-- Session `sid`, where it is not FREE. -/
def Dev.session (d : Dev) (sid : Nat) : Option Sess := d.sess.find sid

/-- Change session `sid`. -/
def Dev.modSess (d : Dev) (sid : Nat) (f : Sess → Sess) : Dev := { d with sess := d.sess.mod sid f }

/-- The priority of a DKT frame that answers a queue: its PCP, 0 while the port is untagged (R77). -/
def Dev.dktPcp (d : Dev) (port queue : Nat) : Nat :=
  if d.portVlan port = 0 then 0 else bits (d.regN (epReg port 0x10)) (3 * queue + 2) (3 * queue)

/-- Queue the frame of a DKT packet from an address of the device, and from the DKT port, towards an address (R70,
R84). -/
def Dev.sendDatagram (d : Dev) (port sid queue : Nat) (v6 : Bool) (src mac ip udpPort : Nat) (packet : Bytes) : Dev :=
  (d.queueFrame port
    { dst := mac, pcp := d.dktPcp port queue, len := d.ipFrameLen port v6 (8 + packet.length),
      body := .dkt sid v6 src (d.regF 0x20000 31 16) ip udpPort packet }).count (dktCnt 9)

/-- The window that LIMIT is advertised with: WIN_LOW while the pool is below XOFF (R98). -/
def Dev.window (d : Dev) : Nat :=
  if d.cellsFree < d.regF 0x1800C 15 0 then d.regF 0x20010 26 16 else d.regF 0x20010 10 0

/-- The LIMIT to advertise: never before one already advertised (R98). -/
def Dev.limitFor (d : Dev) (s : Sess) : Nat :=
  let l := seqAdd s.rxNext (d.window + 2 ^ 32 - 1)
  if seqLt s.advLimit l then l else s.advLimit

/-- The SACK bits of a session: packets held beyond the next expected one (R86). -/
def Sess.sackBits (s : Sess) : Nat :=
  ofBits ((List.range 32).map fun i => s.held.has (seqAdd s.rxNext (32 - i)))

/-- Send one packet of a session with its current ACK and LIMIT (R88). SACK is filled in ACK packets alone, which no table
of the spec says: DESIGN CHOICE (log entry 75). -/
def Dev.sendPacket (d : Dev) (sid : Nat) (h : DktHdr) (payload : Bytes) : Dev :=
  match d.session sid with
  | none => d
  | some s =>
    let limit := d.limitFor s
    let hdr := { h with epoch := s.wireEpoch, session := s.wireId, ack := s.rxNext, limit := limit,
                        payLen := payload.length, sack := if h.type = 1 then s.sackBits else 0 }
    let d := d.modSess sid fun s => { s with advLimit := limit }
    d.sendDatagram s.key.port sid h.queue s.key.v6 s.devIp s.mac s.key.srcIp s.key.srcPort (hdr.bytes ++ payload)

/-- Send a packet that takes no sequence number: ACK, KEEPALIVE, CHALLENGE, ACCEPT, PROOF, or a CLOSE that is not
retransmitted. -/
def Dev.sendPlain (d : Dev) (sid type : Nat) (payload : Bytes) : Dev :=
  match d.session sid with
  | none => d
  | some s => d.sendPacket sid { DktHdr.blank type with seq := s.txNext } payload

/-- Send or resend a sequenced packet. -/
def Dev.sendTx (d : Dev) (sid : Nat) (p : TxPkt) (retx : Bool) : Dev :=
  d.sendPacket sid { DktHdr.blank p.type with
    som := p.som, eom := p.eom, queue := p.queue, tag := p.tag, offset := p.offset, seq := p.seq, retx := retx }
    p.payload

/-- Send a packet that answers one of no session, to its source (R93). -/
def Dev.sendBack (d : Dev) (k : RxPkt) (h : DktHdr) (payload : Bytes) : Dev :=
  d.sendDatagram k.key.port 0 0 k.key.v6 k.dstIp k.srcMac k.key.srcIp k.key.srcPort
    ({ h with payLen := payload.length }.bytes ++ payload)

/-- Send a sequenced packet for the first time and hold it for retransmission (R99, R100). -/
def Dev.sendFirst (d : Dev) (sid : Nat) (p : TxPkt) : Dev :=
  (d.modSess sid fun s => { s with unacked := s.unacked ++ [p], txNext := seqAdd s.txNext 1 }).sendTx sid p false

/-- The first message that can send: bytes at hand, and no earlier message on its queue (R95). -/
def nextOut : List OutMsg → List OutMsg → Option (List OutMsg × OutMsg × List OutMsg)
  | _, [] => none
  | before, m :: r =>
    if !m.data.isEmpty && !(before.any (·.queue == m.queue)) then some (before, m, r)
    else nextOut (before ++ [m]) r

/-- Send one packet of the waiting messages, where the host's window and the messages allow (R95, R99). -/
def Dev.pumpOne (d : Dev) (sid : Nat) : Option Dev :=
  match d.session sid with
  | none => none
  | some s =>
    if s.state = .opening ∨ s.state = .challenged ∨ !seqLe s.txNext s.txLimit then none
    else
      match nextOut [] s.out with
      | none => none
      | some (before, m, after) =>
        let pay := m.data.take (max 1 (d.maxPay s.key.port s.key.v6))
        let rest := m.data.drop (max 1 (d.maxPay s.key.port s.key.v6))
        let last := rest.isEmpty && !m.more
        let p : TxPkt := { seq := s.txNext, type := 0, som := m.sent = 0, eom := last, queue := m.queue, tag := m.tag,
                           offset := m.sent, payload := pay, fast := false }
        let out := if last then before ++ after
          else before ++ [{ m with sent := m.sent + pay.length, data := rest }] ++ after
        some ((d.modSess sid fun s => { s with out := out }).sendFirst sid p)

/-- Send while the window lasts: at most 1,024 packets (R88). -/
def Dev.pumpN (sid : Nat) : Nat → Dev → Dev
  | 0, d => d
  | n + 1, d =>
    match d.pumpOne sid with
    | some d' => Dev.pumpN sid n d'
    | none => d

/-- Send what the session's window allows. -/
def Dev.pump (d : Dev) (sid : Nat) : Dev := Dev.pumpN sid 1024 d

/-- Put a whole message on a session and send what the window allows. -/
def Dev.sendMessage (d : Dev) (sid queue tag : Nat) (data : Bytes) : Dev :=
  (d.modSess sid fun s => { s with out := s.out ++ [⟨queue, tag, 0, data, false⟩] }).pump sid

/-- Open a message whose further bytes follow as they are released (R110). -/
def Dev.openMessage (d : Dev) (sid queue tag : Nat) (data : Bytes) : Dev :=
  (d.modSess sid fun s => { s with out := s.out ++ [⟨queue, tag, 0, data, true⟩] }).pump sid

/-- Add bytes to an open message; `last` closes it. -/
def Dev.extendMessage (d : Dev) (sid queue tag : Nat) (data : Bytes) (last : Bool) : Dev :=
  (d.modSess sid fun s =>
    { s with out := s.out.map fun m =>
        if m.queue = queue ∧ m.tag = tag ∧ m.more then { m with data := m.data ++ data, more := !last } else m }).pump
    sid

/-! ## Acknowledgement (R99 to R101) -/

/-- The lowest sequence number not yet acknowledged. -/
def Sess.una (s : Sess) : Nat :=
  match s.unacked with
  | p :: _ => p.seq
  | [] => s.txNext

/-- Take in the ACK and LIMIT that a packet of the session carries in a core cycle (R88, R99, R100). -/
def Sess.absorb (s : Sess) (h : DktHdr) (cycle : Nat) : Sess :=
  let s := if seqLt s.txLimit h.limit then { s with txLimit := h.limit } else s
  if seqLt s.una h.ack && seqLe h.ack s.txNext then
    { s with unacked := s.unacked.filter fun p => !seqLt p.seq h.ack, timeoutUs := 64, retries := 0, ackedAt := some cycle }
  else s

/-- How many packets a SACK shows received beyond `seq` (R101). -/
def sackBeyond (h : DktHdr) (seq : Nat) : Nat :=
  ((List.range 32).filter fun i => bit h.sack i && seqLt seq (seqAdd h.ack (1 + i))).length

/-- Whether a SACK shows a packet itself as received. -/
def sackHas (h : DktHdr) (seq : Nat) : Bool :=
  let n := seqDist h.ack seq
  1 ≤ n && n ≤ 32 && bit h.sack (n - 1)

/-- Resend once each packet that a SACK shows three or more packets behind (R101). -/
def Dev.fastResend (d : Dev) (sid : Nat) (h : DktHdr) : Dev :=
  match d.session sid with
  | none => d
  | some s =>
    let due := s.unacked.filter fun p => !p.fast && !sackHas h p.seq && 3 ≤ sackBeyond h p.seq
    let d := d.modSess sid fun s =>
      { s with unacked := s.unacked.map fun p => if due.any (·.seq == p.seq) then { p with fast := true } else p }
    due.foldl (fun d p => (d.sendTx sid p true).count (dktCnt 11)) d

/-- Act on the ACK, LIMIT and SACK of a packet of an established session and send what they allow. A SACK that is not zero
counts in every type of packet: DESIGN CHOICE (log entry 75). -/
def Dev.absorbAck (d : Dev) (sid : Nat) (h : DktHdr) : Dev :=
  let d := d.modSess sid fun s => s.absorb h d.cycles
  let d := if h.type = 1 ∨ h.sack ≠ 0 then d.fastResend sid h else d
  d.pump sid

/-- Return a session to FREE and remove its classification entry (R89, R104). -/
def Dev.freeSession (d : Dev) (sid : Nat) : Dev :=
  { d.classRemove sid with sess := d.sess.del sid, latches := d.latches.keep fun k _ => k / 2 ^ 24 != sid + 3 }

/-- Drop a packet from the pool and return its cells (R71). -/
def Dev.dropPkt (d : Dev) (pid : Nat) : Dev :=
  match d.rx.find pid with
  | none => d
  | some k => ({ d with rx := d.rx.del pid }).freeCells k.cells

/-- Take a packet out of the pool's table; its cells stay held by what takes it. -/
def Dev.claimPkt (d : Dev) (pid : Nat) : Dev := { d with rx := d.rx.del pid }

end Sys2Proof.Machine
end

