-- ==== Sys2Proof/Machine/Operands.lean ====
section
/-! DEFINITION. The wire forms of commands: the opcode table, request records, the checks of a record's format, and
response records (R109 to R114, R127, R135, R314, R413). -/

set_option cleanup.letToHave false

namespace Sys2Proof.Machine

/-! ## The opcode table (R111, R314) -/

/-- The parameter block length of an opcode, none for an unknown opcode. -/
def paramLenOf (op : Nat) : Option Nat :=
  match op with
  | 0x01 => some 0 | 0x02 => some 0 | 0x03 => some 0 | 0x04 => some 0 | 0x05 => some 8 | 0x06 => some 12
  | 0x07 => some 12 | 0x10 => some 8 | 0x11 => some 12 | 0x12 => some 16 | 0x20 => some 12 | 0x21 => some 32
  | 0x22 => some 16 | 0x23 => some 4 | 0x28 => some 0 | 0x29 => some 12 | 0x2A => some 0 | 0x2B => some 8
  | 0x30 => some 4 | 0x38 => some 0 | 0x40 => some 64 | 0x41 => some 0 | 0x42 => some 0 | 0x48 => some 8
  | 0x49 => some 4 | 0x50 => some 0 | 0x51 => some 0 | 0x58 => some 4 | 0x59 => some 0 | 0x5A => some 12
  | 0x60 => some 8 | 0x61 => some 4 | 0x68 => some 36 | 0x69 => some 4 | 0x6A => some 20 | 0x6B => some 16
  | 0x6C => some 0 | 0x6D => some 24 | 0x6E => some 4
  | _ => none

/-- Whether an opcode is a data opcode, accepted on queues 0 to 5. -/
def isDataOp (op : Nat) : Bool := op < 0x40

/-- Whether an opcode is a management opcode, accepted on queue 6. -/
def isMgmtOp (op : Nat) : Bool := 0x40 ≤ op && op < 0x68

/-- Whether an opcode is a League opcode (R314). -/
def isLeagueOp (op : Nat) : Bool := 0x68 ≤ op && op < 0x70

/-- The opcodes that read under R123; every other command with a lock identity writes. -/
def isReadOp (op : Nat) : Bool :=
  op == 0x01 || op == 0x06 || op == 0x04 || op == 0x11 || op == 0x21 || op == 0x29

/-- The data opcodes that the League relays: those that are placed (R321, R325). -/
def isRelayedOp (op : Nat) : Bool := (1 ≤ op && op ≤ 0x2B && op != 0x22 && op != 0x23) || op == 0x30

/-- Whether a queue accepts an opcode; queue 7 takes League opcodes, the data opcodes that the League relays and mirrors,
and the FLUSH that follows relayed writes (R111, R112, R326). -/
def queueAccepts (queue op : Nat) : Bool :=
  if queue ≤ 5 then isDataOp op
  else if queue = 6 then isMgmtOp op
  else isLeagueOp op || isRelayedOp op || op == 0x38

/-- Whether a League record may wrap an opcode: LG_RELAY what the League relays, LG_REPLICATE a write of it (R314, R325,
R327). -/
def wraps (outer op : Nat) : Bool := isRelayedOp op && (outer != 0x6C || (!isReadOp op && op != 0x07))

/-- The privilege bits of which an opcode needs one: admin 1, writer 2, reader 4, chain-appender 8, auditor 16. The
admin privilege includes every other (R112). -/
def privNeeded (op : Nat) : Nat :=
  match op with
  | 0x01 => 4 | 0x04 => 4 | 0x06 => 4 | 0x07 => 4 | 0x11 => 4 | 0x21 => 4
  | 0x02 => 2 | 0x03 => 2 | 0x05 => 2 | 0x10 => 2 | 0x12 => 2 | 0x20 => 2 | 0x22 => 2 | 0x30 => 2
  | 0x28 => 8 | 0x2A => 8 | 0x29 => 20 | 0x38 => 10 | 0x42 => 20 | 0x59 => 16 | 0x5A => 16
  | _ => 0

/-- Whether a session's privileges allow an opcode (R112). -/
def privOk (priv op : Nat) : Bool := bit priv 0 || (priv &&& privNeeded op) != 0

/-- Whether an opcode must carry NS_ID 0 (R135). -/
def needsNs0 (op : Nat) : Bool :=
  op == 0x22 || op == 0x23 || op == 0x30 || op == 0x38 || isLeagueOp op ||
    (isMgmtOp op && op != 0x41 && op != 0x42)

/-- Whether the opcode table gives an opcode a value (R111, R314). -/
def takesValue (op : Nat) : Bool :=
  ([0x02, 0x05, 0x10, 0x20, 0x28, 0x30, 0x48, 0x50, 0x61, 0x6A, 0x6C, 0x6D] : List Nat).contains op

/-- Whether an opcode's key length is judged by its namespace's type at dispatch (R114, R136, R147); a header that
names no namespace, and ITERATE, carry no key at all. -/
def keyByType (op : Nat) : Bool := op < 0x2C && op != 0x07 && op != 0x22 && op != 0x23

/-! ## Requests (R109) -/

/-- A request record: its header fields, parameter block, key and value. -/
structure Req where
  op : Nat
  flags : Nat
  nsField : Nat
  keyLen : Nat
  paramLen : Nat
  reserved : Nat
  valLen : Nat
  timeout : Nat
  param : Bytes
  key : Bytes
  value : Bytes
  deriving DecidableEq, Repr

/-- Read a request record's header and what follows it. -/
def reqOf (b : Bytes) : Req :=
  let kl := num b 4 1
  let pl := num b 5 1
  { op := num b 0 1, flags := num b 1 1, nsField := num b 2 2, keyLen := kl, paramLen := pl,
    reserved := num b 6 2, valLen := num b 8 4, timeout := num b 12 4, param := slice b 16 pl,
    key := slice b (16 + pl) kl, value := b.drop (16 + pl + kl) }

/-- The length that a record's header declares (R109). -/
def Req.total (r : Req) : Nat := 16 + r.paramLen + r.keyLen + r.valLen

/-- Whether a parameter block and VAL_LEN lie in the ranges that are checked at arrival (R413). -/
def paramOk (op valLen : Nat) (p : Bytes) : Bool :=
  match op with
  | 0x06 => 1 ≤ num p 8 4
  | 0x07 => 1 ≤ num p 8 2 && num p 8 2 ≤ 4096 && num p 10 2 == 0
  | 0x10 => 1 ≤ valLen
  | 0x11 => 1 ≤ num p 8 4
  | 0x12 => 1 ≤ num p 8 8
  | 0x20 => num p 2 2 == 0
  | 0x21 => num p 2 2 == 0 && 1 ≤ num p 24 4 && num p 24 4 ≤ 65536 && num p 28 4 == 0
  | 0x22 => num p 8 4 ≤ 600000 && num p 12 4 ≤ 120000
  | 0x23 => num p 0 1 ≤ 15 && num p 1 3 == 0
  | 0x28 => 1 ≤ valLen
  | 0x29 => 1 ≤ num p 8 4 && num p 8 4 ≤ 65536
  | 0x30 => 1 ≤ num p 0 1 && num p 1 3 == 0
  | 0x49 => num p 0 2 ≤ 511 && num p 2 2 == 0
  | 0x50 => 1 ≤ valLen
  | 0x58 => num p 0 1 ≤ 66 && num p 1 1 ≤ 3 && num p 2 2 == 0
  | 0x5A => 1 ≤ num p 8 4 && num p 8 4 ≤ 65536
  | 0x60 => num p 0 4 % 4 == 0 && 1 ≤ num p 4 4 && num p 4 4 ≤ 256
  | 0x61 => num p 0 4 % 4 == 0 && 4 ≤ valLen && valLen ≤ 1024 && valLen % 4 == 0
  | 0x68 => num p 0 1 ≤ 63 && num p 1 1 ≤ 3 && num p 2 1 ≤ 3 && num p 3 1 == 0 && num p 14 2 == 0
  | 0x69 => num p 0 1 ≤ 63 && num p 1 1 ≤ 7 && num p 2 2 == 0
  | 0x6A => ((4 ≤ num p 8 1 && num p 8 1 ≤ 31) || num p 8 1 == 0xFF) && num p 9 1 == 0 && num p 16 1 ≤ 1 &&
      num p 17 3 == 0
  | 0x6D => (num p 0 1 / 64 % 2 == 0) && num p 1 1 == 0
  | 0x6E => num p 0 1 ≤ 63 && num p 1 3 == 0
  | _ => true

/-- Step 4 of the arrival checks, the record's own part: reserved bits, PARAM_LEN, RAW, NS_ID 0 and field ranges
(R114, R138, R413). DEDUCED (log entry 24): a VAL_LEN where the opcode table gives no value, and a KEY_LEN where the
command names no namespace, lie outside the range the table states. -/
def recordOk (r : Req) : Bool :=
  r.flags < 4 && r.nsField < 1024 && r.reserved == 0 && paramLenOf r.op == some r.paramLen &&
  (!bit r.flags 0 || r.op == 0x01 || r.op == 0x02) && (!needsNs0 r.op || r.nsField == 0) &&
  r.timeout ≤ 600000 && (takesValue r.op || r.valLen == 0) && (keyByType r.op || r.keyLen == 0) &&
  paramOk r.op r.valLen r.param

/-! ## Sub-records of a QUIRE (R127) -/

/-- Whether a QUIRE may carry an opcode. -/
def quireOp (op : Nat) : Bool := op == 0x02 || op == 0x03 || op == 0x05 || op == 0x10 || op == 0x12

/-- The sub-records of a value area, or the index of the first that breaks the format; `i` is the index of the next. -/
def subRecords : Nat → Nat → Bytes → Except Nat (List Req)
  | 0, i, b => if b.isEmpty then .ok [] else .error i
  | n + 1, i, b =>
    if b.length < 16 then .error i
    else
      let r := reqOf b
      let len := 8 * ceilDiv r.total 8
      if b.length < len ∨ !recordOk r ∨ !quireOp r.op ∨ bit r.flags 1 ∨ r.timeout ≠ 0 ∨
          !allZero (slice b r.total (len - r.total)) then .error i
      else
        match subRecords n (i + 1) (b.drop len) with
        | .ok rest => .ok ({ r with value := r.value.take r.valLen } :: rest)
        | .error e => .error e

/-- The bytes that a Quire's limit counts: VAL_LENs and the LENGTH of every DISCARD (R127). -/
def quireBytes (l : List Req) : Nat :=
  (l.map fun r => r.valLen + if r.op = 0x12 then num r.param 8 8 else 0).sum

/-! ## Responses (R110) -/

/-- A response record without trailer: OPCODE, STATUS, FLAGS, VAL_LEN, VERSION, DETAIL, parameters and data. -/
def response (op status flags valLen version detail : Nat) (param data : Bytes) : Bytes :=
  be 1 op ++ be 1 status ++ be 1 flags ++ be 1 param.length ++ be 4 valLen ++ be 8 version ++ be 8 detail ++
    param ++ data

/-- A response trailer (R110). -/
def trailer (status delivered detail : Nat) : Bytes := be 1 status ++ zeros 3 ++ be 4 delivered ++ be 8 detail

/-! ## Status codes (R113) -/

def stOk : Nat := 0x00
def stNotFound : Nat := 0x01
def stExists : Nat := 0x02
def stVersionMismatch : Nat := 0x03
def stTooLarge : Nat := 0x04
def stBadKey : Nat := 0x05
def stNsUnknown : Nat := 0x06
def stNsType : Nat := 0x07
def stNoSpace : Nat := 0x08
def stMediaExhausted : Nat := 0x09
def stChainFull : Nat := 0x0A
def stRetentionLocked : Nat := 0x0B
def stIntegrity : Nat := 0x0C
def stKeyLost : Nat := 0x0D
def stNonceExhausted : Nat := 0x0E
def stResourceOff : Nat := 0x0F
def stAbortedReset : Nat := 0x10
def stTimeout : Nat := 0x11
def stBusy : Nat := 0x12
def stRedirect : Nat := 0x13
def stNotAuthorised : Nat := 0x14
def stMalformed : Nat := 0x15
def stAtomicLimit : Nat := 0x16
def stUncorrectable : Nat := 0x17
def stMemberUnavailable : Nat := 0x18
def stInternal : Nat := 0x1F

end Sys2Proof.Machine
end

