-- ==== Sys2Proof/Machine/CqeOps.lean ====
section
/-! DEFINITION. Shared operations of the command engine: lock identities, arrival, answers, and the end of a session's
commands (R96, R103, R109 to R126). -/

set_option cleanup.letToHave false

namespace Sys2Proof.Machine

/-! ## Lock identities and order (R122 to R126) -/

/-- The lock identity of one record that names a namespace (R122). -/
def lockOf (op ns : Nat) (key param : Bytes) : List LockId :=
  if op = 0x20 ∨ op = 0x21 then [.stream ns (num param 0 2)]
  else if op = 0x28 ∨ op = 0x29 ∨ op = 0x2A ∨ op = 0x2B then [.chain ns]
  else if op = 0x41 then [.barrier ns]
  else if (op < 0x07 ∧ 0 < op) ∨ op = 0x10 ∨ op = 0x11 ∨ op = 0x12 then [.key ns key]
  else []

/-- The lock identities of a command: those of its own record, or every distinct one of a Quire's operations. -/
def locksOf (op ns : Nat) (key param : Bytes) (subs : List Req) : List LockId :=
  if op = 0x30 then (subs.flatMap fun r => lockOf r.op (r.nsField % 1024) r.key r.param).eraseDups
  else lockOf op ns key param


/-- The namespace that an identity names. -/
def LockId.ns : LockId → Nat
  | .key n _ => n
  | .stream n _ => n
  | .chain n => n
  | .barrier n => n

/-- Whether a command names a namespace, itself or by one of its identities (R122). -/
def Cmd.names (c : Cmd) (n : Nat) : Bool := (c.ns == n && n != 0) || c.locks.any fun l => l.ns == n

/-- Whether two commands are registered on one lock identity. -/
def Cmd.shares (a b : Cmd) : Bool :=
  a.locks.any (fun l => b.locks.contains l) ||
    a.locks.any (fun l => match l with | .barrier n => b.names n | _ => false) ||
    b.locks.any (fun l => match l with | .barrier n => a.names n | _ => false)

/-- Whether two registered commands stand in each other's way: they share an identity and one of them writes, or one is
an NS_DELETE of a namespace that the other names (R122, R123). -/
def Cmd.blocks (a b : Cmd) : Bool :=
  (a.locks.any (fun l => b.locks.contains l) && (a.isWrite || b.isWrite)) ||
    a.locks.any (fun l => match l with | .barrier n => b.names n | _ => false) ||
    b.locks.any (fun l => match l with | .barrier n => a.names n | _ => false)

/-- The commands that are registered, by arrival: those queued and those dispatched that have not passed on. -/
def Engine.registered (e : Engine) : List (Nat × Cmd) :=
  ((e.flights.keep fun _ f => !f.passed).map fun p => (p.1, p.2.cmd)) ++ e.queued

/-- Whether a command is at the head of every entry it is registered in (R118, R123). -/
def Engine.atHead (e : Engine) (n : Nat) (c : Cmd) : Bool :=
  e.registered.all fun p => !(p.1 < n) || !p.2.blocks c

/-- The entries of the key-lock table in use: distinct identities with a command registered (R122). -/
def Engine.locksUsed (e : Engine) : List LockId := (e.registered.flatMap fun p => p.2.locks).eraseDups

/-- The namespace by whose class a data opcode on queue 7 is arbitrated: that of its header, or of its first
operation. -/
def Cmd.classNs (c : Cmd) : Nat :=
  if c.ns ≠ 0 then c.ns
  else
    match c.locks with
    | l :: _ => l.ns
    | [] => 0

/-- The queue that a command is arbitrated as before lending. A data opcode on queue 7 that names no namespace with a
class is background: DESIGN CHOICE (log entry 30). -/
def Dev.ownClass (d : Dev) (c : Cmd) : Nat :=
  if c.queue = 7 ∧ isDataOp c.op then
    match d.nss.find c.classNs with
    | some n => n.cls
    | none => 5
  else c.queue

/-- The rank of a queue: urgent first, then weighted by weight with ties to the lower queue, background last;
management and League opcodes neither lend nor borrow (R125). -/
def Engine.rank (e : Engine) (queue : Nat) : Nat :=
  if queue = 0 then 100000
  else if queue ≤ 4 then 10 * e.weights.getD (queue - 1) 1 + (10 - queue)
  else if queue = 5 then 1
  else 0

/-! ## Answers -/

/-- Count a status that CQE's counters count (R134). -/
def Dev.countStatus (d : Dev) (status : Nat) : Dev :=
  if status = stMalformed then d.count (cqeCnt 6)
  else if status = stNotAuthorised then d.count (cqeCnt 7)
  else if status = stTimeout then (d.count (cqeCnt 5)).raise (irqCqe 4)
  else if status = stResourceOff then d.count (pwrCnt 3)
  else if status = stKeyLost then d.count (secCnt 3)
  else d

/-- Answer a TAG of a session with a whole response message (R95, R110). -/
def Dev.answer (d : Dev) (sid queue tag : Nat) (msg : Bytes) : Dev :=
  (d.modSess sid fun s => { s with tags := s.tags.erase tag }).sendMessage sid queue tag msg

/-- Answer with a status and no parameters or data. -/
def Dev.answerStatus (d : Dev) (sid queue tag op status version detail : Nat) : Dev :=
  (d.countStatus status).answer sid queue tag (response op status 0 0 version detail [] [])

/-- Refuse a message at its arrival: its TAG is answered, and a command that is still unanswered under the same TAG stays
so (R95, R114). -/
def Dev.refuseTag (d : Dev) (sid queue tag op status version detail : Nat) : Dev :=
  (d.countStatus status).sendMessage sid queue tag (response op status 0 0 version detail [] [])

/-- The end of a dispatched command (R120, R126): its response is sent, its context and its identities are given up. -/
def Dev.finishWith (d : Dev) (ctx : Nat) (msg : Bytes) : Dev :=
  match d.cqe.flights.find ctx with
  | none => d
  | some f =>
    let d := { d with cqe := { d.cqe with flights := d.cqe.flights.del ctx } }
    if f.dead then d else d.answer f.cmd.session f.cmd.queue f.cmd.tag msg

/-- The end of a dispatched command with a status, a version and a detail. -/
def Dev.finish (d : Dev) (ctx status version detail : Nat) : Dev :=
  match d.cqe.flights.find ctx with
  | none => d
  | some f => (d.countStatus status).finishWith ctx (response f.cmd.op status 0 0 version detail [] [])

/-- The end of a dispatched command by an internal fault: CQE_INTERNAL is written, and DETAIL is the SEQ that the record
takes behind what waits in the journal's FIFO, 0 where the record is refused (R113, R134, R336). -/
def Dev.finishInternal (d : Dev) (ctx cause : Nat) : Dev :=
  match d.cqe.flights.find ctx with
  | none => d
  | some f =>
    let c := f.cmd
    let param := be 1 c.op ++ be 2 c.session ++ be 1 c.queue ++ be 2 c.tag ++ be 1 cause
    let seq := if d.evj.takes 1 then d.evj.nextSeq + d.evj.fifo.length else 0
    (d.log evInternal param).finish ctx stInternal 0 seq

/-- The end of a dispatched command with OK, response flags, parameters and data. -/
def Dev.finishData (d : Dev) (ctx flags version : Nat) (param data : Bytes) : Dev :=
  match d.cqe.flights.find ctx with
  | none => d
  | some f => d.finishWith ctx (response f.cmd.op stOk flags data.length version 0 param data)

/-- The end of a dispatched command with OK, parameters and data. -/
def Dev.finishOk (d : Dev) (ctx version : Nat) (param data : Bytes) : Dev := d.finishData ctx 0 version param data

/-- Change a dispatched command. -/
def Dev.modFlight (d : Dev) (ctx : Nat) (f : Flight → Flight) : Dev :=
  { d with cqe := { d.cqe with flights := d.cqe.flights.mod ctx f } }

/-- A dispatched command passes its lock identities on (R126). -/
def Dev.passLocks (d : Dev) (ctx : Nat) : Dev := d.modFlight ctx fun f => { f with passed := true }

/-- The dispatched command of a context. -/
def Dev.flight (d : Dev) (ctx : Nat) : Option Flight := d.cqe.flights.find ctx

/-! ## Arrival (R96, R114, R119, R122) -/

/-- How many commands a queue of a session holds (R119). -/
def Engine.queueFill (e : Engine) (sid queue : Nat) : Nat :=
  e.queued.count fun _ c => c.session == sid && c.queue == queue

/-- What refuses a command for want of room: DETAIL of BUSY, 0 for none (R114, R119, R122). -/
def Dev.noRoom (d : Dev) (c : Cmd) : Nat :=
  if d.cqe.queueFill c.session c.queue ≥ d.regF (0x30010 + 4 * c.queue) 12 0 then 1
  else if d.cqe.queued.length ≥ 65536 then 2
  else
    let used := d.cqe.locksUsed
    if used.length + (c.locks.filter fun l => !used.contains l).length > 65536 then 3 else 0

/-- Report a refusal for want of room (R119, R134). -/
def Dev.reportBusy (d : Dev) (detail : Nat) : Dev :=
  if detail = 1 then (d.count (cqeCnt 2)).raise (irqCqe 0)
  else if detail = 2 then
    let low := d.cqe.slotsLow
    ((d.count (cqeCnt 3)).raise (irqCqe 1)).logLimited evPoolFull 1 fun n => be 4 n ++ be 4 low
  else ((d.count (cqeCnt 4)).raise (irqCqe 3)).logLimited evLockFull 1 fun n => be 4 n

/-- Steps 1 to 6 of the arrival checks: status and DETAIL and, for a QUIRE, the index of a bad sub-record in VERSION;
none where they pass. `carried` is how many bytes the SOM packet carries; `outer` the opcode of a League record that wraps
this one. The commands of a League session pass on queue 7 without a privilege (R313). -/
def Dev.arrivalRefusal (s : Sess) (queue tag carried : Nat) (r : Req) (outer : Option Nat) (whole : Bool) :
    Option (Nat × Nat × Nat) :=
  if (paramLenOf r.op).isNone then some (stMalformed, 4, 0)
  else if !queueAccepts queue r.op || outer.any fun o => !wraps o r.op then some (stMalformed, 3, 0)
  else if carried < 16 + r.paramLen + r.keyLen then some (stMalformed, 1, 0)
  else if !recordOk r then some (stMalformed, 2, 0)
  else
    match (if r.op = 0x30 ∧ whole then subRecords (num r.param 0 1) 0 r.value else .ok []) with
    | .error i => some (stMalformed, 6, i)
    | .ok _ =>
      if s.tags.contains tag then some (stMalformed, 7, 0)
      else if !(s.league && queue == 7) && !privOk s.priv r.op then some (stNotAuthorised, 0, 0)
      else none

/-- The queued commands in the line ahead of a newcomer, latest arrival first: those that share an identity with it or
with a command of the line (R125). -/
def lineAhead (c : Cmd) (queued : List Cmd) : List Cmd :=
  queued.reverse.foldl (fun line q => if q.shares c || line.any q.shares then line ++ [q] else line) []

/-- How many queued commands take a higher rank from a newcomer that waits behind them, along the whole line of commands
ahead (R125). -/
def Dev.lendings (d : Dev) (c : Cmd) : Nat :=
  let e := d.cqe
  ((lineAhead c (e.queued.map (·.2))).filter fun q =>
    d.ownClass q ≤ 5 && e.rank (d.ownClass q) < e.rank (d.ownClass c)).length

/-- A command arrives: it is registered and queued, or answered BUSY (R114 step 7, R119, R122, R125). Answers the
device and, where it is queued, its arrival number. -/
def Dev.enqueue (d : Dev) (c : Cmd) : Dev × Option Nat :=
  let busy := d.noRoom c
  if busy ≠ 0 then
    (((d.reportBusy busy).refuseTag c.session c.queue c.tag c.op stBusy 0 busy), none)
  else
    let n := d.cqe.arrivals
    let lent := d.lendings c
    let e := { d.cqe with queued := d.cqe.queued.put n c, arrivals := n + 1,
                          slotsLow := min d.cqe.slotsLow (65536 - d.cqe.queued.length - 1) }
    let d := ({ d with cqe := e }).modSess c.session fun s => { s with tags := c.tag :: s.tags }
    ((d.count (cqeCnt 0)).countN (cqeCnt 8) lent, some n)

/-- The command that a request record makes (R109). -/
def cmdOf (sid queue tag : Nat) (r : Req) (whole : Bool) (mirror : Bytes) (cells : Nat) : Cmd :=
  let subs := match (if r.op = 0x30 then subRecords (num r.param 0 1) 0 r.value else .ok []) with
    | .ok l => l
    | .error _ => []
  let locks := locksOf r.op (r.nsField % 1024) r.key r.param subs
  { session := sid, queue := queue, tag := tag, op := r.op, raw := bit r.flags 0, fua := bit r.flags 1,
    ns := r.nsField % 1024, timeout := r.timeout, param := r.param, key := r.key, valLen := r.valLen,
    value := r.value, whole := whole, locks := locks, isWrite := !isReadOp r.op && !locks.isEmpty, waited := 0, cells := cells, broken := none, mirror := mirror }

/-- Whether a record's message must be whole before it arrives: a QUIRE (R96). -/
def arrivesWhole (op : Nat) : Bool := op == 0x30

/-- Whether a command may be dispatched before its message is whole (R414). -/
def dispatchesEarly (op : Nat) : Bool := op == 0x02 || op == 0x05 || op == 0x10 || op == 0x20 || op == 0x28

/-- Drop what a message held: the pool cells of its packets. -/
def Dev.endMessage (d : Dev) (sid queue : Nat) : Dev :=
  match (d.session sid).bind fun s => s.inMsgs.find queue with
  | none => d
  | some m => (d.modSess sid fun s => { s with inMsgs := s.inMsgs.del queue }).freeCells m.cells

/-- A message ends under R96: its command, if it is one, ends MALFORMED with a DETAIL and applies nothing; otherwise
its TAG is answered so. -/
def Dev.breakMessage (d : Dev) (sid queue detail : Nat) : Dev :=
  match (d.session sid).bind fun s => s.inMsgs.find queue with
  | none => d
  | some m =>
    let d := (d.modSess sid fun s =>
      { s with inMsgs := s.inMsgs.put queue { m with dead := true, cells := 0, bytes := [] } }).freeCells m.cells
    if m.dead then d
    else
      match m.cmd with
      | none => d.refuseTag sid queue m.tag (num m.bytes 0 1) stMalformed 0 detail
      | some n =>
        match d.cqe.queued.find n with
        | some c =>
          (({ d with cqe := { d.cqe with queued := d.cqe.queued.del n } }).freeCells c.cells).answerStatus
            sid queue m.tag c.op stMalformed 0 detail
        | none => d.finish n stMalformed 0 detail

/-- Value bytes of a message become in sequence and feed its command (R96, R414). -/
def Dev.feed (d : Dev) (n : Nat) (bytes : Bytes) (whole : Bool) (cells : Nat) : Dev :=
  match d.cqe.queued.find n with
  | some c =>
    { d with cqe := { d.cqe with
        queued := d.cqe.queued.put n { c with value := c.value ++ bytes, whole := whole, cells := c.cells + cells } } }
  | none =>
    (d.modFlight n fun f => { f with cmd := { f.cmd with value := f.cmd.value ++ bytes, whole := whole } }).freeCells
      cells

/-! ## The end of a session's commands (R103) -/

/-- Discard the commands of a session that have not been dispatched; answers how many there were. -/
def Dev.discardQueued (d : Dev) (sid : Nat) : Dev × Nat :=
  let mine := d.cqe.queued.keep fun _ c => c.session == sid
  let cells := (mine.map fun p => p.2.cells).sum
  (({ d with cqe := { d.cqe with queued := d.cqe.queued.keep fun _ c => c.session != sid } }).freeCells cells,
    mine.length)

/-- Leave a lost session's dispatched commands to complete without a response; one whose message never became whole
applies nothing and ends. -/
def Dev.orphan (d : Dev) (sid : Nat) : Dev :=
  { d with cqe := { d.cqe with
      flights := (d.cqe.flights.keep fun _ f => !(f.cmd.session == sid && !f.cmd.whole)).mapAll fun _ f =>
        if f.cmd.session = sid then { f with dead := true } else f } }

/-- Return the cells that a session's open messages and held packets hold. -/
def Dev.releaseSessCells (d : Dev) (sid : Nat) : Dev :=
  match d.session sid with
  | none => d
  | some s => d.freeCells ((s.inMsgs.map fun p => p.2.cells).sum + (s.held.map fun p => p.2.cells).sum)

/-- The end of a session without further responses: its commands as R103 says, then FREE. Answers the device and the
number of commands discarded. -/
def Dev.dropSession (d : Dev) (sid : Nat) : Dev × Nat :=
  let (d, n) := (d.releaseSessCells sid).discardQueued sid
  ((d.orphan sid).freeSession sid, n)

end Sys2Proof.Machine
end

