-- ==== Sys2Proof/Machine/FlashOps.lean ====
section
/-! DEFINITION. Shared operations of the flash media: Bushels, free Bushels and floors, log heads and placement,
collections and retirement (R237 to R266). -/

set_option cleanup.letToHave false

namespace Sys2Proof.Machine

/-! ## Bushels (R237 to R242, R251) -/

/-- A Bushel that nothing has changed: Bushels 0 to 15 hold the system area, the others are free (R252). -/
def Bushel.fresh (b : Nat) : Bushel :=
  { state := if b < 16 then .system else .free, mode := if b < 16 then 1 else 0, area := if b < 16 then 4 else 0,
    head := 0xFF, ns := 0, flags := 0, failedDie := 0xFF, absentDie := 0xFF, tlcErases := 0, pslcErases := 0,
    valid := 0, written := 0, committed := 0, rdCount := 0, closeTime := 0, openSeq := 0, firstTime := 0, pin := 0,
    maxCorr := 0, suspect := [] }

/-- Bushel `b`. -/
def Dev.bushel (d : Dev) (b : Nat) : Bushel := d.fmm.bushels.getD b (Bushel.fresh b)

/-- Replace Bushel `b`. -/
def Dev.setBushel (d : Dev) (b : Nat) (x : Bushel) : Dev :=
  { d with fmm := { d.fmm with bushels := d.fmm.bushels.put b x } }

/-- Change Bushel `b`. -/
def Dev.modBushel (d : Dev) (b : Nat) (f : Bushel → Bushel) : Dev := d.setBushel b (f (d.bushel b))

/-- Whether a Bushel is narrow (R241). -/
def Bushel.narrow (x : Bushel) : Bool := bit x.flags 1

/-- Data dies of a Bushel (R240). -/
def Bushel.dies (x : Bushel) : Nat := if x.narrow then 62 else 63

/-- Rows of a Bushel (R238). -/
def Bushel.rows (x : Bushel) : Nat := if x.mode = 1 then 128 else 384

/-- Grains of a row: G of R240. -/
def Bushel.rowGrains (x : Bushel) : Nat := 1024 * x.dies

/-- Grains of a Bushel's data. -/
def Bushel.capacity (x : Bushel) : Nat := x.rows * x.rowGrains

/-- Grains of a program group: one row in pSLC, the three rows of a wordline in TLC (R238). -/
def Bushel.group (x : Bushel) : Nat := (if x.mode = 1 then 1 else 3) * x.rowGrains

/-- The effective erase count E (R257). -/
def Bushel.erases (x : Bushel) : Nat := x.tlcErases + ceilDiv x.pslcErases 10

/-- Whether a Bushel holds data of its area. -/
def Bushel.held (x : Bushel) : Bool :=
  x.state == .opened || x.state == .parked || x.state == .closed || x.state == .victim || x.state == .kept

/-- A LOC: Bushel ‖ grain (R164). -/
def locOf (b grain : Nat) : Nat := b * 2 ^ 25 + grain

/-- The Bushel of a LOC. -/
def locBushel (loc : Nat) : Nat := loc / 2 ^ 25

/-- The grain of a LOC. -/
def locGrain (loc : Nat) : Nat := loc % 2 ^ 25

/-- The parity die of a Bushel (R239, R241). -/
def Bushel.parityDie (x : Bushel) (b : Nat) : Nat :=
  if x.narrow ∧ x.absentDie = b % 64 then (b + 1) % 64 else b % 64

/-- The data dies of a Bushel in slot order (R240). -/
def Bushel.dataDies (x : Bushel) (b : Nat) : List Nat :=
  (List.range 64).filter fun i => i != x.parityDie b && !(x.narrow && i == x.absentDie)

/-- The flash channels that hold a range of grains of a Bushel (R240). -/
def Dev.channelsOf (d : Dev) (b grain n : Nat) : List Nat :=
  let x := d.bushel b
  let dies := x.dataDies b
  let first := grain / 1024
  (List.range (min 64 ((grain + n + 1023) / 1024 - first))).map fun i => dies.getD ((first + i) % x.dies) 0 / 4

/-- Whether a range of grains lies in groups that are committed. -/
def Dev.onFlash (d : Dev) (loc n : Nat) : Bool := locGrain loc + n ≤ (d.bushel (locBushel loc)).committed

/-- The lowest channel of FC0 to FC15 that is not ON. -/
def Dev.channelOff (d : Dev) : Option Nat := (List.range 16).find? fun c => !d.domOn c

/-! ## Stored values -/

/-- Length of a value's header (R188). -/
def Value.hdrLen (v : Value) : Nat := 64 + 8 * ceilDiv v.key.length 8 + 32 * v.segs.length

/-- Grains of a value's header. -/
def Value.hdrGrains (v : Value) : Nat := ceilDiv v.hdrLen 64

/-- Grains of a stored value (R189). -/
def Value.grains (v : Value) : Nat := v.hdrGrains + (v.segs.map fun s => ceilDiv s.body.length 64).sum

/-- The first grain of segment `k` after LOC (R189). -/
def Value.segGrain (v : Value) (k : Nat) : Nat :=
  v.hdrGrains + ((v.segs.take k).map fun s => ceilDiv s.body.length 64).sum

/-- The stored length of a value: the bytes of its bodies (R116, R204). -/
def Value.storedLen (v : Value) : Nat := (v.segs.map fun s => s.body.length).sum

/-- The original length of segment `k` (R186). -/
def Value.segLen (v : Value) (k : Nat) : Nat := if v.kind = 2 then 65536 else min 65536 (v.valueLen - 65536 * k)

/-! ## The value header (R188, R201) -/

/-- A segment descriptor. -/
def StoredSeg.descriptor (s : StoredSeg) : Bytes :=
  be 8 s.counter ++ padTo 16 s.tag ++ be 4 s.crc ++ be 3 s.body.length ++ be 1 s.form

/-- The header of a value with a given HCRC. -/
def Value.headerWith (v : Value) (hcrc : Nat) : Bytes :=
  be 2 0x5648 ++ be 1 1 ++ be 1 v.kind ++ be 2 v.ns ++ be 1 v.key.length ++ be 1 (b2n v.enc) ++ be 8 v.version ++
    be 8 v.valueLen ++ be 2 v.segs.length ++ be 2 v.hdrGrains ++ be 4 v.keyGen ++ be 8 v.createVer ++ be 4 v.segNo ++
    zeros 16 ++ be 4 hcrc ++ padTo (8 * ceilDiv v.key.length 8) v.key ++ v.segs.flatMap StoredSeg.descriptor

/-- The value header. -/
def Value.header (v : Value) : Bytes := v.headerWith (crc32c (v.headerWith 0))

/-- The length that a header's own fields give it. -/
def headerLen (b : Bytes) : Nat := 64 + 8 * ceilDiv (num b 6 1) 8 + 32 * num b 24 2

/-- Whether descriptor `k` of a header obeys R188. -/
def descriptorOk (b : Bytes) (k : Nat) : Bool :=
  let x := slice b (64 + 8 * ceilDiv (num b 6 1) 8 + 32 * k) 32
  let orig := if num b 3 1 = 2 then 65536 else min 65536 (num b 16 8 - 65536 * k)
  let len := num x 28 3
  1 ≤ len && (num x 31 1 == 0 && len == orig || num x 31 1 == 1 && len < orig) &&
    (bit (num b 7 1) 0 || num x 0 8 == 0 && allZero (slice x 8 16))

/-- Whether the fields of a header obey R188. -/
def headerFieldsOk (b : Bytes) : Bool :=
  let kind := num b 3 1
  let keyLen := num b 6 1
  let segs := num b 24 2
  kind ≤ 4 && num b 4 2 < 1024 &&
    (if kind ≤ 2 then 1 ≤ keyLen && keyLen ≤ 128 else keyLen == (if kind = 3 then 14 else 8)) && num b 7 1 ≤ 1 &&
    (if kind = 1 then segs == 0
     else if kind = 2 ∨ kind = 4 then segs == 1
     else segs ≤ 256 && segs == ceilDiv (num b 16 8) 65536) &&
    (kind != 2 || num b 16 8 == 65536) && num b 26 2 == ceilDiv (headerLen b) 64 &&
    (bit (num b 7 1) 0 || num b 28 4 == 0) && (kind == 1 || kind == 2 || num b 32 8 == 0) && (kind == 2 || num b 40 4 == 0) &&
    allZero (slice b 44 16) && (List.range segs).all (descriptorOk b)

/-- Why the bytes of a header that the media give fail their checks, none where they pass: 0 MAGIC, 1 HFORMAT, 2 HCRC,
3 field (log entry 23). -/
def headerFault (b : Bytes) : Option Nat :=
  let len := headerLen b
  if num b 0 2 ≠ 0x5648 then some 0
  else if num b 2 1 ≠ 1 then some 1
  else if b.length < len ∨ crc32c (b.take 60 ++ zeros 4 ++ slice b 64 (len - 64)) ≠ num b 60 4 then some 2
  else if !headerFieldsOk b then some 3
  else none

/-- The headers that fail, by LOC, of those that the media give otherwise than they were stored. One that passes every
check is read as it was stored: DESIGN CHOICE (log entry 78). -/
def headerFaults (read : List (Nat × Bytes)) : List (Nat × Nat) :=
  read.filterMap fun x => (headerFault x.2).map fun cause => (x.1, cause)

/-- The same of the headers that lie on flash: one in staging is read as it was staged. -/
def Dev.badHeaders (d : Dev) (read : List (Nat × Bytes)) : List (Nat × Nat) :=
  headerFaults (read.filter fun x => (d.fmm.values.find x.1).any fun v => d.onFlash x.1 v.hdrGrains)

/-! ## Counts of the health page (R267) -/

/-- Add to a count of the health page, by its offset. -/
def Dev.health (d : Dev) (off n : Nat) : Dev :=
  { d with fmm := { d.fmm with health := d.fmm.health.put off (satAdd 0xFFFFFFFFFFFFFFFF (d.fmm.health.getD off 0) n) } }

/-! ## Free Bushels, areas and floors (R242, R243, R256) -/

/-- The Chain reserve's quota of Bushels. -/
def Dev.chainQuota (d : Dev) : Nat :=
  match d.image with
  | some im => ceilDiv im.chainMib 504
  | none => 33

/-- The pSLC share's quota of Bushels. -/
def Dev.pslcQuota (d : Dev) : Nat :=
  match d.image with
  | some im => im.pslcBushels
  | none => 512

/-- Quota of an area other than the user pool and the system area. -/
def Dev.quota (d : Dev) (area : Nat) : Nat :=
  if area = 1 then d.pslcQuota else if area = 2 then d.chainQuota else if area = 3 then 48 else 0

/-- Bushels that an area holds. -/
def Dev.areaHeld (d : Dev) (area : Nat) : Nat := d.fmm.bushels.count fun _ x => x.held && x.area == area

/-- Bushels in FREE or ERASING. -/
def Dev.freeTotal (d : Dev) : Nat :=
  10736 - d.fmm.bushels.count fun b x => 16 ≤ b && x.state != .free && x.state != .erasing

/-- F, the free count (R243). -/
def Dev.freeF (d : Dev) : Nat :=
  d.freeTotal - (([1, 2, 3] : List Nat).map fun a => d.quota a - d.areaHeld a).sum

/-- P, the user pool in Bushels, narrow ones counted whole and retired ones not at all (R244). -/
def Dev.userPool (d : Dev) : Nat :=
  10736 - d.fmm.bushels.count (fun b x => 16 ≤ b && x.state == .retired) - 48 - d.chainQuota - d.pslcQuota

/-- P · 63, narrow Bushels counted as 62/63 of one (R244). -/
def Dev.userPool63 (d : Dev) : Nat := 63 * d.userPool - d.fmm.bushels.count fun b x => 16 ≤ b && x.narrow && x.state != .retired

/-- F at which each floor is entered (R256). -/
def floorAt (level : Nat) : Nat := if level = 1 then 48 else if level = 2 then 24 else 8

/-- Enter the next floor where F has fallen below it (R256, R363). -/
def Dev.floorEnter (d : Dev) : Dev :=
  let lvl := d.fmm.floor + 1
  if d.fmm.floor < 3 ∧ d.freeF < floorAt lvl then
    let d := { d with fmm := { d.fmm with floor := lvl, freed := if lvl = 2 then 0 else d.fmm.freed } }
    let d := (d.raise (irqFmm 4)).log evFloor (be 1 lvl ++ be 4 d.freeF)
    if lvl = 1 ∧ !d.domOn 64 then (d.raise (irqPwr 2)).log evPwrNeeded (be 1 64 ++ be 4 d.freeF) else d
  else d

/-- Leave the present floor where F has reached its value plus 8 (R256). -/
def Dev.floorLeave (d : Dev) : Dev :=
  let lvl := d.fmm.floor
  if 0 < lvl ∧ floorAt lvl + 8 ≤ d.freeF then
    ({ d with fmm := { d.fmm with floor := lvl - 1 } }).log evFloor (be 1 (128 + lvl) ++ be 4 d.freeF)
  else d

/-- Settle the floors after F has changed. -/
def Dev.floors (d : Dev) : Dev := d.floorEnter.floorEnter.floorEnter.floorLeave.floorLeave.floorLeave

/-! ## Retirement (R241, R252, R260, R266) -/

/-- Spares that a die has left. -/
def Dev.spares (d : Dev) (die : Nat) : Nat := 384 - d.fmm.spareUsed.getD die 0

/-- Spares left on all dies. -/
def Dev.sparesLeft (d : Dev) : Nat := 24576 - (d.fmm.spareUsed.map (·.2)).sum

/-- Dies with no spare left. -/
def Dev.diesNoSpare (d : Dev) : Nat := d.fmm.spareUsed.count fun _ u => 384 ≤ u

/-- The physical block of a die of a Bushel number (R241). A block that was never replaced has the number of its
row: DESIGN CHOICE (log entry 60). -/
def Dev.blockMap (d : Dev) (b die : Nat) : Nat :=
  if b < 10752 then d.fmm.blocks.getD (b * 64 + die) b
  else if b - 10752 < d.fmm.spareUsed.getD die 0 then 0xFFFF else b

/-- The Furlong reservations (R155). -/
def Dev.furlongReserved (d : Dev) : Nat :=
  (d.nss.map fun p => if p.2.entry.type = 2 then p.2.entry.capacity else 0).sum

/-- Media becomes exhausted where its conditions hold (R266). -/
def Dev.checkExhausted (d : Dev) : Dev :=
  let noSpares := d.sparesLeft = 0
  if d.fmm.exhausted then d
  else if noSpares ∨ d.userPool63 < 63 * (d.furlongReserved + 96) then
    let hit := d.nss.count fun _ n => n.entry.type ≠ 3
    let d := ({ d with fmm := { d.fmm with exhausted := true } }).raise (irqFmm 0)
    (d.log evMediaExhausted (be 1 (if noSpares then 0 else 1) ++ be 4 d.sparesLeft ++ be 4 d.userPool)).log
      evNsReadOnly (be 4 hit)
  else d

/-- Use the next spare of a die in place of a block (R241). -/
def Dev.useSpare (d : Dev) (b die : Nat) : Dev :=
  let used := d.fmm.spareUsed.getD die 0
  let d := { d with fmm := { d.fmm with
    blocks := d.fmm.blocks.put (b * 64 + die) (10752 + used), spareUsed := d.fmm.spareUsed.put die (used + 1) } }
  if used + 1 = 384 then (d.raise (irqFmm 6)).log evSpareZero (be 1 die) else d

/-- Retire the block of a die in a Bushel: a spare replaces it, or the Bushel becomes narrow, or it is retired whole
(R241, R252). -/
def Dev.retireBlock (d : Dev) (b die : Nat) : Dev :=
  let x := d.bushel b
  if x.narrow ∧ x.absentDie = die then d
  else if 0 < d.spares die ∧ !d.fmm.lostDies.contains die then (d.useSpare b die).checkExhausted
  else if !x.narrow then
    let d := { d with fmm := { d.fmm with blocks := d.fmm.blocks.put (b * 64 + die) 0xFFFF } }
    ((d.modBushel b fun x => { x with flags := x.flags ||| 2, absentDie := die }).log evNarrow
      (be 2 b ++ be 1 die)).checkExhausted
  else
    (((d.modBushel b fun x => { x with state := .retired }).log evRetired (be 2 b ++ be 1 0)).checkExhausted).floors

/-! ## Opening a Bushel (R245, R249, R252) -/

/-- The lowest number that no entry lists, which no erase has worn. -/
def Dev.untouched (d : Dev) : Option Nat :=
  match d.fmm.bushels.freeFrom 16 (d.fmm.bushels.length + 1) with
  | some b => if b < 10752 then some b else none
  | none => none

/-- The better of two FREE Bushels: the lower (or higher) effective erase count, ties to the lower number. -/
def betterFree (high : Bool) (a b : Nat × Nat) : Nat × Nat :=
  if a.2 = b.2 then (if a.1 ≤ b.1 then a else b)
  else if (a.2 < b.2) = !high then a else b

/-- The FREE Bushel of lowest or highest effective erase count, ties to the lower number (R245). -/
def Dev.freeBushel (d : Dev) (high : Bool) : Option Nat :=
  let listed := (d.fmm.bushels.filter fun p => p.2.state == .free && 16 ≤ p.1).map fun p => (p.1, p.2.erases)
  let all := match d.untouched with
    | some b => (b, 0) :: listed
    | none => listed
  match all with
  | [] => none
  | x :: r => some (r.foldl (betterFree high) x).1

/-- Take a FREE Bushel whose blocks on lost dies are retired first: it becomes narrow on one, or is retired whole and
another is taken (R241, R260); at most `fuel` are tried. -/
def Dev.takeFree (high : Bool) : Nat → Dev → Option (Nat × Dev)
  | 0, _ => none
  | fuel + 1, d =>
    match d.freeBushel high with
    | none => none
    | some b =>
      let d := d.fmm.lostDies.foldl (fun (d : Dev) die => if (d.bushel b).state = .retired then d else d.retireBlock b die) d
      if (d.bushel b).state = .retired then Dev.takeFree high fuel d else some (b, d)

/-- Open a FREE Bushel for a head (R252, R260). -/
def Dev.openBushel (d : Dev) (head mode area ns : Nat) (high : Bool) : Option (Nat × Dev) :=
  match Dev.takeFree high (d.freeTotal + 1) d with
  | none => none
  | some (b, d) =>
    let d := d.modBushel b fun x =>
      { x with state := .opened, mode := mode, area := area, head := head, ns := ns, openSeq := d.fmm.openSeq,
               valid := 0, written := 0, committed := 0, rdCount := 0, firstTime := 0, pin := 0, maxCorr := 0,
               failedDie := 0xFF, suspect := [] }
    let d := { d with fmm := { d.fmm with openSeq := d.fmm.openSeq + 1 } }
    some (b, (d.count (fmmCnt 0)).floors)

/-- The mode and area in which the hot and Furlong heads open their next Bushel (R249). -/
def Dev.ingestTarget (d : Dev) : Nat × Nat :=
  let room := d.areaHeld 1 < d.pslcQuota
  match d.regF 0x70000 1 0 with
  | 0 => (0, 0)
  | 2 => (1, if room then 1 else 0)
  | _ => if room then (1, 1) else (0, 0)

/-- Whether an area may open one more Bushel. -/
def Dev.areaRoom (d : Dev) (area : Nat) : Bool :=
  if area = 0 then 0 < d.freeF else d.areaHeld area < d.quota area

/-- Open the next Bushel of a head that is no Furlong head, within its area's quota (R242). `must` lets it open under the
8-Bushel floor (R256); `entry` keeps the reserve's last Bushel for seals (R288). -/
def Dev.openFor (d : Dev) (head : Nat) (must entry : Bool) : Option (Nat × Dev) :=
  if d.channelOff.isSome then none
  else if head = 0 then
    let (mode, area) := d.ingestTarget
    if d.fmm.floor = 3 ∧ !must then none
    else if d.areaRoom area then d.openBushel 0 mode area 0 false else none
  else if head = 3 then
    if (if entry then d.areaHeld 2 + 1 < d.chainQuota else d.areaHeld 2 < d.chainQuota) then
      d.openBushel 3 1 2 0 true else none
  else if head = 4 then (if d.areaRoom 3 then d.openBushel 4 1 3 0 false else none)
  else if d.areaRoom 0 then d.openBushel head 0 0 0 true
  else none

/-- A head with nothing open. -/
def Head.fresh : Head := ⟨none, 0, 0, none⟩

/-- Head `h`. -/
def Dev.head (d : Dev) (h : Nat) : Head := d.fmm.heads.getD h Head.fresh

/-- Change head `h`. -/
def Dev.modHead (d : Dev) (h : Nat) (f : Head → Head) : Dev :=
  if h < 12 then { d with fmm := { d.fmm with heads := setAt Head.fresh d.fmm.heads h (f (d.head h)) } } else d

/-- Write a filler from the end of what a Bushel holds to grain `upTo` (R246, R247). -/
def Dev.fill (d : Dev) (b upTo : Nat) : Dev :=
  let w := (d.bushel b).written
  if w < upTo then
    let d := d.modBushel b fun x => { x with written := upTo }
    ({ d with fmm := { d.fmm with fillers := d.fmm.fillers.put (locOf b w) (upTo - w) } }.count (fmmCnt 7)).health 88
      (64 * (upTo - w))
  else d

/-- No head holds a Bushel open any more. -/
def Dev.unhead (d : Dev) (b : Nat) : Dev :=
  let f := fun (h : Head) => if h.bushel = some b then { h with bushel := none } else h
  { d with fmm := { d.fmm with heads := d.fmm.heads.map f } }

/-- Close a Bushel (R252). -/
def Dev.closeBushel (d : Dev) (b : Nat) : Dev :=
  (d.modBushel b fun x => { x with state := .closed, head := 0xFF, closeTime := d.now }).unhead b

/-- Place `n` grains at the end of what a head's Bushel holds; where they do not fit, the Bushel is filled and closed
and `opener` opens the next (R246). Answers the LOC. -/
def Dev.place (d : Dev) (h n : Nat) (opener : Dev → Option (Nat × Dev)) : Option (Nat × Dev) :=
  let take := fun (d : Dev) (b : Nat) =>
    let w := (d.bushel b).written
    some (locOf b w, d.modBushel b fun x => { x with written := w + n, valid := x.valid + n })
  let fresh := fun (d : Dev) =>
    match opener d with
    | none => none
    | some (b, d) => take (d.modHead h fun x => { x with bushel := some b, block := none }) b
  match (d.head h).bushel with
  | none => fresh d
  | some b =>
    let x := d.bushel b
    if x.written + n ≤ x.capacity then take d b else fresh ((d.fill b x.capacity).closeBushel b)

/-- Grains left in a head's open Bushel. -/
def Dev.roomIn (d : Dev) (h : Nat) : Nat :=
  match (d.head h).bushel with
  | none => 0
  | some b => (d.bushel b).capacity - (d.bushel b).written

/-- Bytes staged in MB1. -/
def Dev.stagedBytes (d : Dev) : Nat := 64 * ((d.fmm.staged.filter fun s => !s.through).map (·.grains)).sum

/-- MB1's staging in bytes (R25). -/
def mb1Bytes : Nat := 16777216

/-- Stage data that a head has placed. -/
def Dev.stage (d : Dev) (loc grains head session arrival : Nat) (through : Bool := false) : Dev :=
  { d with fmm := { d.fmm with
      staged := d.fmm.staged ++ [⟨loc, grains, head, session, arrival, d.cycles, through⟩] } }

/-! ## Release and erase (R252, R253) -/

/-- A Bushel is RELEASED: what it held is gone, its SUSPECT and failed blocks are replaced and its erase begins. -/
def Dev.release (d : Dev) (b : Nat) : Dev :=
  let x := d.bushel b
  let mine := fun (k : Nat) => locBushel k != b
  let d := { d with
    fmm := { d.fmm with
      values := d.fmm.values.keep fun k _ => mine k, fillers := d.fmm.fillers.keep fun k _ => mine k,
      deltaBlocks := d.fmm.deltaBlocks.keep fun k _ => mine k, colls := d.fmm.colls.del b,
      dead := d.fmm.dead.filter mine, moving := d.fmm.moving.filter mine,
      staged := d.fmm.staged.filter fun s => mine s.loc, freed := d.fmm.freed + x.capacity }
    cap := { d.cap with extents := d.cap.extents.keep fun k _ => k / 2 ^ 26 != b } }
  let d := d.unhead b
  let d := d.modBushel b fun x => { x with state := .erasing, valid := 0, head := 0xFF, pin := 0 }
  (x.suspect.foldl (fun d die => if (d.bushel b).state = .retired then d else d.retireBlock b die) d).floors

/-- Release a Bushel that is CLOSED with nothing valid and no pin (R252). -/
def Dev.maybeRelease (d : Dev) (b : Nat) : Dev :=
  let x := d.bushel b
  if x.state = .closed ∧ x.valid = 0 ∧ x.pin = 0 ∧ x.written ≤ x.committed then d.release b else d

/-- Grains of a Bushel become invalid. -/
def Dev.invalidate (d : Dev) (loc grains : Nat) : Dev :=
  let b := locBushel loc
  if b = 0 then d
  else (d.modBushel b fun x => { x with valid := x.valid - grains }).maybeRelease b

/-- The value at a location becomes invalid; it stays on the media until its Bushel is released. -/
def Dev.invalidateValue (d : Dev) (loc : Nat) : Dev :=
  match d.fmm.values.find loc with
  | some v => { d with fmm := { d.fmm with dead := loc :: d.fmm.dead } }.invalidate loc v.grains
  | none => d

/-- The pin of a Bushel changes; a Bushel that nothing pins or fills any more is released. -/
def Dev.setPin (d : Dev) (b pin : Nat) : Dev := d.modBushel b fun x => { x with pin := pin }

/-! ## Choosing victims (R254, R258, R264) -/

/-- Whether a Bushel may be chosen by garbage collection (R254). -/
def Bushel.eligible (x : Bushel) : Bool :=
  x.state == .closed && x.area ≤ 2 && x.pin == 0 && x.ns == 0

/-- The weights of R254 in units of 1/65,536 and A_REF in s, from the FWC policy registers. -/
def Dev.gcWeights (d : Dev) : Nat × Nat × Nat × Nat :=
  (d.regF 0xB0020 31 16, d.regF 0xB0020 15 0, d.regF 0xB0024 15 0, d.regN 0xB0028)

/-- The score S of a Bushel in units of 1/65,536, each term cut to 16 fractional bits (R254; log entry 61). -/
def Dev.score (d : Dev) (x : Bushel) : Int :=
  let (a, b, c, aref) := d.gcWeights
  let v := min 65536 (x.valid * 65536 / x.capacity)
  let age := min 65536 ((d.now - x.closeTime) * 65536 / (aref * 1000000000))
  let w := x.erases * 65536 / 3000
  (a * (65536 - v) / 65536 : Nat) + (b * age / 65536 : Nat) - (c * w / 65536 : Nat)

/-- The eligible Bushel that is best under an order, ties to the lowest number. -/
def bestBy (l : List (Nat × Bushel)) (better : Bushel → Bushel → Bool) : Option (Nat × Bushel) :=
  match l with
  | [] => none
  | x :: r => some (r.foldl (fun best y => if better y.2 best.2 then y else best) x)

/-- The eligible Bushels. -/
def Dev.eligibles (d : Dev) : List (Nat × Bushel) := d.fmm.bushels.filter fun p => p.2.eligible && 16 ≤ p.1

/-- The Bushel of greatest score (R254). -/
def Dev.gcBest (d : Dev) : Option (Nat × Bushel) := bestBy d.eligibles fun a b => d.score b < d.score a

/-- The Bushel of least valid fraction (R254). -/
def Dev.gcLeast (d : Dev) : Option (Nat × Bushel) :=
  bestBy d.eligibles fun a b => a.valid * b.capacity < b.valid * a.capacity

/-- Whether copies run: GCE and every flash channel ON, no thermal suspension (R262, R263, R363). -/
def Dev.copiesRun (d : Dev) : Bool := d.domOn 64 && d.channelOff.isNone && !d.fmm.suspended

/-- The index slot that points at a location. -/
def Dev.slotAt (d : Dev) (loc : Nat) : Option (Nat × IdxEntry) := d.idx.slots.first fun _ e => e.loc == loc

/-- The LOCs of the values of a Bushel that the index points at. -/
def Dev.pointedIn (d : Dev) (b : Nat) : List Nat :=
  (d.fmm.values.filter fun p => locBushel p.1 == b && p.2.kind ≤ 2 && (d.slotAt p.1).isSome).map (·.1)

/-- Begin the collection of a CLOSED Bushel; what the index points at in it is to be moved (R184, R255). -/
def Dev.startColl (d : Dev) (b : Nat) (k : CollKind) : Dev :=
  let items := d.pointedIn b
  let d := d.modBushel b fun x => { x with state := .victim }
  { d with fmm := { d.fmm with colls := d.fmm.colls.put b k, moving := d.fmm.moving ++ items } }

/-- Whether a collection runs that is no fold and no wear move. -/
def Dev.gcRuns (d : Dev) : Bool :=
  d.fmm.colls.any fun p => match p.2 with
    | .gc => true
    | .refresh _ => true
    | _ => false

/-- Whether a fold runs. -/
def Dev.foldRuns (d : Dev) : Bool :=
  d.fmm.colls.any fun p => match p.2 with
    | .fold => true
    | _ => false

/-- The oldest CLOSED, unpinned pSLC Bushel of host data, those beyond the share first (R250). -/
def Dev.foldNext (d : Dev) : Option Nat :=
  let l := d.fmm.bushels.filter fun p => p.2.state == .closed && p.2.mode == 1 && p.2.area ≤ 1 && p.2.pin == 0 && 16 ≤ p.1
  let older := fun (a b : Bushel) =>
    if a.area = b.area then decide (a.openSeq < b.openSeq) else decide (a.area < b.area)
  (bestBy l older).map (·.1)

/-- Whether folding is due (R250): commanded, as the forced reclaim of PSLC_ONLY, with 256 Bushels in the share under
PSLC_FIRST, or with the device otherwise idle. -/
def Dev.foldDue (d : Dev) : Bool :=
  d.fmm.fold.isSome ||
    (match d.regF 0x70000 1 0 with
     | 2 => 1 ≤ d.fmm.floor
     | 1 => 256 ≤ d.areaHeld 1 || (d.cqe.queued.isEmpty && d.cqe.flights.isEmpty && d.fmm.staged.isEmpty)
     | _ => false)

/-- End a commanded fold that has no Bushel left (R250). -/
def Dev.foldEnd (d : Dev) : Dev :=
  match d.fmm.fold with
  | none => d
  | some f =>
    if d.foldRuns ∨ d.foldNext.isSome then d
    else
      (({ d with fmm := { d.fmm with fold := none } }).raise (irqFmm 7)).log evFold
        (be 4 f.count ++ be 4 f.bytes ++ be 4 ((d.cycles - f.since) / cyclesPerSecond))

/-- The collections that the hardware starts by itself: relocations first, then refreshes, then the forced choice of
the 48-Bushel floor; folds run beside them, and ahead of GC under PSLC_ONLY (R250, R254, R260, R264). -/
def Dev.nextColl (d : Dev) : Dev :=
  if !d.copiesRun then d
  else
    let d := if d.foldDue && !d.foldRuns then
        match d.foldNext with
        | some b => d.startColl b .fold
        | none => d
      else d
    let d := d.foldEnd
    if d.gcRuns then d
    else
      let flagged := fun i => d.fmm.bushels.first fun b x => x.state == .closed && bit x.flags i && 16 ≤ b
      match flagged 4 with
      | some (b, _) => d.startColl b (.refresh 3)
      | none =>
        match flagged 3 with
        | some (b, x) => d.startColl b (.refresh (if x.rdCount > (if x.mode = 1 then 32000000 else 3200000) then 2 else 1))
        | none =>
          if d.fmm.floor = 0 ∨ (d.regF 0x70000 1 0 = 2 ∧ d.foldRuns) then d
          else
            match d.gcLeast with
            | some (b, _) => d.startColl b .gc
            | none => d

end Sys2Proof.Machine
end

