-- ==== Sys2Proof/Machine/IndexOps.lean ====
section
/-! DEFINITION. Shared operations of the hash index: hashing, lookup, changes with their deltas, checkpoints, replay and
background removal (R161 to R183). -/

set_option cleanup.letToHave false

namespace Sys2Proof.Machine

/-! ## Hashing (R161, R162) -/

/-- The index input of a Hash key, an Extent root or an Extent segment (R161). -/
def idxInput (ns : Nat) (key : Bytes) : Option Nat → Bytes
  | none => [0] ++ be 2 ns ++ be 1 key.length ++ key
  | some s => [1] ++ be 2 ns ++ be 1 key.length ++ key ++ be 4 s

/-- What a hash gives (R162). -/
structure Place where
  u1 : Nat
  u2 : Nat
  sig : Nat
  deriving DecidableEq, Repr

/-- The units and the signature of a hash (R162). -/
def placeOf (h : Nat) : Place :=
  let off := if bits h 37 20 = 0 then 1 else bits h 37 20
  { u1 := bits h 63 38, u2 := bits h 63 38 ^^^ off, sig := bits h 19 0 }

/-- Where an index input lies. -/
def Dev.placeOf (d : Dev) (ns : Nat) (key : Bytes) (seg : Option Nat) : Place :=
  Machine.placeOf (sipHash24 d.ident.indexKey (idxInput ns key seg))

/-! ## Lookup (R166, R201) -/

/-- What identifies what is looked for: namespace, key and, for a segment, its number and, where it matters, its
object's creation version. -/
structure Want where
  ns : Nat
  key : Bytes
  seg : Option Nat
  ver : Option Nat

/-- Whether a value's header confirms a candidate (R166, R182). -/
def Want.confirms (w : Want) (v : Value) : Bool :=
  v.ns == w.ns && v.key == w.key &&
    match w.seg with
    | none => v.kind == 0 || v.kind == 1
    | some s => v.kind == 2 && v.segNo == s && (w.ver.isNone || w.ver == some v.createVer)

/-- The outcome of a lookup: the slot, entry and value found, how many headers held another key, and the candidates
whose header failed R188 with their causes. -/
structure Look where
  hit : Option (Nat × IdxEntry × Value)
  misses : Nat
  bad : List (Nat × Nat)

/-- The entries of a unit in slot order. -/
def Dev.unitSlots (d : Dev) (u : Nat) : Tab IdxEntry := d.idx.slots.keep fun k _ => k / 28 == u

/-- Search the candidates in order; `bad` are the LOCs whose header fails its checks, with the cause. -/
def Dev.confirm (d : Dev) (w : Want) (bad : List (Nat × Nat)) : List (Nat × IdxEntry) → Look → Look
  | [], r => r
  | (k, e) :: rest, r =>
    match bad.find? (·.1 == e.loc) with
    | some b => d.confirm w bad rest { r with bad := r.bad ++ [b] }
    | none =>
      match d.fmm.values.find e.loc with
      | none => d.confirm w bad rest { r with misses := r.misses + 1 }
      | some v => if w.confirms v then { r with hit := some (k, e, v) }
        else d.confirm w bad rest { r with misses := r.misses + 1 }

/-- Look an index input up (R166). -/
def Dev.lookup (d : Dev) (w : Want) (bad : List (Nat × Nat)) : Look :=
  let p := d.placeOf w.ns w.key w.seg
  let cands := (d.unitSlots p.u1 ++ d.unitSlots p.u2).filter fun x =>
    x.2.sig == p.sig && x.2.tag == w.ns % 512 && x.2.seg == w.seg.isSome
  d.confirm w bad cands ⟨none, 0, []⟩

/-- Report headers that failed (R202, R207). -/
def Dev.reportHeaders (d : Dev) (bad : List (Nat × Nat)) : Dev :=
  bad.foldl (fun d b =>
    ((d.count (vplCnt 9)).raise (irqVpl 2)).logLimited evHdrBad 64 fun _ => be 6 b.1 ++ be 1 b.2) d

/-- Count a lookup and report the headers that failed (R185, R202, R207). -/
def Dev.countLook (d : Dev) (l : Look) : Dev :=
  (((d.count (idxCnt 0)).countN (idxCnt 1) (b2n l.hit.isSome)).countN (idxCnt 2) l.misses).reportHeaders l.bad

/-- Run a lookup for a command or for background work: what it finds, with the lookup counted (R185). -/
def Dev.lookFor (d : Dev) (w : Want) : Option (Nat × IdxEntry × Value) × Dev :=
  let l := d.lookup w []
  (l.hit, d.countLook l)

/-- The value of a Hash key or the root of an Extent object. -/
def Dev.root (d : Dev) (ns : Nat) (key : Bytes) : Option (Nat × IdxEntry × Value) :=
  (d.lookup ⟨ns, key, none, none⟩ []).hit

/-- What an input is in the index with; an Extent segment counts whatever its creation version (R182). -/
def Dev.slotOf (d : Dev) (ns : Nat) (key : Bytes) (seg : Option Nat) : Option (Nat × IdxEntry × Value) :=
  (d.lookup ⟨ns, key, seg, none⟩ []).hit

/-- The mapped segment of an object. -/
def Dev.segment (d : Dev) (ns : Nat) (key : Bytes) (seg ver : Nat) : Option (Nat × IdxEntry × Value) :=
  (d.lookup ⟨ns, key, some seg, some ver⟩ []).hit

/-! ## Readiness and holds (R175, R180) -/

/-- The domain that keeps the index from use: the lowest of DR0 to DR3 that is not ON, else IDX (R180). -/
def Dev.idxOff (d : Dev) : Option Nat :=
  match ([53, 54, 55, 56] : List Nat).find? fun n => !d.domOn n with
  | some n => some n
  | none => if d.domOn 63 && d.idx.state == .ready then none else some 63

/-- The current delta block number. -/
def Index.block (x : Index) : Nat := x.nextPos / 128

/-- Whether index changes are held: the log has reached the replay origin plus 16,384 blocks (R175). -/
def Index.held (x : Index) : Bool := x.committed.origin + 16384 ≤ x.block

/-- Whether an automatic generation is due: the log has passed a block number that is a multiple of 8,192 since the last
generation began (R175). -/
def Index.cpDue (x : Index) : Bool :=
  let began := match x.run with
    | some r => r.page.origin
    | none => x.committed.origin
  began / 8192 < x.block / 8192

/-- Hold a change: STALL is reported once (R175). -/
def Dev.holdIndex (d : Dev) : Dev :=
  if d.idx.heldSince.isSome then d
  else ({ d with idx := { d.idx with heldSince := some d.cycles } }).raise (irqIdx 1)

/-! ## Changes (R167 to R173) -/

/-- The position after a position: 127 records a block (R172). -/
def nextPos (p : Nat) : Nat := if p % 128 = 126 then p + 2 else p + 1

/-- The copy of the current delta block that takes one more record on a head: not yet programmed, and programmed no earlier
than all that the head has placed (R173). -/
def Dev.blockCopy (d : Dev) (h : Nat) : Option Nat :=
  match (d.head h).block with
  | none => none
  | some (n, loc) =>
    let x := d.bushel (locBushel loc)
    if n = d.idx.block ∧ !d.onFlash loc 64 ∧ (d.head h).bushel = some (locBushel loc) ∧
        x.written ≤ x.group * ceilDiv (locGrain loc + 64) x.group then some loc
    else none

/-- Whether a head can place a delta block: it has one for the next record, or room for a new one (R246, R263). -/
def Dev.headLogs (d : Dev) (h : Nat) : Bool :=
  (d.blockCopy h).isSome || 64 ≤ d.roomIn h || (d.openFor h true false).isSome

/-- Whether MB1 has room for the delta block of one more record on a head (R17, R25). -/
def Dev.mb1Logs (d : Dev) (h : Nat) : Bool := (d.blockCopy h).isSome || d.stagedBytes + 4096 ≤ mb1Bytes

/-- The LOC of the delta block that carries a record on a head: a copy that takes it, or a new copy (R173). -/
def Dev.deltaBlock (d : Dev) (h session arrival : Nat) : Nat × Dev :=
  let n := d.idx.block
  match d.blockCopy h with
  | some loc => (loc, d.stage (loc + 64) 0 h session arrival)
  | none =>
    match d.place h 64 (fun d => d.openFor h true false) with
    | none => (0, d)
    | some (loc, d) =>
      let d := d.modHead h fun x => { x with block := some (n, loc) }
      let d := { d with fmm := { d.fmm with deltaBlocks := d.fmm.deltaBlocks.put loc n } }
      (loc, d.stage loc 64 h session arrival)

/-- Log one change of the array (R172). -/
def Dev.delta (d : Dev) (h session arrival : Nat) (set : Bool) (k ns version : Nat) (e : IdxEntry) (old : Nat) : Dev :=
  let pos := d.idx.nextPos
  let (loc, d) := d.deltaBlock h session arrival
  let u := k / 28
  { d with idx := { d.idx with
      nextPos := nextPos pos
      deltas := d.idx.deltas ++ [⟨pos, set, u, k % 28, ns, version, e, old, loc, false⟩]
      asOf := d.idx.asOf.put u pos
      dirty := if d.idx.dirty.contains u then d.idx.dirty else d.idx.dirty ++ [u] } }

/-- Adjust the entry count and the KEYS count of a namespace (R156, R171, R177). -/
def Index.adjust (x : Index) (ns : Nat) (seg up : Bool) : Index :=
  let step := fun n : Nat => if up then n + 1 else n - 1
  { x with used := step x.used, keys := if seg then x.keys else x.keys.put ns (step (x.keys.getD ns 0)) }

/-- Who changes the index: the head that carries the delta, and the command on whose account it is staged. -/
structure Author where
  head : Nat
  session : Nat
  arrival : Nat

/-- Point an entry at a new location (R167, R168); the old value becomes invalid. -/
def Dev.idxReplace (d : Dev) (a : Author) (k : Nat) (e : IdxEntry) (ns version loc : Nat) : Dev :=
  let e' := { e with loc := loc }
  let d := { d with idx := { d.idx with slots := d.idx.slots.put k e' } }
  ((d.delta a.head a.session a.arrival true k ns version e' e.loc).count (idxCnt 4)).invalidateValue e.loc

/-- The slot in which an absent input is inserted, none where both units are full (R167, R169). -/
def Dev.insertSlot (d : Dev) (p : Place) : Option Nat :=
  let n1 := (d.unitSlots p.u1).length
  let n2 := (d.unitSlots p.u2).length
  let u := if n2 < n1 then p.u2 else p.u1
  if 28 ≤ n1 ∧ 28 ≤ n2 then none else d.idx.slots.freeFrom (u * 28) 28

/-- Insert an entry (R167). -/
def Dev.idxInsert (d : Dev) (a : Author) (k ns : Nat) (e : IdxEntry) (version : Nat) : Dev :=
  let d := { d with idx := ({ d.idx with slots := d.idx.slots.put k e }).adjust ns e.seg true }
  (d.delta a.head a.session a.arrival true k ns version e 0).count (idxCnt 3)

/-- The entry limit (R156). -/
def idxLimit : Nat := 1500000000

/-- The latch of NS_KEYS_FULL ends once the count lies below the limit. -/
def Dev.keysLatch (d : Dev) : Dev :=
  if d.idx.used < idxLimit then { d with idx := { d.idx with keysFull := false } } else d

/-- Remove an entry; `version` is that of the value removed (R168, R172). -/
def Dev.idxRemove (d : Dev) (a : Author) (k ns version : Nat) : Dev :=
  match d.idx.slots.find k with
  | none => d
  | some e =>
    let d := { d with idx := ({ d.idx with slots := d.idx.slots.del k }).adjust ns e.seg false }
    ((d.delta a.head a.session a.arrival false k ns version e 0).count (idxCnt 5)).keysLatch.invalidateValue e.loc

/-- Whether one more entry for an input finds room in its pair, and the report where it does not (R169). -/
def Dev.pairFull (d : Dev) (ns : Nat) (p : Place) : Dev :=
  ((d.count (idxCnt 6)).raise (irqIdx 2)).log evPairFull (be 4 p.u1 ++ be 4 p.u2 ++ be 2 ns)

/-- Report a write refused at the key limit; the record comes once until the count has been below it (R156). -/
def Dev.keysFull (d : Dev) (ns : Nat) : Dev :=
  let d := d.raise (irqIdx 0)
  if d.idx.keysFull then d
  else ({ d with idx := { d.idx with keysFull := true } }).log evNsKeysFull (be 4 d.idx.used ++ be 2 ns)

/-! ## What the index writes byte for byte (R163, R164, R172 to R174) -/

/-- An index entry: 72 bits (R164). -/
def IdxEntry.bytes (e : IdxEntry) : Bytes := be 9 (e.sig * 2 ^ 52 + e.loc * 2 ^ 10 + b2n e.seg * 2 ^ 9 + e.tag)

/-- Bucket `b` of a unit, whose slots are listed by unit · 28 + bucket · 7 + slot (R163). -/
def bucketBytes (slots : Tab IdxEntry) (u b : Nat) : Bytes :=
  let at_ := fun (s : Nat) => slots.find (28 * u + 7 * b + s)
  be 1 ((List.range 7).map fun s => if (at_ s).isSome then 2 ^ s else 0).sum ++
    (List.range 7).flatMap fun s => match at_ s with
      | some e => e.bytes
      | none => zeros 9

/-- A unit record of a checkpoint page (R174). -/
def UnitCopy.bytes (c : UnitCopy) (u : Nat) : Bytes :=
  be 4 u ++ zeros 4 ++ be 8 c.asOf ++ (List.range 4).flatMap fun b => bucketBytes c.slots u b

/-- The PURGE field of a commit page (R181). -/
def purgeWord (p : Option (Nat × Nat)) : Nat :=
  match p with
  | some (ns, next) => 2 ^ 63 + ns * 2 ^ 32 + next % 2 ^ 26
  | none => 0

/-- A checkpoint page with a given CRC (R174). -/
def CpPage.bytesWith (p : CpPage) (crc : Nat) : Bytes :=
  let trailer := fun (kind count origin used purge : Nat) =>
    be 2 0x4350 ++ be 1 kind ++ be 1 count ++ zeros 4 ++ be 8 p.gen ++ be 8 origin ++ be 8 used ++ be 8 purge ++ zeros 20 ++ be 4 crc
  match p.commit with
  | some c =>
    padTo 16320 ((List.range 1024).flatMap fun n => be 8 (c.keys.getD n 0)) ++ trailer 1 0 c.origin c.used (purgeWord c.purge)
  | none => padTo 16320 (p.units.flatMap fun u => u.2.bytes u.1) ++ trailer 0 p.units.length 0 0 0

/-- A checkpoint page as it is programmed (R174). -/
def CpPage.bytes (p : CpPage) : Bytes := p.bytesWith (crc32c (p.bytesWith 0))

/-- Whether the bytes of a checkpoint page pass MAGIC and CRC (R177). -/
def pageSound (b : Bytes) : Bool :=
  b.length == 16384 && num b 16320 2 == 0x4350 && crc32c (b.take 16380 ++ zeros 4) == num b 16380 4

/-- A delta record (R172). -/
def Delta.bytes (r : Delta) : Bytes :=
  be 1 (if r.set then 1 else 2) ++ be 1 (r.slot / 7 * 16 + r.slot % 7) ++ be 2 r.ns ++ be 4 r.unit ++ be 8 r.version ++
    r.entry.bytes ++ be 6 r.oldLoc ++ zeros 1

/-- Delta block `n` with its records and a given CRC (R173). -/
def deltaBlockWith (n : Nat) (recs : List Delta) (crc : Nat) : Bytes :=
  be 2 0x4458 ++ be 1 recs.length ++ zeros 5 ++ be 8 n ++ zeros 12 ++ be 4 crc ++ padTo 4064 (recs.flatMap Delta.bytes)

/-- Delta block `n` as it is programmed with the records applied so far (R173). -/
def Index.blockBytes (x : Index) (n : Nat) : Bytes :=
  let recs := x.deltas.filter fun (r : Delta) => r.pos / 128 == n
  deltaBlockWith n recs (crc32c (deltaBlockWith n recs 0))

/-- Whether the bytes of delta block `n` pass their checks (R173, R177). -/
def blockSound (n : Nat) (b : Bytes) : Bool :=
  b.length == 4096 && num b 0 2 == 0x4458 && num b 8 8 == n && crc32c (b.take 28 ++ zeros 4 ++ b.drop 32) == num b 28 4

/-! ## Checkpoints (R174 to R176) -/

/-- The latest copy of each unit, the one of highest AS_OF whatever its generation, with the LOC of its page (R176, R177). -/
def latestCopies (pages : List CpPage) : Tab (Nat × UnitCopy) :=
  pages.foldl (fun t p => p.units.foldl (fun t u =>
    match t.find u.1 with
    | some (_, c) => if u.2.asOf < c.asOf then t else t.put u.1 (p.loc, u.2)
    | none => t.put u.1 (p.loc, u.2)) t) []

/-- Units whose latest copy lies in the checkpoint Bushel opened first. -/
def Dev.oldestCopies (d : Dev) : List Nat :=
  match bestBy (d.fmm.bushels.filter fun p => p.2.area == 3 && p.2.held) fun a b => a.openSeq < b.openSeq with
  | some (b, _) => ((latestCopies d.idx.pages).filter fun p => locBushel p.2.1 == b).map (·.1)
  | none => []

/-- Whether a checkpoint Bushel holds a unit's latest copy or the committed generation's commit page. -/
def Index.cpUses (x : Index) (b : Nat) : Bool :=
  ((latestCopies x.pages).any fun p => locBushel p.2.1 == b) ||
    x.pages.any fun p => p.commit.isSome && p.gen == x.committed.gen && locBushel p.loc == b

/-- The cursor of a sweep as a commit page carries it (R181). -/
def Index.cursor (x : Index) : Option (Nat × Nat) := x.sweep.map fun s => (s.ns, s.next)

/-- Release the checkpoint Bushels that hold nothing of use any more; their pages are gone (R176). -/
def Dev.cpRelease (d : Dev) : Dev :=
  let idle := d.fmm.bushels.filter fun p => p.2.area == 3 && p.2.state == .closed && !d.idx.cpUses p.1
  let gone := fun (p : CpPage) => idle.any fun b => b.1 == locBushel p.loc
  let d := { d with idx := { d.idx with pages := d.idx.pages.filter fun p => !gone p } }
  idle.foldl (fun d p => d.release p.1) d

/-- Delta blocks that fall before the replay origin become invalid (R173). -/
def Dev.dropDeltaBlocks (d : Dev) (was now : Nat) : Dev :=
  let gone := d.fmm.deltaBlocks.filter fun p => was ≤ p.2 && p.2 < now
  gone.foldl (fun d p => d.invalidate p.1 64) d

/-- Complete the group that a head's Bushel has open, with a filler, and count it as programmed (R238, R247). -/
def Dev.sealGroup (d : Dev) (b : Nat) : Dev :=
  let x := d.bushel b
  let d := d.fill b (min x.capacity (x.group * ceilDiv x.written x.group))
  let d := d.modBushel b fun x => { x with committed := x.written }
  let x' := d.bushel b
  let d := d.health 64 ((x'.committed - x.committed) / x.dies * 64 * 64)
  if x'.committed = x'.capacity ∧ (x'.state = .opened ∨ x'.state = .parked) then d.closeBushel b else d

/-- Place checkpoint pages on their head, 256 grains each; none where the area has no room. -/
def Dev.putPages : List CpPage → Dev → Option Dev
  | [], d => some d
  | p :: r, d =>
    match d.place 4 256 (fun d => d.openFor 4 true false) with
    | none => none
    | some (loc, d) => Dev.putPages r { d with idx := { d.idx with pages := d.idx.pages ++ [{ p with loc := loc }] } }

/-- Write checkpoint pages and complete their groups; none where no program may run or the area has no room (R242, R262,
R263). -/
def Dev.writePages (d : Dev) (ps : List CpPage) : Option Dev :=
  if d.channelOff.isSome ∨ d.fmm.suspended then none
  else
    (Dev.putPages ps d).map fun d' =>
      let new := d'.idx.pages.drop d.idx.pages.length
      ((new.map fun p => locBushel p.loc).eraseDups).foldl Dev.sealGroup d'

/-- The unit pages of a generation: 60 units a page, as they stand now (R174, R175). -/
def Dev.unitPages (d : Dev) (gen : Nat) (units : List Nat) : List CpPage :=
  (List.range (ceilDiv units.length 60)).map fun i =>
    { loc := 0, gen := gen, commit := none
      units := ((units.drop (60 * i)).take 60).map fun u => (u, ⟨d.idx.asOf.getD u 0, d.unitSlots u⟩) }

/-- The units of a generation that are still to be copied are copied, where a program may run (R175). -/
def Dev.cpCopy (d : Dev) : Dev :=
  match d.idx.run with
  | none => d
  | some r =>
    match d.writePages (d.unitPages r.page.gen r.units) with
    | none => d
    | some d =>
      { d with idx := { d.idx with run := some { r with units := [], copied := r.copied + r.units.length } } }

/-- Begin a checkpoint generation and copy its units (R175, R176). When the units are copied is not stated: DESIGN CHOICE
(log entry 79). -/
def Dev.cpBegin (d : Dev) : Dev :=
  let extra := if 48 - d.areaHeld 3 < 4 then d.oldestCopies else []
  let page : CommitPage :=
    { gen := d.idx.committed.gen + 1, origin := d.idx.block, used := d.idx.used, keys := d.idx.keys, purge := d.idx.cursor }
  Dev.cpCopy { d with idx := { d.idx with
      run := some ⟨page, (d.idx.dirty ++ extra).eraseDups, 0, d.cycles⟩, dirty := [] } }

/-- Commit a generation: its copies and its commit page are programmed and read back (R174, R175). -/
def Dev.cpCommit (d : Dev) (r : CpRun) : Option Dev :=
  let last : CpPage := { loc := 0, gen := r.page.gen, units := [], commit := some r.page }
  (d.writePages (d.unitPages r.page.gen r.units ++ [last])).map fun d =>
    let was := d.idx.committed.origin
    let now := r.page.origin
    let held := d.idx.heldSince
    let d := { d with idx := { d.idx with
      committed := r.page, run := none, heldSince := none
      deltas := d.idx.deltas.filter fun x => now ≤ x.pos / 128 } }
    let d := ((d.dropDeltaBlocks was now).cpRelease.count (idxCnt 7)).log evCpDone
      (be 4 r.page.gen ++ be 4 (r.copied + r.units.length) ++ be 4 ((d.cycles - r.startCycle) / 1250000))
    match held with
    | none => d
    | some since =>
      let us := (d.cycles - since) / 1250
      (d.countN (idxCnt 8) us).log evCpStall (be 4 us ++ be 4 r.page.gen)

/-! ## Loading and replay (R177 to R180) -/

/-- How the media give pages or blocks otherwise than they were written: the bytes read, or none where they stay
unreadable (R177, R179). -/
abbrev MediaReads := List (Nat × Option Bytes)

/-- The pages or blocks of a list of reads that fail their checks. -/
def failedReads (sound : Nat → Bytes → Bool) (l : MediaReads) : List Nat :=
  (l.filter fun x => !(x.2.any (sound x.1))).map (·.1)

/-- The pages or blocks of a list of reads that stay unreadable. -/
def unreadable (l : MediaReads) : List Nat := (l.filter fun x => x.2.isNone).map (·.1)

/-- Apply one delta record to the array (R177). -/
def Index.apply (x : Index) (r : Delta) : Index :=
  let x := if r.set ∧ r.oldLoc = 0 then x.adjust r.ns r.entry.seg true
    else if !r.set then x.adjust r.ns r.entry.seg false else x
  if r.pos ≤ x.asOf.getD r.unit 0 ∧ x.asOf.has r.unit then x
  else
    let k := r.unit * 28 + r.slot
    { x with slots := if r.set then x.slots.put k r.entry else x.slots.del k, asOf := x.asOf.put r.unit r.pos }

/-- What the commit page of the highest generation among some pages says (R177). -/
def lastCommit (pages : List CpPage) : CommitPage :=
  (pages.filterMap CpPage.commit).foldl (fun best c => if best.gen ≤ c.gen then c else best) ⟨0, 0, 0, [], none⟩

/-- Load the checkpoint and replay the deltas (R177): `badPages` are the LOCs of the pages and `badBlocks` the numbers of
the delta blocks that are skipped. Answers how many records were applied. -/
def Index.load (x : Index) (badPages badBlocks : List Nat) : Index × Nat :=
  let pages := x.pages.filter fun p => !badPages.contains p.loc
  let copies := latestCopies pages
  let slots := (copies.flatMap fun p => p.2.2.slots).foldl (fun (t : Tab IdxEntry) e => t.put e.1 e.2) []
  let page := lastCommit pages
  let recs := x.deltas.filter fun r => page.origin ≤ r.pos / 128 && !badBlocks.contains (r.pos / 128)
  let x := { x with slots := slots, asOf := copies.mapAll fun _ c => c.2.asOf, used := page.used, keys := page.keys,
                    pages := pages, committed := page }
  (recs.foldl Index.apply x, recs.length)

/-- Units whose only copies lay on pages that stay unreadable (R179). -/
def lostUnits (pages : List CpPage) (badPages unread : List Nat) : List Nat :=
  let kept := latestCopies (pages.filter fun p => !badPages.contains p.loc)
  ((pages.filter fun p => unread.contains p.loc).flatMap fun p => p.units.map (·.1)).eraseDups.filter fun u => !kept.has u

/-- Load the array and report what could not be read (R177, R179). Answers how many records were applied. -/
def Dev.idxLoad (d : Dev) (pages blocks : MediaReads) : Nat × Dev :=
  let badPages := failedReads (fun _ b => pageSound b) pages
  let badBlocks := failedReads blockSound blocks
  let units := lostUnits d.idx.pages badPages (unreadable pages)
  let (x, n) := d.idx.load badPages badBlocks
  let copies := latestCopies x.pages
  let stale := x.asOf.keep fun u a => (copies.find u).map (fun c => c.2.asOf) != some a
  let d := { d with
    idx := { x with state := .ready, dirty := stale.map Prod.fst }
    fmm := { d.fmm with dead := d.fmm.dead.filter fun l => !(x.slots.any fun e => e.2.loc == l) } }
  let d := units.foldl (fun d u => (d.raise (irqIdx 4)).log evCpLost (be 4 u)) d
  let d := d.countN (idxCnt 11) badBlocks.length
  let d := (unreadable blocks).foldl (fun d b => (d.raise (irqIdx 4)).log evDeltaLost (be 8 b)) d
  (n, d.raise (irqIdx 3))

/-- The load of a start, with IDX_REPLAY (R177). -/
def Dev.idxStart (d : Dev) (pages blocks : MediaReads) : Dev :=
  let (n, d) := d.idxLoad pages blocks
  d.log evReplay (be 8 d.idx.committed.origin ++ be 4 n ++ be 4 (failedReads blockSound blocks).length ++
    be 4 ((d.cycles - d.idx.began) / 1250000))

/-- Begin a rebuild of the array: `cause` is the DR domain that returns, or 255 for RESCAN (R179, R180). -/
def Dev.idxBegin (d : Dev) (state : IdxState) (cause : Nat) : Dev :=
  { d with idx := { d.idx with state := state, began := d.cycles, cause := cause } }

/-- Report a rebuild or rescan that is complete (R179, R180). -/
def Dev.idxRebuilt (d : Dev) : Dev := d.log evRebuild (be 1 d.idx.cause ++ be 4 ((d.cycles - d.idx.began) / 1250000))

/-- The values that a rescan finds among those that have not become invalid: of each key, object or segment the highest
version whose namespace stands (R179). -/
def Dev.rescanValues (d : Dev) : List (Nat × Value) :=
  let stands := fun (v : Value) => match d.nss.find v.ns with
    | some n => decide (n.createVer ≤ v.version)
    | none => false
  let all := d.fmm.values.filter fun p => p.2.kind ≤ 2 && stands p.2 && !d.fmm.dead.contains p.1
  all.filter fun p => !(all.any fun q =>
    q.2.kind == p.2.kind && q.2.ns == p.2.ns && q.2.key == p.2.key && q.2.segNo == p.2.segNo &&
      (p.2.version < q.2.version || p.2.version == q.2.version && p.1 < q.1))

/-- Put the entry of a value found by a rescan into the array; no delta is logged. -/
def Dev.rescanAdd (d : Dev) (p : Nat × Value) : Dev :=
  let seg := if p.2.kind = 2 then some p.2.segNo else none
  let pl := d.placeOf p.2.ns p.2.key seg
  match d.insertSlot pl with
  | none => d
  | some k =>
    let e : IdxEntry := ⟨pl.sig, p.1, seg.isSome, p.2.ns % 512⟩
    let x := { d.idx with slots := d.idx.slots.put k e, asOf := d.idx.asOf.put (k / 28) (d.idx.nextPos - 1) }
    { d with idx := x.adjust p.2.ns e.seg true }

/-- Rebuild the whole array from the value headers in every Bushel (R179). A generation of every unit follows, at a new
block number, so that no earlier copy or delta counts any more: DESIGN CHOICE (log entry 79). None where its pages find
no room. -/
def Dev.rescan (d : Dev) : Option Dev :=
  let d := { d with idx := { d.idx with
    slots := [], asOf := [], dirty := [], used := 0, keys := [], nextPos := 128 * (d.idx.block + 1), deltas := [], pages := [] } }
  let d := d.rescanValues.foldl Dev.rescanAdd d
  let page : CommitPage :=
    { gen := d.idx.committed.gen + 1, origin := d.idx.block, used := d.idx.used, keys := d.idx.keys, purge := d.idx.cursor }
  (d.cpCommit ⟨page, d.idx.asOf.map Prod.fst, 0, d.cycles⟩).map fun d =>
    { d with idx := { d.idx with state := .ready } }.raise (irqIdx 3)

/-! ## Removing entries in the background (R146, R154, R181, R182) -/

/-- Who removes entries in the background. -/
def backgroundAuthor : Author := ⟨0, 0xFFFF, 0⟩

/-- Whether the sweep of a namespace removes an entry: by its TAG and, where the twin ID is in use, by its header
(R181). -/
def Dev.sweeps (d : Dev) (ns : Nat) (e : IdxEntry) : Bool :=
  e.tag == ns % 512 &&
    (!d.nss.has (ns ^^^ 0x200) ||
      match d.fmm.values.find e.loc with
      | some v => v.ns == ns
      | none => false)

/-- Remove an entry for a sweep or a segment removal (R172, R181, R182). -/
def Dev.purgeEntry (d : Dev) (k ns : Nat) (e : IdxEntry) : Dev :=
  let version := match d.fmm.values.find e.loc with
    | some v => v.version
    | none => 0
  (d.idxRemove backgroundAuthor k ns version).count (idxCnt 9)

/-- Whether background removal may change the index now: the index is in use and not held, and a delta finds room (R25,
R175, R180). -/
def Dev.mayPurge (d : Dev) : Bool :=
  d.idxOff.isNone && !d.idx.held && d.headLogs backgroundAuthor.head && d.mb1Logs backgroundAuthor.head

/-- Remove some entries for a sweep while changes may be made. Answers how many were removed, and the first that is left. -/
def Dev.sweepSome (ns : Nat) : List (Nat × IdxEntry) → Nat → Dev → Nat × Option Nat × Dev
  | [], n, d => (n, none, d)
  | p :: r, n, d => if d.mayPurge then Dev.sweepSome ns r (n + 1) (d.purgeEntry p.1 ns p.2) else (n, some p.1, d)

/-- Sweep the units from `from_` to `upTo` (exclusive), as far as changes may be made. -/
def Dev.sweepUnits (d : Dev) (ns from_ upTo : Nat) : Dev :=
  let hits := d.idx.slots.filter fun p => from_ ≤ p.1 / 28 && p.1 / 28 < upTo && d.sweeps ns p.2
  let (n, left, d) := Dev.sweepSome ns hits 0 d
  let next := (left.map fun k => k / 28).getD upTo
  { d with idx := { d.idx with sweep := d.idx.sweep.map fun s => { s with next := next, removed := s.removed + n } } }

/-- The namespace whose sweep comes next: the first that entered DELETING. -/
def Dev.nextPurge (d : Dev) : Option Nat :=
  (bestByOrder (d.nss.filter fun p => p.2.state == .deleting)).map (·.1)
where
  /-- The entry of least `order`. -/
  bestByOrder (l : List (Nat × Namespace)) : Option (Nat × Namespace) :=
    match l with
    | [] => none
    | x :: r => some (r.foldl (fun best y => if y.2.order < best.2.order then y else best) x)

/-- Begin the next sweep where none runs (R154). -/
def Dev.startSweep (d : Dev) : Dev :=
  if d.idx.sweep.isSome then d
  else
    match d.nextPurge with
    | none => d
    | some ns =>
      let start := fun (n : Namespace) => { n with sweepStart := some (n.sweepStart.getD d.now) }
      { d with idx := { d.idx with sweep := some ⟨ns, 0, 0⟩ }, nss := d.nss.mod ns start }

/-- The entries of deleted objects that are still in the index: KEYS_PENDING of a namespace (R146, R157). -/
def Dev.keysPending (d : Dev) (ns : Nat) : Nat :=
  d.idx.slots.count fun _ e => e.seg &&
    match d.fmm.values.find e.loc with
    | some v => v.ns == ns && d.idx.removals.any fun r => r.ns == ns && r.key == v.key && r.createVer == v.createVer
    | none => false

end Sys2Proof.Machine
end

