-- ==== Sys2Proof/Machine/Inflate.lean ====
section
/-! DEFINITION. Inflation of an RFC 1951 stream by a DZ engine (R190, R196, R202). RFC 1951's own tables are PRESUMED
(log entry 4). -/

set_option cleanup.letToHave false

namespace Sys2Proof.Machine

/-- A stream of bits, least significant bit of each byte first. -/
abbrev BitStream := List Bool

/-- The bits of a byte string in stream order. -/
def streamOf (b : Bytes) : BitStream := b.flatMap fun x => (List.range 8).map fun i => x.getLsbD i

/-- Take `n` bits, the first the least significant. -/
def takeBits : Nat → BitStream → Option (Nat × BitStream)
  | 0, s => some (0, s)
  | _ + 1, [] => none
  | n + 1, x :: s => (takeBits n s).map fun r => (b2n x + 2 * r.1, r.2)

/-- A prefix code: pairs of length and code value with their symbol. -/
abbrev Code := List ((Nat × Nat) × Nat)

/-- The canonical code of a list of code lengths; symbols of length 0 have no code. -/
def codeOf (lens : List Nat) : Code :=
  let count := fun n => (lens.filter (· == n)).length
  let firsts := (List.range 16).foldl (fun (acc : List Nat × Nat) n =>
    let next := if n = 0 then 0 else (acc.2 + (if n = 1 then 0 else count (n - 1))) * 2
    (acc.1 ++ [next], next)) ([], 0)
  ((List.range lens.length).foldl (fun (acc : Code × List Nat) sym =>
    let n := lens.getD sym 0
    if n = 0 then acc
    else (acc.1 ++ [((n, acc.2.getD n 0), sym)], acc.2.modify n (· + 1))) ([], firsts.1)).1

/-- Whether a code assigns more codes than its lengths allow. -/
def oversubscribed (lens : List Nat) : Bool :=
  32768 < ((lens.filter fun n => 0 < n).map fun n => 2 ^ (15 - n)).sum

/-- Read one symbol; `len` and `v` are the bits taken so far. -/
def symbolAux (c : Code) : Nat → Nat → Nat → BitStream → Option (Nat × BitStream)
  | 0, _, _, _ => none
  | _ + 1, _, _, [] => none
  | fuel + 1, len, v, x :: s =>
    let key := (len + 1, 2 * v + b2n x)
    match c.find? (·.1 == key) with
    | some e => some (e.2, s)
    | none => symbolAux c fuel key.1 key.2 s

/-- Read one symbol of a code. -/
def symbol (c : Code) (s : BitStream) : Option (Nat × BitStream) := symbolAux c 15 0 0 s

/-- Base and extra bits of a length symbol. -/
def lengthOf (sym : Nat) : Option (Nat × Nat) :=
  let base := [3, 4, 5, 6, 7, 8, 9, 10, 11, 13, 15, 17, 19, 23, 27, 31, 35, 43, 51, 59, 67, 83, 99, 115, 131, 163,
    195, 227, 258]
  let extra := [0, 0, 0, 0, 0, 0, 0, 0, 1, 1, 1, 1, 2, 2, 2, 2, 3, 3, 3, 3, 4, 4, 4, 4, 5, 5, 5, 5, 0]
  match base[sym - 257]?, extra[sym - 257]? with
  | some b, some e => some (b, e)
  | _, _ => none

/-- Base and extra bits of a distance symbol. -/
def distanceOf (sym : Nat) : Option (Nat × Nat) :=
  if sym < 2 then some (sym + 1, 0)
  else if sym < 30 then some ((2 + sym % 2) * 2 ^ (sym / 2 - 1) + 1, sym / 2 - 1)
  else none

/-- Append a match to the output, which is held last byte first. -/
def copyMatch (dist : Nat) : Nat → Bytes → Bytes
  | 0, out => out
  | n + 1, out => copyMatch dist n (out.getD (dist - 1) 0 :: out)

/-- What inflation has made so far: the output held last byte first, and the matches, each as its place in the output and its
distance. -/
abbrev Made := Bytes × List (Nat × Nat)

/-- The symbols of one block; at most `fuel` symbols. -/
def blockBody (lit dst : Code) : Nat → BitStream → Made → Option (BitStream × Made)
  | 0, _, _ => none
  | fuel + 1, s, out =>
    match symbol lit s with
    | none => none
    | some (sym, s) =>
      if sym < 256 then blockBody lit dst fuel s (byte sym :: out.1, out.2)
      else if sym = 256 then some (s, out)
      else
        match lengthOf sym with
        | none => none
        | some (b, e) =>
          match takeBits e s with
          | none => none
          | some (x, s) =>
            match symbol dst s with
            | none => none
            | some (ds, s) =>
              match distanceOf ds with
              | none => none
              | some (db, de) =>
                match takeBits de s with
                | none => none
                | some (y, s) =>
                  if db + y ≤ out.1.length then
                    blockBody lit dst fuel s (copyMatch (db + y) (b + x) out.1, (out.1.length, db + y) :: out.2)
                  else none

/-- The code lengths of a dynamic block, run lengths expanded. -/
def readLens (c : Code) (total : Nat) : Nat → List Nat → BitStream → Option (List Nat × BitStream)
  | 0, _, _ => none
  | fuel + 1, l, s =>
    if l.length = total then some (l, s)
    else if total < l.length then none
    else
      match symbol c s with
      | none => none
      | some (sym, s) =>
        if sym < 16 then readLens c total fuel (l ++ [sym]) s
        else
          let n := if sym = 16 then 2 else if sym = 17 then 3 else 7
          match takeBits n s with
          | none => none
          | some (x, s) =>
            if sym = 16 then
              match l.getLast? with
              | none => none
              | some p => readLens c total fuel (l ++ List.replicate (3 + x) p) s
            else readLens c total fuel (l ++ List.replicate ((if sym = 17 then 3 else 11) + x) 0) s

/-- The codes of a dynamic block. -/
def dynamicCodes (s : BitStream) : Option (Code × Code × BitStream) := do
  let (hlit, s) ← takeBits 5 s
  let (hdist, s) ← takeBits 5 s
  let (hclen, s) ← takeBits 4 s
  let order := [16, 17, 18, 0, 8, 7, 9, 6, 10, 5, 11, 4, 12, 3, 13, 2, 14, 1, 15]
  let (cl, s) ← (List.range (hclen + 4)).foldl (fun acc i =>
    acc.bind fun p => (takeBits 3 p.2).map fun r => (p.1.set (order.getD i 0) r.1, r.2)) (some (List.replicate 19 0, s))
  if oversubscribed cl then none
  else
    let (lens, s) ← readLens (codeOf cl) (257 + hlit + hdist + 1) 400 [] s
    let lit := lens.take (257 + hlit)
    let dst := lens.drop (257 + hlit)
    if oversubscribed lit || oversubscribed dst then none else some (codeOf lit, codeOf dst, s)

/-- The fixed codes. -/
def fixedLit : List Nat :=
  List.replicate 144 8 ++ List.replicate 112 9 ++ List.replicate 24 7 ++ List.replicate 8 8

/-- A stored block (BTYPE 00), from the byte boundary on. -/
def storedBlock (s : BitStream) (out : Made) : Option (BitStream × Made) := do
  let (len, s) ← takeBits 16 (s.drop (s.length % 8))
  let (nlen, s) ← takeBits 16 s
  if len + nlen ≠ 65535 ∨ s.length < 8 * len then none
  else
    let raw := (List.range len).map fun i => match takeBits 8 (s.drop (8 * i)) with
      | some (v, _) => byte v
      | none => 0
    some (s.drop (8 * len), raw.reverse ++ out.1, out.2)

/-- A stream inflated: its bytes, its blocks as BTYPE and where each ends in the output, its matches as place and distance,
and how many bits follow the last block. -/
structure Inflated where
  bytes : Bytes
  blocks : List (Nat × Nat)
  copies : List (Nat × Nat)
  rest : Nat

/-- The blocks of a stream up to the one with BFINAL; at most `fuel` blocks of at most `total` symbols. -/
def blocks (total : Nat) : Nat → BitStream → Made → List (Nat × Nat) → Option Inflated
  | 0, _, _, _ => none
  | fuel + 1, s, out, done =>
    match takeBits 1 s with
    | none => none
    | some (final, s) =>
      match takeBits 2 s with
      | none => none
      | some (typ, s) =>
        let body : Option (BitStream × Made) :=
          if typ = 0 then storedBlock s out
          else if typ = 1 then blockBody (codeOf fixedLit) (codeOf (List.replicate 30 5)) (total + 1) s out
          else if typ = 2 then
            match dynamicCodes s with
            | none => none
            | some (lit, dst, s) => blockBody lit dst (total + 1) s out
          else none
        match body with
        | none => none
        | some (s, out) =>
          let done := done ++ [(typ, out.1.length)]
          if final = 1 then some ⟨out.1.reverse, done, out.2, s.length⟩ else blocks total fuel s out done

/-- Inflate a stream; none where it is invalid (R202). -/
def inflateAll (b : Bytes) : Option Inflated :=
  let s := streamOf b
  blocks s.length (s.length + 1) s ([], []) []

/-- The bytes of an inflated stream. -/
def inflate (b : Bytes) : Option Bytes := (inflateAll b).map Inflated.bytes

end Sys2Proof.Machine
end

