-- ==== Sys2Proof/Machine/VplOps.lean ====
section
/-! DEFINITION. Shared operations of the value pipeline: keys, the write counter, engines and lanes, sealing, and the
check of a read segment (R186 to R207, R213). -/

set_option cleanup.letToHave false

namespace Sys2Proof.Machine

/-! ## Keys (R213, R214) -/

/-- The current generation of a slot of a policy, none where the slot holds no such key. -/
def Dev.bindKey (d : Dev) (slot policy : Nat) : Option KeyGen :=
  match d.sec.slots.find slot with
  | some k => if k.policy = policy then k.gens.head? else none
  | none => none

/-- A named generation of a storage slot. -/
def Dev.bindGen (d : Dev) (slot gen : Nat) : Option KeyGen :=
  match d.sec.slots.find slot with
  | some k => if k.policy = 1 then k.gens.find? (·.gen == gen) else none
  | none => none

/-- Namespace `n`. -/
def Dev.ns (d : Dev) (n : Nat) : Option Namespace := d.nss.find n

/-! ## The write counter (R50, R198, R199) -/

/-- The last value the counter returns. -/
def wctrLast : Nat := 0xFFFFFFFFFFFFFFFE

/-- How many namespaces have ENC 1. -/
def Dev.encNamespaces (d : Dev) : Nat := d.nss.count fun _ n => n.entry.enc == 1

/-- Report that the counter is exhausted, once (R199). -/
def Dev.reportExhausted (d : Dev) : Dev :=
  if d.vpl.exhausted then d
  else (({ d with vpl := { d.vpl with exhausted := true } }).raise (irqVpl 4)).log evNonceExhausted (be 4 d.encNamespaces)

/-- Warn at a level of the counter (R199). -/
def Dev.warnCtr (d : Dev) (level v at_ : Nat) : Dev :=
  if d.vpl.warned < level ∧ at_ ≤ v then
    (({ d with vpl := { d.vpl with warned := level } }).raise (irqVpl 3)).log evNonceWarn (be 8 v)
  else d

/-- Draw one value of the device write counter, none once it is exhausted (R198, R199). -/
def Dev.drawCtr (d : Dev) : Option Nat × Dev :=
  let v := d.vpl.wctr
  if wctrLast < v then (none, d.reportExhausted)
  else
    let res := if v + 1 < d.vpl.reserved then d.vpl.reserved else d.vpl.reserved + 2 ^ 20
    let d := { d with vpl := { d.vpl with wctr := v + 1, reserved := res } }
    let d := (d.warnCtr 1 v (2 ^ 63)).warnCtr 2 v (2 ^ 64 - 2 ^ 40)
    (some v, if v = wctrLast then d.reportExhausted else d)

/-! ## Engines and lanes (R193) -/

/-- The CZ engines that a namespace type may use. -/
def Dev.czMask (d : Dev) (type : Nat) : Nat := if type = 2 then d.regF 0x50000 15 8 else d.regF 0x50000 7 0

/-- The AE lanes that serve storage. -/
def Dev.aeMask (d : Dev) : Nat := 255 - d.regF 0x50000 23 16

/-- The lowest engine of a mask that is ON and idle. -/
def Dev.idleEngine (d : Dev) (mask base : Nat) (busy : Tab EngineHold) : Option Nat :=
  (List.range 8).find? fun n => bit mask n && d.domOn (base + n) && !busy.has n

/-- Where no engine of a mask is ON: the domain of the lowest that is not. -/
def Dev.enginesOff (d : Dev) (mask base : Nat) : Option Nat :=
  if (List.range 8).any fun n => bit mask n && d.domOn (base + n) then none
  else some (base + ((List.range 8).find? fun n => bit mask n).getD 0)

/-- The CZ domain that keeps a write of a namespace from running, at dispatch and later (R193). -/
def Dev.czOff (d : Dev) (n : Namespace) : Option Nat :=
  if n.comp = 0 then none else d.enginesOff (d.czMask n.entry.type) 21

/-- The AE domain that keeps a command on a namespace from running (R193). -/
def Dev.aeOff (d : Dev) (n : Namespace) : Option Nat :=
  if n.entry.enc = 0 then none else d.enginesOff d.aeMask 37

/-- The domain that keeps every FORM 1 read from running (R202). -/
def Dev.dzOff (d : Dev) : Option Nat := d.enginesOff 255 29

/-! ## Keys bound at dispatch (R197, R213) -/

/-- The key that a write to a namespace binds. -/
def Dev.nsKey (d : Dev) (n : Namespace) : Option KeyGen :=
  if n.entry.enc = 1 then d.bindKey n.entry.keySlot 1 else none

/-- The keys that a command binds at dispatch, by namespace: those of its own and of its operations. -/
def Dev.bindKeys (d : Dev) (c : Cmd) : Tab KeyGen :=
  (c.ns :: c.locks.map LockId.ns).foldl (fun t ns =>
    match (d.ns ns).bind d.nsKey with
    | some g => t.put ns g
    | none => t) []

/-- The key that a command has bound for a namespace, while its slot still holds that generation. -/
def Dev.boundKey (d : Dev) (f : Flight) (n : Namespace) : Option KeyGen :=
  match (if n.entry.enc = 1 then f.keys.find n.entry.nsId else none) with
  | some g => if d.bindGen n.entry.keySlot g.gen = some g then some g else none
  | none => none

/-! ## Writes in the pipeline (R186 to R191, R200) -/

/-- The write that a flight runs. -/
def Flight.write (f : Flight) : Option WriteJob :=
  match f.job with
  | .write w => some w
  | _ => none

/-- The read that a flight runs. -/
def Flight.readJob (f : Flight) : Option ReadJob :=
  match f.job with
  | .read r => some r
  | _ => none

/-- Change the write that a flight runs. -/
def Dev.modWrite (d : Dev) (ctx : Nat) (g : WriteJob → WriteJob) : Dev :=
  d.modFlight ctx fun f =>
    match f.job with
    | .write w => { f with job := .write (g w) }
    | _ => f

/-- Change one segment of a write. -/
def WriteJob.modSeg (w : WriteJob) (op seg : Nat) (g : SegWork → SegWork) : WriteJob :=
  { w with ops := w.ops.modify op fun o => { o with segs := o.segs.modify seg g } }

/-- Apply new bytes to a segment's old ones. -/
def applyPatches (len : Nat) (old : Bytes) (ps : List (Nat × Bytes)) : Bytes :=
  padTo len (ps.foldl (fun b p => overlay b p.1 p.2) (padTo len old))

/-- A segment whose bytes are at hand. -/
def SegWork.ofBytes (no : Nat) (b : Bytes) : SegWork :=
  { no := no, len := b.length, base := none, patches := [], plain := b, stage := .waiting, form := 0, body := [],
    crc := crc32c b, counter := 0 }

/-- A segment whose merged bytes are at hand goes on to the engines (R144, R187). -/
def SegWork.merged (s : SegWork) (old : Bytes) : SegWork :=
  let b := applyPatches s.len old s.patches
  { s with plain := b, crc := crc32c b, stage := .waiting, base := none }

/-- The rank of a dispatched command for engines: the class it was dispatched as (R193). -/
def Dev.flightRank (d : Dev) (f : Flight) : Nat := d.cqe.rank f.cls

/-- A segment at work and what it needs: a CZ engine, an AE lane, a DZ engine (R193, R200, R201). -/
structure SegNeed where
  hold : EngineHold
  cz : Bool
  lane : Bool
  dz : Bool

/-- What the check of segment `k` of a stored value needs. -/
def Value.need (v : Value) (k : Nat) (h : EngineHold) : SegNeed :=
  ⟨h, false, v.enc, (v.segs[k]?.map fun s => s.form) == some 1⟩

/-- What a segment of a write needs at its stage: one that is read for its merge needs what its old value needs. -/
def Dev.writeNeed (d : Dev) (h : EngineHold) (o : WOp) (s : SegWork) : SegNeed :=
  match s.stage with
  | .waiting => ⟨h, true, false, false⟩
  | .unsealed => ⟨h, false, true, false⟩
  | .checking => ⟨h, false, false, s.form == 1⟩
  | .merging =>
    match d.slotOf o.ns o.key (some s.no) with
    | some (_, _, v) => v.need 0 h
    | none => ⟨h, false, false, false⟩
  | _ => ⟨h, false, false, false⟩

/-- A list with the place of each element. -/
def placed {α : Type} (l : List α) : List (Nat × α) := (List.range l.length).zip l

/-- What the segments of a dispatched command need, in segment order. -/
def Dev.segNeeds (d : Dev) (ctx : Nat) (f : Flight) : List SegNeed :=
  match f.job with
  | .write w => (Machine.placed w.ops).flatMap fun o =>
      (Machine.placed o.2.segs).map fun s => d.writeNeed ⟨ctx, o.1, s.1⟩ o.2 s.2
  | .read j => (j.segs.filter fun s => s.ready.isNone && s.stop.isNone).filterMap fun s =>
      s.src.map fun v => v.need s.idx ⟨ctx, 0, s.no⟩
  | _ => []

/-- Segments with a need, in order of service: by rank, then by order of dispatch, then by segment (R193, R206). -/
def Dev.demands (d : Dev) (want : SegNeed → Bool) : List EngineHold :=
  let all := d.cqe.flights.flatMap fun p =>
    ((d.segNeeds p.1 p.2).filter want).map fun n => (d.flightRank p.2, p.2.order, n.hold)
  (sortBy (fun a b => decide (b.1 < a.1) || (a.1 == b.1 && decide (a.2.1 ≤ b.2.1))) all).map fun x => x.2.2

/-- Whether a segment holds one of some engines. -/
def holdsOne (t : Tab EngineHold) (h : EngineHold) : Bool := t.any fun p => p.2 == h

/-- The segment of a write. -/
def Dev.segOf (d : Dev) (h : EngineHold) : Option (Flight × WOp × SegWork) :=
  match d.flight h.ctx with
  | none => none
  | some f => f.write.bind fun w => w.ops[h.op]?.bind fun o => o.segs[h.seg]?.map fun s => (f, o, s)

/-- The stage after compression: to a lane where the operation seals, else placed. -/
def afterCompress (o : WOp) : SegStage := if o.bind.isSome then .unsealed else .placed

/-- Grains of the bodies that a write has finished. -/
def WriteJob.doneGrains (w : WriteJob) : Nat :=
  (w.ops.map fun o => ((o.segs.filter fun s => s.stage == .placed).map fun s => ceilDiv s.body.length 64).sum).sum

/-- A value that is written through ends before its commit: the bodies that its head has placed become invalid grains that
no header names (R200). -/
def Dev.strand (d : Dev) (w : WriteJob) : Dev :=
  let n := w.doneGrains
  if !w.through ∨ w.phase ≠ .building ∨ n = 0 then d
  else
    let ns := (w.ops.head?.map fun o => o.ns).getD 0
    let furlong := w.ops.any fun o => o.kind == 3
    let h := if furlong then (([6, 7, 8, 9, 10, 11] : List Nat).find? fun h => (d.head h).ns == ns).getD 6 else 0
    match d.place h n (fun d => if furlong then none else d.openFor 0 false false) with
    | none => d
    | some (loc, d) => d.modBushel (locBushel loc) fun x => { x with valid := x.valid - n }

/-- The engines give up the segments that do not pass a test. -/
def Vpl.keepHolds (x : Vpl) (live : EngineHold → Bool) : Vpl :=
  let keep := fun (_ : Nat) (h : EngineHold) => live h
  { x with cz := x.cz.keep keep, dz := x.dz.keep keep, ae := x.ae.keep keep }

/-- The ends of an expiry seal's write after which CHAIN_EXPIRE is answered and the seal stays due: no room in the reserve, no
value of the counter (R199, R287). -/
def sealLater (status : Nat) : Bool := status == stChainFull || status == stNonceExhausted || status == stNoSpace

/-- A write ends before its commit: its engines' segments are abandoned (R200, R206, R207). -/
def Dev.failWrite (d : Dev) (ctx status version detail : Nat) : Dev :=
  let job := (d.flight ctx).bind Flight.write
  let segs := match job with
    | some w => (w.ops.map fun o => o.segs.length).sum
    | none => 0
  let d := match job with
    | some w => d.strand w
    | none => d
  let d := { d with vpl := d.vpl.keepHolds fun h => h.ctx != ctx, fmm := { d.fmm with waits := d.fmm.waits.del ctx } }
  let d := d.countN (vplCnt 10) segs
  match (d.flight ctx).bind fun f => f.write.bind fun w => if f.cmd.op = 0x2B ∧ sealLater status then some w.param else none with
  | some p => d.finishOk ctx 0 p []
  | none => d.finish ctx status version detail

/-- Engines and lanes abandon the segments of commands that have ended (R96, R103, R200). -/
def Dev.cleanEngines (d : Dev) : Dev :=
  { d with vpl := d.vpl.keepHolds fun h => d.cqe.flights.has h.ctx,
           fmm := { d.fmm with waits := d.fmm.waits.keep fun n _ => d.cqe.flights.has n } }

/-- Give one waiting segment to a CZ engine, or past compression where its namespace has COMP 0 (R190, R193). -/
def Dev.assignCz (d : Dev) (h : EngineHold) : Dev :=
  match d.segOf h with
  | none => d
  | some (_, o, s) =>
    match d.ns o.ns with
    | none => d
    | some n =>
      if n.comp = 0 then
        (d.modWrite h.ctx fun w => w.modSeg h.op h.seg fun s =>
          { s with form := 0, body := s.plain, stage := afterCompress o }).count (vplCnt 3)
      else
        match d.czOff n with
        | some dom => d.failWrite h.ctx stResourceOff 0 dom
        | none =>
          match d.idleEngine (d.czMask n.entry.type) 21 d.vpl.cz with
          | none => d
          | some e =>
            let d := { d with vpl := { d.vpl with cz := d.vpl.cz.put e h } }
            d.modWrite h.ctx fun w => w.modSeg h.op h.seg fun _ => { s with stage := .compressing e n.noGain n.comp n.depth }

/-- The status of a write that meets an exhausted counter (R199). -/
def exhaustedStatus (enc : Bool) : Nat := if enc then stNonceExhausted else stNoSpace

/-- The lowest idle lane takes a segment. -/
def Dev.takeLane (d : Dev) (h : EngineHold) (e : Nat) : Dev := { d with vpl := { d.vpl with ae := d.vpl.ae.put e h } }

/-- Give one segment to an AE lane: a compressed one draws its COUNTER there, one that is read is opened (R193, R194, R199,
R201). While no lane is ON a write ends; the check of a read then ends it. -/
def Dev.assignAe (d : Dev) (h : EngineHold) : Dev :=
  let seals := match d.segOf h with
    | some (_, _, s) => s.stage == .unsealed
    | none => false
  match d.flight h.ctx, d.enginesOff d.aeMask 37, d.idleEngine d.aeMask 37 d.vpl.ae with
  | none, _, _ => d
  | some _, some dom, _ => if seals then d.failWrite h.ctx stResourceOff 0 dom else d
  | some _, none, none => d
  | some _, none, some e =>
    if !seals then d.takeLane h e
    else
      match d.drawCtr with
      | (none, d) => d.failWrite h.ctx stNonceExhausted 0 0
      | (some c, d) =>
        (d.takeLane h e).modWrite h.ctx fun w => w.modSeg h.op h.seg fun s => { s with stage := .sealing e, counter := c }

/-- Give one segment that is read to a DZ engine (R193). -/
def Dev.assignDz (d : Dev) (h : EngineHold) : Dev :=
  match d.idleEngine 255 29 d.vpl.dz with
  | some e => { d with vpl := { d.vpl with dz := d.vpl.dz.put e h } }
  | none => d

/-- Waiting segments take engines and lanes (R193). A segment that is read keeps its lane and its DZ engine until it is
checked: DESIGN CHOICE (log entry 80). -/
def Dev.assign (d : Dev) : Dev :=
  let d := (d.demands fun n => n.cz).foldl Dev.assignCz d
  let d := (d.demands fun n => n.lane && !holdsOne d.vpl.ae n.hold).foldl Dev.assignAe d
  (d.demands fun n => n.dz && !holdsOne d.vpl.dz n.hold).foldl Dev.assignDz d

/-- Engines and lanes give up the segments of a read that have been checked or will not be read. -/
def Dev.holdOnly (d : Dev) (ctx : Nat) (segs : List ReadSeg) : Dev :=
  { d with vpl := d.vpl.keepHolds fun h =>
      h.ctx != ctx || segs.any fun s => s.no == h.seg && s.ready.isNone && s.stop.isNone }

/-- Whether a segment that is read may be checked: it holds what it needs, or nothing of it is ON (R201, R202). -/
def Dev.mayCheck (d : Dev) (n : SegNeed) : Bool :=
  (!n.lane || holdsOne d.vpl.ae n.hold || (d.enginesOff d.aeMask 37).isSome) &&
    (!n.dz || holdsOne d.vpl.dz n.hold || d.dzOff.isSome)

/-- L_max of a segment (R191). -/
def lMax (len noGain : Nat) : Nat := len - ceilDiv len noGain

/-! ## Building stored values (R188, R194 to R196) -/

/-- The AAD of a segment (R195). -/
def segAad (v : Value) (k form : Nat) : Bytes :=
  be 2 v.ns ++ be 1 v.kind ++ be 1 form ++ be 1 v.key.length ++ v.key ++
    be 4 (if v.kind = 2 then v.segNo else k) ++ be 8 v.valueLen ++ be 8 v.version

/-- The IV of a segment (R194). -/
def segIv (salt : Bytes) (counter : Nat) : Bytes := salt ++ be 8 counter

/-- The stored form of one segment of a value whose header is known (R194 to R196). -/
def storeSeg (v : Value) (salt : Bytes) (key : Option KeyGen) (k : Nat) (s : SegWork) : StoredSeg :=
  match key with
  | none => { counter := 0, tag := zeros 16, crc := s.crc, form := s.form, body := s.body }
  | some g =>
    let (ct, tag) := gcmSeal g.key (segIv salt s.counter) (segAad v k s.form) s.body
    { counter := s.counter, tag := tag, crc := s.crc, form := s.form, body := ct }

/-- A value with its segments stored. -/
def storeValue (v : Value) (salt : Bytes) (key : Option KeyGen) (segs : List SegWork) : Value :=
  { v with segs := (List.range segs.length).map fun k =>
      match segs[k]? with
      | some s => storeSeg v salt key k s
      | none => { counter := 0, tag := [], crc := 0, form := 0, body := [] } }

/-! ## Checking a read segment (R201, R202, R259) -/

/-- How a segment's check ends: its original bytes and the stored body, or status, DETAIL and what is reported. -/
inductive SegCheck where
  | pass (plain stored : Bytes)
  | off (domain : Nat)
  | lost (die row codeword : Nat)
  | keyLost (slot : Nat)
  | tag
  | stream
  | length
  | crc
  deriving DecidableEq, Repr

/-- Check one stored body of known form, original length and CRC (R201). -/
def checkBody (dzOff : Option Nat) (form len crc : Nat) (body : Bytes) : SegCheck :=
  if form = 1 then
    match dzOff with
    | some dom => .off dom
    | none =>
      match inflate body with
      | none => .stream
      | some p => if p.length ≠ len then .length else if crc32c p ≠ crc then .crc else .pass p body
  else if body.length ≠ len then .length
  else if crc32c body ≠ crc then .crc
  else .pass body body

/-- The bytes that a read of the media gives for a stored body. -/
def MediaRead.body (r : MediaRead) (stored : Bytes) : Option Bytes :=
  match r with
  | .altered b => some b
  | .lost _ _ _ => none
  | _ => some stored

/-- Where no DZ engine is ON, the domain that stops the inflation of a segment which holds none. -/
def Dev.dzMissing (d : Dev) (h : EngineHold) : Option Nat := if holdsOne d.vpl.dz h then none else d.dzOff

/-- The same of AE lanes. -/
def Dev.laneMissing (d : Dev) (h : EngineHold) : Option Nat :=
  if holdsOne d.vpl.ae h then none else d.enginesOff d.aeMask 37

/-- Check segment `k` of a value as the media gives it (R201, R202, R263). -/
def Dev.checkSeg (d : Dev) (h : EngineHold) (loc : Nat) (v : Value) (k : Nat) (r : MediaRead) : SegCheck :=
  match v.segs[k]? with
  | none => .length
  | some s =>
    let g := locGrain loc + v.segGrain k
    let n := ceilDiv s.body.length 64
    let chans := if d.onFlash (locOf (locBushel loc) g) n then d.channelsOf (locBushel loc) g n else []
    match (List.range 16).find? fun c => chans.contains c && !d.domOn c with
    | some c => .off c
    | none =>
      match r, r.body s.body with
      | .lost die row cw, _ => .lost die row cw
      | _, none => .length
      | _, some b =>
        if v.enc then
          match d.ns v.ns with
          | none => .keyLost 0
          | some ns =>
            match d.bindGen ns.entry.keySlot v.keyGen with
            | none => .keyLost ns.entry.keySlot
            | some key =>
              match d.laneMissing h with
              | some dom => .off dom
              | none =>
                match gcmOpen key.key (segIv ns.salt s.counter) (segAad v k s.form) b s.tag with
                | none => .tag
                | some p => checkBody (d.dzMissing h) s.form (v.segLen k) s.crc p
        else checkBody (d.dzMissing h) s.form (v.segLen k) s.crc b

/-- Status and DETAIL of a check that failed (R202). -/
def SegCheck.status (c : SegCheck) (detail : Nat) : Nat × Nat :=
  match c with
  | .pass _ _ => (stOk, 0)
  | .off dom => (stResourceOff, dom)
  | .lost _ _ _ => (stUncorrectable, detail)
  | .keyLost slot => (stKeyLost, slot)
  | _ => (stIntegrity, detail)

/-- Status and DETAIL of a merge read that failed: DETAIL is the segment's offset in its object (R144). -/
def SegCheck.mergeStatus (c : SegCheck) (seg : Nat) : Nat × Nat := ((c.status 0).1, 65536 * seg)

/-- Report a check that failed, with the segment index that the AAD has (R195, R202, R207, R259). -/
def Dev.reportCheck (d : Dev) (loc : Nat) (v : Value) (k : Nat) (c : SegCheck) : Dev :=
  let k := if v.kind = 2 then v.segNo else k
  let fail := fun (cause : Nat) =>
    ((d.count (vplCnt 8)).raise (irqVpl 1)).logLimited evCheckFail 64 fun _ =>
      be 2 v.ns ++ be 8 v.version ++ be 4 k ++ be 1 cause
  match c with
  | .tag => ((d.count (vplCnt 7)).raise (irqVpl 0)).logLimited evTagFail 64 fun _ =>
      be 2 v.ns ++ be 8 v.version ++ be 4 k ++ be 6 loc
  | .stream => fail 1
  | .length => fail 2
  | .crc => fail 3
  | .lost die row cw =>
    (((d.count (0x7101C + 0x100 * (die / 4))).health 120 1).raise (irqFmm 1)).logLimited evUncorr 64 fun _ =>
      be 2 (locBushel loc) ++ be 1 die ++ be 2 row ++ be 2 cw ++ be 6 loc
  | _ => d

/-- What a recovered read leaves behind: REFRESH, a SUSPECT block, counters (R259). -/
def Dev.noteRead (d : Dev) (b : Nat) (r : MediaRead) : Dev :=
  match r with
  | .soft die =>
    ((d.modBushel b fun x => { x with flags := x.flags ||| 8 }).count (0x71014 + 0x100 * (die / 4))).health 104 1
  | .rebuilt die row =>
    let d := d.modBushel b fun x => { x with flags := x.flags ||| 40, suspect := (die :: x.suspect).eraseDups }
    ((d.count (0x71018 + 0x100 * (die / 4))).health 112 1).logLimited evRebuildRead 64 fun _ =>
      be 2 b ++ be 1 die ++ be 2 row
  | _ => d

/-- Every read of page sets counts towards RD_COUNT; RD_COUNT past its threshold sets REFRESH (R251, R264). -/
def Dev.countReads (d : Dev) (b n : Nat) : Dev :=
  d.modBushel b fun x =>
    let rd := satAdd 0xFFFFFFFF x.rdCount n
    let beyond := (if x.mode = 1 then 32000000 else 3200000) < rd
    { x with rdCount := rd, flags := if beyond then x.flags ||| 8 else x.flags }

end Sys2Proof.Machine
end

