-- ==== Sys2Proof/Machine/WriteOps.lean ====
section
/-! DEFINITION. Commits: placing values, Furlong records and Chain records, updating the index, and the end of a write
(R17, R129, R139, R155, R167, R200, R245 to R248, R271 to R275, R281 to R289). -/

set_option cleanup.letToHave false

namespace Sys2Proof.Machine

/-- What a refused commit reports beside its status. -/
inductive Report where
  | none
  | keysFull (ns : Nat)
  | pairFull (ns : Nat) (p : Place)
  | dirFull
  | chainFull (ns : Nat)
  | exhausted
  | noRefill (ns : Nat)
  deriving DecidableEq, Repr

/-- A commit that is not made: it waits at its staging step, or the write ends with a status. `vpl` keeps the counter
values that were drawn (R198). -/
structure Fail where
  wait : Bool
  status : Nat
  detail : Nat
  report : Report
  vpl : Option Vpl

/-- A commit that waits. -/
def Fail.later : Fail := ⟨true, 0, 0, .none, none⟩

/-- A commit refused with a status and a DETAIL. -/
def Fail.with (status detail : Nat) : Fail := ⟨false, status, detail, .none, none⟩

/-- A commit that fails consumes what it has drawn of the write counter (R198). -/
def Dev.consume {α : Type} (d : Dev) (x : Except Fail α) : Except Fail α :=
  x.mapError fun f => { f with vpl := some (f.vpl.getD d.vpl) }

/-! ## Room (R155, R247, R256, R263) -/


/-- Whether `n` grains end within the group that a head has open. -/
def Dev.fitsGroup (d : Dev) (h n : Nat) : Bool :=
  match (d.head h).bushel with
  | none => false
  | some b =>
    let x := d.bushel b
    x.written + n ≤ x.group * ceilDiv x.written x.group

/-- What keeps a Hash or Extent write of `n` grains from being placed (R155, R256, R263). -/
def Dev.hotCheck (d : Dev) (n : Nat) : Option Fail :=
  match d.channelOff with
  | some c => if d.fitsGroup 0 n then none else some (Fail.with stResourceOff c)
  | none =>
    if n ≤ d.roomIn 0 then none
    else if d.fmm.floor = 3 then some (Fail.with stNoSpace 0)
    else if d.fmm.floor = 2 ∧ (d.ingestTarget).2 = 0 ∧ d.fmm.freed < n then some Fail.later
    else none

/-- Place a value on a head, staged or written through. -/
def Dev.placeValue (d : Dev) (h : Nat) (a : Author) (v : Value) (through : Bool)
    (opener : Dev → Option (Nat × Dev)) : Option (Nat × Dev) :=
  match d.place h v.grains opener with
  | none => none
  | some (loc, d) =>
    let d := { d with fmm := { d.fmm with values := d.fmm.values.put loc v } }
    some (loc, ((d.stage loc v.grains h a.session a.arrival through).countN (vplCnt 0) v.segs.length).countN (vplCnt 1)
      (v.segs.filter fun s => s.form == 1).length)

/-- How much of the grains that GC has freed a write of `n` grains on a head takes up under the 24-Bushel floor (R256). -/
def Dev.takesFreed (d : Dev) (h n : Nat) : Nat := if d.roomIn h < n ∧ d.fmm.floor = 2 then n else 0

/-- Grains freed under the floor are taken up. -/
def Dev.useFreed (d : Dev) (n : Nat) : Dev := { d with fmm := { d.fmm with freed := d.fmm.freed - n } }

/-- Place a Hash or Extent value on the hot head. -/
def Dev.placeHot (d : Dev) (a : Author) (v : Value) (through : Bool) : Except Fail (Nat × Dev) :=
  match d.hotCheck v.grains with
  | some f => .error f
  | none =>
    if !through ∧ mb1Bytes < d.stagedBytes + 64 * v.grains then .error Fail.later
    else
      let taken := d.takesFreed 0 v.grains
      match d.placeValue 0 a v through (fun d => d.openFor 0 false false) with
      | none => .error (Fail.with stNoSpace 0)
      | some (loc, d) => .ok (loc, d.useFreed taken)

/-- Place the root that a DISCARD without a rewritten segment leaves: it carries no value bytes and never ends for want of
space (R155, R256). -/
def Dev.placeRoot (d : Dev) (a : Author) (v : Value) : Except Fail (Nat × Dev) :=
  if mb1Bytes < d.stagedBytes + 64 * v.grains then .error Fail.later
  else
    match d.channelOff with
    | some c =>
      if d.fitsGroup 0 v.grains then
        match d.placeValue 0 a v false fun _ => none with
        | none => .error Fail.later
        | some r => .ok r
      else .error (Fail.with stResourceOff c)
    | none =>
      match d.placeValue 0 a v false (fun d => d.openFor 0 true false) with
      | none => .error Fail.later
      | some r => .ok r

/-- What keeps the delta of a change by a command from being staged (R17, R25, R263). -/
def Dev.deltaFail (d : Dev) (a : Author) : Option Fail :=
  if !d.mb1Logs a.head then some Fail.later
  else if d.headLogs a.head then none
  else
    match d.channelOff with
    | some c => some (Fail.with stResourceOff c)
    | none => some Fail.later

/-! ## Versions -/

/-- The version of a commit: a value of the counter (R139, R198). -/
def Dev.version (d : Dev) (enc : Bool) : Except Fail (Nat × Dev) :=
  match d.drawCtr with
  | (some v, d) => .ok (v, d)
  | (none, d) => .error ⟨false, exhaustedStatus enc, 0, .exhausted, some d.vpl⟩

/-- Note a commit in its namespace (R157). -/
def Dev.noteCommit (d : Dev) (ns version : Nat) (key : Option KeyGen) : Dev :=
  { d with nss := d.nss.mod ns fun n =>
      { n with lastVersion := max n.lastVersion version, keyGen := match key with
          | some g => g.gen
          | none => n.keyGen } }

/-! ## Hash and Extent commits (R167 to R169, R182) -/


/-- Point the index at a placed value: replace the entry of a present input, insert one for an absent input (R156,
R167, R169). -/
def Dev.point (d : Dev) (a : Author) (v : Value) (loc : Nat) : Except Fail Dev :=
  let seg := if v.kind = 2 then some v.segNo else none
  let l := d.lookup ⟨v.ns, v.key, seg, none⟩ []
  let d := d.countLook l
  match d.deltaFail a with
  | some f => .error f
  | none =>
  match l.hit with
  | some (k, e, _) => .ok (d.idxReplace a k e v.ns v.version loc)
  | none =>
    let p := d.placeOf v.ns v.key seg
    if idxLimit ≤ d.idx.used then .error ⟨false, stNoSpace, 0, .keysFull v.ns, some d.vpl⟩
    else
      match d.insertSlot p with
      | none => .error ⟨false, stNoSpace, 0, .pairFull v.ns p, some d.vpl⟩
      | some k => .ok (d.idxInsert a k v.ns ⟨p.sig, loc, seg.isSome, v.ns % 512⟩ v.version)

/-- The header of an operation's value. -/
def WOp.value (o : WOp) (version createVer segNo : Nat) : Value :=
  { kind := o.kind, ns := o.ns, key := o.key, enc := o.bind.isSome, version := version, valueLen := o.size,
    keyGen := match o.bind with
      | some g => g.gen
      | none => 0,
    createVer := createVer, segNo := segNo, segs := [] }

/-- The salt of a namespace. -/
def Dev.salt (d : Dev) (ns : Nat) : Bytes :=
  match d.ns ns with
  | some n => n.salt
  | none => []

/-- Remove the mappings of some segments of an object (R145, R172). -/
def Dev.unmap (a : Author) (ns : Nat) (key : Bytes) : List Nat → Dev → Except Fail Dev
  | [], d => .ok d
  | seg :: r, d =>
    match d.lookFor ⟨ns, key, some seg, none⟩ with
    | (none, d) => Dev.unmap a ns key r d
    | (some (k, _, v), d) =>
      match d.deltaFail a with
      | some f => .error f
      | none => Dev.unmap a ns key r (d.idxRemove a k ns v.version)

/-- Place and point one segment of an Extent object (R144, R182). -/
def Dev.commitSegment (d : Dev) (a : Author) (o : WOp) (version create : Nat) (s : SegWork) : Except Fail Dev :=
  let v := { o.value version create s.no with kind := 2, valueLen := 65536 }
  match d.placeHot a (storeValue v (d.salt o.ns) o.bind [s]) false with
  | .error f => .error f
  | .ok (loc, d) => d.point a (storeValue v (d.salt o.ns) o.bind [s]) loc

/-- Commit the segments of an Extent operation one after another. -/
def Dev.commitSegments (a : Author) (o : WOp) (version create : Nat) : List SegWork → Dev → Except Fail Dev
  | [], d => .ok d
  | s :: r, d =>
    match d.commitSegment a o version create s with
    | .error f => .error f
    | .ok d => Dev.commitSegments a o version create r d

/-- Commit a value of a Hash namespace that is staged (R200). Answers its version. -/
def Dev.commitPut (d : Dev) (a : Author) (o : WOp) : Except Fail (Nat × Dev) :=
  match d.version o.bind.isSome with
  | .error f => .error f
  | .ok (ver, d) =>
    let v := storeValue (o.value ver 0 0) (d.salt o.ns) o.bind o.segs
    match d.placeHot a v false with
    | .error f => d.consume (.error f)
    | .ok (loc, d) =>
      match d.point a v loc with
      | .error f => d.consume (.error f)
      | .ok d => .ok (ver, d.noteCommit o.ns ver o.bind)

/-- Commit a DELETE: REMOVE of the key or of the object's root, whose segments go on the purge list (R146, R168). -/
def Dev.commitDelete (d : Dev) (a : Author) (o : WOp) : Except Fail (Nat × Dev) :=
  match d.lookFor ⟨o.ns, o.key, none, none⟩ with
  | (none, _) => .error (Fail.with stNotFound 0)
  | (some (k, _, v), d) =>
    match d.deltaFail a with
    | some f => .error f
    | none =>
      match d.version o.bind.isSome with
      | .error f => .error f
      | .ok (ver, d) =>
        let d := d.idxRemove a k o.ns v.version
        let d := if v.kind = 1 then
            { d with idx := { d.idx with
                removals := d.idx.removals ++ [⟨o.ns, o.key, v.createVer, 0, ceilDiv v.valueLen 65536⟩] } }
          else d
        .ok (v.version, d.noteCommit o.ns ver none)

/-- Commit one piece of an EXTENT_WRITE or a DISCARD (R129, R143 to R145). -/
def Dev.commitExtent (d : Dev) (a : Author) (o : WOp) : Except Fail (Nat × Dev) :=
  match d.version o.bind.isSome with
  | .error f => .error f
  | .ok (ver, d) =>
    let old := d.root o.ns o.key
    let create := match old with
      | some (_, _, v) => v.createVer
      | none => ver
    let size := match old with
      | some (_, _, v) => max v.valueLen o.size
      | none => o.size
    let root := { o.value ver create 0 with kind := 1, valueLen := size }
    match (if o.op = 0x12 ∧ o.segs.isEmpty then d.placeRoot a root else d.placeHot a root false) with
    | .error f => d.consume (.error f)
    | .ok (loc, d) =>
      match d.point a root loc with
      | .error f => d.consume (.error f)
      | .ok d =>
        match Dev.commitSegments a o ver create o.segs d with
        | .error f => d.consume (.error f)
        | .ok d =>
          match Dev.unmap a o.ns o.key o.drops d with
          | .error f => d.consume (.error f)
          | .ok d => .ok (ver, d.noteCommit o.ns ver o.bind)

/-! ## Furlong commits (R248, R249, R271 to R278) -/

/-- The Bushels of a namespace's ring: those that no window pins. -/
def Dev.ring (d : Dev) (ns : Nat) : List (Nat × Bushel) :=
  d.fmm.bushels.filter fun p => p.2.ns == ns && ns != 0 && p.2.held && p.2.pin == 0

/-- What a Bushel counts against CAPACITY, in thirds (R249). -/
def Bushel.thirds (x : Bushel) : Nat := if x.mode = 1 then 1 else 3

/-- What a list of Bushels counts, in thirds. -/
def thirdsOf (l : List (Nat × Bushel)) : Nat := (l.map fun p => p.2.thirds).sum

/-- Reclaim the ring's CLOSED Bushel of lowest OPEN_SEQ (R275). -/
def Dev.reclaim (d : Dev) (ns : Nat) : Option Dev :=
  match bestBy ((d.ring ns).filter fun p => p.2.state == .closed && p.2.written ≤ p.2.committed) fun a b =>
      a.openSeq < b.openSeq with
  | none => none
  | some (b, _) => some ((d.release b).count (fmmCnt 2))

/-- Reclaim until the ring counts at most `top` thirds; at most `fuel` Bushels. -/
def Dev.reclaimTo (ns top : Nat) : Nat → Dev → Dev
  | 0, d => d
  | n + 1, d =>
    if thirdsOf (d.ring ns) ≤ top then d
    else
      match d.reclaim ns with
      | none => d
      | some d => Dev.reclaimTo ns top n d

/-- Whether a ring's next Bushel would be a refill: with those that windows pin the namespace holds its CAPACITY (R278). -/
def Dev.ringRefills (d : Dev) (ns cap : Nat) : Bool :=
  3 * cap < thirdsOf (d.fmm.bushels.filter fun p => p.2.ns == ns && p.2.held) + (if (d.ingestTarget).1 = 1 then 1 else 3)

/-- A refill is refused: FUR_NO_REFILL, once until a refill succeeds (R278). -/
def Dev.refuseRefill (d : Dev) (ns : Nat) : Dev :=
  if d.cap.noRefill.contains ns then d
  else ({ d with cap := { d.cap with noRefill := ns :: d.cap.noRefill } }).log evNoRefill
    (be 2 ns ++ be 4 (d.ring ns).length ++ be 1 d.fmm.floor)

/-- Open the next Bushel of a Furlong namespace's head (R249, R256, R275, R278). -/
def Dev.openFurlong (d : Dev) (h ns cap : Nat) : Option (Nat × Dev) :=
  let (mode, area) := d.ingestTarget
  let need := if mode = 1 then 1 else 3
  let openIt := fun (d : Dev) => if d.channelOff.isSome then none else d.openBushel h mode area ns false
  let d := Dev.reclaimTo ns (3 * cap - need) 4 d
  let viaRing := fun (d : Dev) =>
    match d.reclaim ns with
    | none => none
    | some d => openIt d
  if d.ringRefills ns cap then
    if d.fmm.floor < 2 ∧ 0 < d.freeF then openIt { d with cap := { d.cap with noRefill := d.cap.noRefill.erase ns } }
    else viaRing (d.refuseRefill ns)
  else if d.fmm.floor = 3 then viaRing d
  else openIt d

/-- Whether every Bushel that a ring holds is pinned by a window (R155). -/
def Dev.ringPinned (d : Dev) (ns : Nat) : Bool :=
  (d.fmm.bushels.any fun p => p.2.ns == ns && p.2.held) && (d.ring ns).isEmpty

/-- Whether an append of `n` grains waits under the 24-Bushel floor: it would take a new Bushel of the user pool without
reclaiming one of its ring, and GC has not freed as much (R21, R256). -/
def Dev.furlongWaits (d : Dev) (h ns cap n : Nat) : Bool :=
  let need := if (d.ingestTarget).1 = 1 then 1 else 3
  d.fmm.floor == 2 && d.roomIn h < n && (d.ingestTarget).2 == 0 && thirdsOf (d.ring ns) + need ≤ 3 * cap && d.fmm.freed < n

/-- The Furlong head for a namespace: its own, an idle one, or the one whose last append is oldest (R248). -/
def Dev.ringHead (d : Dev) (ns : Nat) : Nat :=
  let all := ([6, 7, 8, 9, 10, 11] : List Nat)
  let oldest := all.foldl (fun best h => if (d.head h).lastAppend < (d.head best).lastAppend then h else best) 6
  ((all.find? fun h => (d.head h).ns == ns).orElse fun _ =>
    all.find? fun h => (d.head h).ns == 0 || (d.head h).bushel.isNone).getD oldest

/-- A namespace takes its Furlong head: another's Bushel on it is parked, and a PARKED Bushel of the namespace resumes
(R248). -/
def Dev.furlongHead (d : Dev) (ns : Nat) : Nat × Dev :=
  let h := d.ringHead ns
  if (d.head h).ns = ns then (h, d)
  else
    let d := match (d.head h).bushel with
      | some b => (d.modBushel b fun x => { x with state := .parked }).count (fmmCnt 8)
      | none => d
    let parked := d.fmm.bushels.first fun _ x => x.ns == ns && x.state == .parked
    let d := d.modHead h fun x => { x with ns := ns, bushel := parked.map fun p => p.1, block := none }
    match parked with
    | some (b, _) => (h, d.modBushel b fun x => { x with state := .opened, head := h })
    | none => (h, d)

/-- The key of a stream. -/
def streamKey (ns stream : Nat) : Nat := ns * 2 ^ 16 + stream

/-- The key of an extent entry (R273). -/
def extentKey (b ns stream : Nat) : Nat := b * 2 ^ 26 + streamKey ns stream

/-- The limit of the stream directory (R273). -/
def extentLimit : Nat := 25165824

/-- Note a record in the stream directory (R273). -/
def Dev.noteExtent (d : Dev) (b ns stream grain time : Nat) : Dev :=
  let k := extentKey b ns stream
  let e := match d.cap.extents.find k with
    | some e => { e with last := max e.last time, first := min e.first time, count := e.count + 1 }
    | none => ⟨grain, time, time, 1⟩
  let d := { d with cap := { d.cap with extents := d.cap.extents.put k e } }
  d.modBushel b fun x => { x with firstTime := if x.firstTime = 0 then time else min x.firstTime time }

/-- Commit a Furlong record (R271 to R275). Answers its version and SEQ. -/
def Dev.commitAppend (d : Dev) (a : Author) (o : WOp) (through : Bool) : Except Fail (Nat × Nat × Nat × Dev) :=
  let stream := beVal (o.key.take 2)
  let st := d.cap.streams.getD (streamKey o.ns stream) ⟨0, 0⟩
  match d.ns o.ns with
  | none => .error (Fail.with stNsUnknown 0)
  | some n =>
    match d.version o.bind.isSome with
    | .error f => .error f
    | .ok (ver, d) =>
      let key := be 2 stream ++ be 8 o.time ++ be 4 st.next
      let v := storeValue { o.value ver 0 0 with key := key } (d.salt o.ns) o.bind o.segs
      let fail := fun (f : Fail) => Except.error { f with vpl := some d.vpl }
      if !through ∧ mb1Bytes < d.stagedBytes + 64 * v.grains then fail Fail.later
      else
        let (h, d') := d.furlongHead o.ns
        if d'.channelOff.isSome ∧ !d'.fitsGroup h v.grains then
          fail (Fail.with stResourceOff (d'.channelOff.getD 0))
        else if d'.furlongWaits h o.ns n.entry.capacity v.grains then fail Fail.later
        else
          let taken := d'.takesFreed h v.grains
          match d'.placeValue h a v through (fun d => d.openFurlong h o.ns n.entry.capacity) with
          | none =>
            let refused := d'.ringRefills o.ns n.entry.capacity && (2 ≤ d'.fmm.floor || d'.freeF == 0)
            fail { (if d'.ringPinned o.ns then Fail.with stNoSpace 0 else Fail.later) with
              report := if refused then .noRefill o.ns else .none }
          | some (loc, d') =>
            let d' := d'.useFreed taken
            let b := locBushel loc
            if !d'.cap.extents.has (extentKey b o.ns stream) ∧ extentLimit ≤ d'.cap.extents.length then
              fail ⟨false, stBusy, 5, .dirFull, none⟩
            else
              let d' := (d'.noteExtent b o.ns stream (locGrain loc) o.time).modHead h fun x => { x with lastAppend := ver }
              let d' := { d' with cap := { d'.cap with
                streams := d'.cap.streams.put (streamKey o.ns stream) ⟨o.time, (st.next + 1) % 2 ^ 32⟩ } }
              .ok (ver, st.next, loc, d'.noteCommit o.ns ver o.bind)

/-! ## Chain commits (R281 to R289) -/

/-- The last sequence of a Chain (R289). -/
def lastSeq : Nat := 0xFFFFFFFFFF

/-- The ledger of a Chain namespace. -/
def Dev.ledger (d : Dev) (ns : Nat) : Ledger := d.cap.ledgers.getD ns ⟨0, 0, 0, zeros 32, [], false, false, false⟩

/-- Replace the ledger of a Chain namespace. -/
def Dev.setLedger (d : Dev) (ns : Nat) (l : Ledger) : Dev :=
  { d with cap := { d.cap with ledgers := d.cap.ledgers.put ns l } }

/-- Grains of the Chain reserve open to entries: all but the last Bushel (R288). -/
def Dev.entryGrains (d : Dev) : Nat := (d.chainQuota - 1) * 8257536

/-- Valid grains in the Chain reserve. -/
def Dev.chainUsed (d : Dev) : Nat := ((d.fmm.bushels.filter fun p => p.2.area == 2 && p.2.held).map fun p => p.2.valid).sum

/-- CHN_LOW comes at 90 % of the space open to entries, once until occupancy has fallen below 80 % (R288). -/
def Dev.chainLevel (d : Dev) : Dev :=
  let used := 100 * d.chainUsed
  if !d.cap.chainLow ∧ 90 * d.entryGrains ≤ used ∧ 0 < d.entryGrains then
    (({ d with cap := { d.cap with chainLow := true } }).raise (irqXt 3)).log evChnLow (be 4 (ceilDiv d.chainUsed 16384))
  else if d.cap.chainLow ∧ used < 80 * d.entryGrains then { d with cap := { d.cap with chainLow := false } }
  else d

/-- A CLOSED Bushel of the reserve that holds invalid grains (R288). -/
def Dev.chainWaste (d : Dev) : Option Nat :=
  (d.fmm.bushels.first fun _ x => x.area == 2 && x.state == .closed && x.valid < x.written).map fun p => p.1

/-- Commit a Chain record (R281, R288). Answers its version. -/
def Dev.commitChain (d : Dev) (a : Author) (o : WOp) : Except Fail (Nat × Dev) :=
  let l := d.ledger o.ns
  match d.version o.bind.isSome with
  | .error f => .error f
  | .ok (ver, d) =>
    let v := storeValue { o.value ver 0 0 with key := be 8 l.next } (d.salt o.ns) o.bind o.segs
    let fail := fun (f : Fail) => Except.error { f with vpl := some d.vpl }
    if mb1Bytes < d.stagedBytes + 64 * v.grains then fail Fail.later
    else if d.channelOff.isSome ∧ !d.fitsGroup 3 v.grains then fail (Fail.with stResourceOff (d.channelOff.getD 0))
    else
      match d.placeValue 3 a v false (fun d => d.openFor 3 false (!o.sealRec)) with
      | none =>
        if d.chainWaste.isSome ∨ d.fmm.colls.any (fun p => (d.bushel p.1).area == 2) then fail { Fail.later with status := stChainFull }
        else fail ⟨false, stChainFull, 0, .chainFull o.ns, none⟩
      | some (loc, d) =>
        let body := o.record.take (o.record.length - 32)
        let l := { l with
          next := l.next + 1, lastHash := sha256 body
          recs := l.recs.put l.next ⟨loc, o.time, o.tq, o.record.length, o.sealRec, sha256 body⟩
          sealDue := l.sealDue && !o.sealRec, expiryDue := l.expiryDue && !o.sealRec }
        let d := if lastSeq < l.next then d.raise (irqXt 5) else d
        .ok (ver, ((d.setLedger o.ns l).noteCommit o.ns ver o.bind).chainLevel)

/-- Report what a refused commit reports (R156, R169, R199, R273, R288). -/
def Dev.report (d : Dev) (r : Report) : Dev :=
  match r with
  | .none => d
  | .noRefill ns => d.refuseRefill ns
  | .keysFull ns => d.keysFull ns
  | .pairFull ns p => d.pairFull ns p
  | .dirFull => (d.raise (irqXt 2)).logLimited evDirFull 1 fun n => be 4 n
  | .exhausted => d.reportExhausted
  | .chainFull ns =>
    let d := d.raise (irqXt 4)
    if d.cap.chainFull then d
    else
      let l := d.ledger ns
      let until_ := match l.recs.find l.first with
        | some r => r.time + (((d.ns ns).map fun n => n.entry.retention).getD 0) * 86400000000000 + 1000000000
        | none => 0
      ({ d with cap := { d.cap with chainFull := true } }).log evChnFull (be 2 ns ++ be 8 l.first ++ be 8 until_)

end Sys2Proof.Machine
end

