-- ==== Sys2Proof/Machine/DataOps.lean ====
section
/-! DEFINITION. The course of a dispatched write and read: cutting a value into segments, the commit, the
acknowledgement, programming, and the release of read segments (R128 to R131, R144, R186, R200 to R205, R283). -/

set_option cleanup.letToHave false

namespace Sys2Proof.Machine

/-! ## Stamps (R232, R234) -/

/-- A stamp: time, TQ byte and secure counter value; none once the counter has given its last value. -/
def Dev.stamp (d : Dev) : Option ((Nat × Nat × Nat) × Dev) :=
  let c := d.cap.sctr
  if wctrLast < c then none
  else
    let res := if c + 1 < d.cap.sctrReserved then d.cap.sctrReserved else d.cap.sctrReserved + 2 ^ 20
    some ((d.now, d.tq + 4 * b2n d.sec.time.stepped, c),
      { d with cap := { d.cap with sctr := c + 1, sctrReserved := res }
               sec := { d.sec with time := { d.sec.time with stepped := false } } })

/-! ## Building segments -/


/-- An empty operation of an opcode on a namespace and key. -/
def WOp.empty (op kind ns : Nat) (key : Bytes) (bind : Option KeyGen) (size : Nat) : WOp :=
  { op := op, kind := kind, ns := ns, key := key, bind := bind, segs := [], drops := [], size := size, version := 0,
    loc := 0, time := 0, tq := 0, sealRec := false, record := [], before := 0 }

/-- A write that has made no segment yet. -/
def WriteJob.start (ops : List WOp) (through : Bool) (pieceOff : Nat) : WriteJob :=
  { ops := ops, phase := .building, through := through, cut := 0, pieceOff := pieceOff, version := 0, param := [],
    data := [], status := stOk }

/-- Cut a whole value into segments (R186). -/
def cutValue (value : Bytes) : List SegWork :=
  (List.range (ceilDiv value.length 65536)).map fun i => SegWork.ofBytes i (slice value (65536 * i) 65536)

/-- The segments of a value that have become complete since `cut` (R186, R414). -/
def newSegs (cut valLen : Nat) (value : Bytes) : List SegWork :=
  let have_ := if valLen ≤ value.length then ceilDiv valLen 65536 else value.length / 65536
  (List.range (have_ - cut)).map fun i =>
    SegWork.ofBytes (cut + i) (slice value (65536 * (cut + i)) (min 65536 (valLen - 65536 * (cut + i))))

/-- What an Extent segment holds before an operation of a Quire: the value it is read from, none for zeros, and the
bytes that earlier operations of the Quire put over it (R128, R144). `mapped` is whether it has a mapping. -/
structure SegBase where
  mapped : Bool
  base : Option Nat
  patches : List (Nat × Bytes)

/-- What one earlier operation leaves of a segment. -/
def SegBase.after (b : SegBase) (o : WOp) (ns : Nat) (key : Bytes) (s : Nat) : SegBase :=
  if o.ns ≠ ns ∨ o.key ≠ key then b
  else if o.op = 0x03 ∨ o.drops.contains s then ⟨false, none, []⟩
  else
    match o.segs.find? (·.no == s) with
    | none => b
    | some w => if w.stage = .merging then ⟨true, w.base, w.patches⟩ else ⟨true, none, [(0, w.plain)]⟩

/-- What an Extent segment holds before an operation, after the earlier operations of the same Quire. -/
def Dev.segBase (d : Dev) (prior : List WOp) (ns : Nat) (key : Bytes) (s : Nat) : SegBase :=
  let now : SegBase :=
    match d.root ns key with
    | none => ⟨false, none, []⟩
    | some (_, _, r) =>
      match d.segment ns key s r.createVer with
      | some (_, e, _) => ⟨true, some e.loc, []⟩
      | none => ⟨false, none, []⟩
  prior.foldl (fun b o => b.after o ns key s) now

/-- A segment that new bytes cover in part (R144). -/
def SegBase.patch (b : SegBase) (s off : Nat) (bytes : Bytes) : SegWork :=
  let w : SegWork :=
    { no := s, len := 65536, base := b.base, patches := b.patches ++ [(off, bytes)], plain := [], stage := .merging,
      form := 0, body := [], crc := 0, counter := 0 }
  if b.base.isSome then w else w.merged []

/-- The operation of an EXTENT_WRITE or a DISCARD on object bytes `p` to `q` − 1 (R144, R145). -/
def Dev.extentOp (d : Dev) (prior : List WOp) (op ns : Nat) (key : Bytes) (bind : Option KeyGen) (p q : Nat)
    (bytes : Bytes) : WOp :=
  let nos := (List.range ((q - 1) / 65536 + 1 - p / 65536)).map (· + p / 65536)
  let lo := fun s => max p (65536 * s)
  let hi := fun s => min q (65536 * (s + 1))
  let whole := fun s => hi s - lo s == 65536
  let base := fun s => d.segBase prior ns key s
  if op = 0x12 then
    let part := nos.filter fun s => !whole s && (base s).mapped
    { WOp.empty op 1 ns key bind 0 with
      drops := nos.filter fun s => whole s && (base s).mapped
      segs := part.map fun s => (base s).patch s (lo s % 65536) (zeros (hi s - lo s)) }
  else
    { WOp.empty op 1 ns key bind q with
      segs := nos.map fun s =>
        let new := slice bytes (lo s - p) (hi s - lo s)
        if whole s then SegWork.ofBytes s new else (base s).patch s (lo s % 65536) new }


/-- 2 MiB, the atomic size (R129). -/
def atomicSize : Nat := 2097152

/-- Where the piece of an Extent command that begins at `p` ends (R129). -/
def pieceEnd (off len p : Nat) : Nat :=
  if len ≤ atomicSize then off + len else min (off + len) ((p / atomicSize + 1) * atomicSize)

/-- OFFSET and length of an EXTENT_WRITE or a DISCARD. -/
def Cmd.range (c : Cmd) : Nat × Nat := (num c.param 0 8, if c.op = 0x12 then num c.param 8 8 else c.valLen)

/-! ## Chain records (R281 to R284) -/

/-- The HMAC slot of the Chain tags (R282). -/
def Dev.chainSlot (d : Dev) : Nat := d.league.ticketSlot

/-- A Chain record (R281, R282). -/
def chainRecord (rtype ns cseq : Nat) (st : Nat × Nat × Nat) (prev key payload : Bytes) : Bytes :=
  let b := be 2 rtype ++ be 2 payload.length ++ be 2 ns ++ zeros 2 ++ be 8 cseq ++ be 8 st.1 ++ be 1 st.2.1 ++ zeros 7 ++
    be 8 st.2.2 ++ prev ++ payload
  b ++ hmac256 key ([0x44, 0x4B, 0x52, 0x31] ++ b)

/-- A seal record, signed by HSE (R283, R284). -/
def Dev.sealRecord (d : Dev) (ns cseq first retention cause : Nat) (st : Nat × Nat × Nat) (prev key : Bytes) (ik : Nat) :
    Bytes × Dev :=
  let head := be 8 d.ident.serial ++ be 8 first ++ be 2 retention ++ be 1 cause ++ zeros 5
  let signed := (chainRecord 2 ns cseq st prev key (head ++ zeros 64)).take 96
  let (k, d) := d.draw 32
  let (r, s) := ecdsaSign ik (sha256 ([0x44, 0x4B, 0x43, 0x31] ++ signed)) (beVal k % p256N)
  (chainRecord 2 ns cseq st prev key (head ++ be 32 r ++ be 32 s), d)

/-- Records of one Chain command as they are being made: the ledger's next sequence and last hash, and the operations
so far. -/
structure ChainRun where
  next : Nat
  last : Bytes
  ops : List WOp

/-- Add a record to a run. -/
def ChainRun.add (r : ChainRun) (ns : Nat) (bind : Option KeyGen) (st : Nat × Nat × Nat) (sealIt : Bool) (bytes : Bytes) :
    ChainRun :=
  let o := { WOp.empty 0x28 4 ns (be 8 r.next) bind bytes.length with
    segs := [SegWork.ofBytes 0 bytes], time := st.1, tq := st.2.1, sealRec := sealIt, record := bytes }
  { next := r.next + 1, last := sha256 (bytes.take (bytes.length - 32)), ops := r.ops ++ [o] }

/-- Add a seal to a run; without IK it stays due (R283). None once no stamp is left. -/
def Dev.addSeal (d : Dev) (r : ChainRun) (ns first retention cause : Nat) (bind : Option KeyGen) (key : Bytes) :
    Option (ChainRun × Dev) :=
  match d.sec.ik with
  | none => some (r, d)
  | some ik =>
    match d.stamp with
    | none => none
    | some (st, d) =>
      let (bytes, d) := d.sealRecord ns r.next first retention cause st r.last key ik
      some (r.add ns bind st true bytes, d)

/-- The seal that must come before any further record: genesis, an expiry seal or a periodic seal still due (R283,
R287). -/
def Ledger.dueCause (l : Ledger) : Option Nat :=
  if l.next = 0 then some 0 else if l.expiryDue then some 3 else if l.sealDue || l.next % 256 == 0 then some 1 else none

/-- Begin a Chain command's records: what is due comes first. -/
def Dev.chainRun (d : Dev) (l : Ledger) (ns retention : Nat) (bind : Option KeyGen) (key : Bytes) : Option (ChainRun × Dev) :=
  let r : ChainRun := ⟨l.next, l.lastHash, []⟩
  match l.dueCause with
  | none => some (r, d)
  | some c => d.addSeal r ns l.first retention c bind key

/-- Seals that follow a record: periodic at each non-zero multiple of 256, final at the last sequence (R283, R289). -/
def Dev.afterEntry (d : Dev) (r : ChainRun) (ns first retention : Nat) (bind : Option KeyGen) (key : Bytes) :
    Option (ChainRun × Dev) :=
  if r.next = lastSeq then d.addSeal r ns first retention 4 bind key
  else if r.next % 256 = 0 then d.addSeal r ns first retention 1 bind key
  else some (r, d)

/-! ## Advancing a write -/

/-- The RAW segments of a stored-form image (R203, R205); none where the image breaks its format. -/
def rawSegs (img : Bytes) : Option (Nat × List SegWork) :=
  let len := num img 4 4
  let n := num img 8 2
  let desc := fun k => slice img (16 + 8 * k) 8
  let lens := (List.range n).map fun k => num (desc k) 1 3
  let orig := fun k => min 65536 (len - 65536 * k)
  let okSeg := fun k =>
    let form := num (desc k) 0 1
    let st := lens.getD k 0
    form ≤ 1 && (form == 1 || st == orig k) && (form == 0 || (st < orig k && 0 < st))
  if img.length < 16 ∨ num img 0 4 ≠ 0x53460001 ∨ !allZero (slice img 10 6) ∨ n ≠ ceilDiv len 65536 ∨
      img.length ≠ 16 + 8 * n + lens.sum ∨ !(List.range n).all okSeg then none
  else
    some (len, (List.range n).map fun k =>
      { no := k, len := orig k, base := none, patches := [], plain := [], stage := .checking,
        form := num (desc k) 0 1, body := slice img (16 + 8 * n + (lens.take k).sum) (lens.getD k 0),
        crc := num (desc k) 4 4, counter := 0 })

/-- The key of the Chain tags, where its slot holds an HMAC key (R282). -/
def Dev.chainKey (d : Dev) : Option KeyGen := d.bindKey d.chainSlot 3

/-- Refuse a RAW PUT (R205, R207). -/
def Dev.rawRefused (d : Dev) (ns seg status : Nat) : Dev :=
  ((d.count (vplCnt 11)).raise (irqVpl 5)).log evRawRefused (be 2 ns ++ be 4 seg ++ be 2 status)

/-- The segments of a write that its bytes allow now (R186, R414). -/
def Dev.cutMore (d : Dev) (ctx : Nat) (f : Flight) (w : WriteJob) : Dev :=
  let c := f.cmd
  let setOps := fun (d : Dev) ops => d.modWrite ctx fun w => { w with ops := ops }
  match d.ns c.ns with
  | none => d
  | some n =>
    let bind := match w.ops with
      | o :: _ => o.bind
      | [] => d.boundKey f n
    if c.op = 0x02 ∧ c.raw then
      if c.whole ∧ w.cut = 0 then
        match rawSegs c.value with
        | none => (d.rawRefused c.ns 0 stMalformed).failWrite ctx stMalformed 0 2
        | some (len, segs) =>
          match (if atomicSize < len then d.channelOff else none) with
          | some dom => d.failWrite ctx stResourceOff 0 dom
          | none =>
            if 16777216 < len then d.failWrite ctx stTooLarge 0 16777216
            else d.modWrite ctx fun w =>
              { w with cut := 1, through := atomicSize < len, ops := w.ops.map fun o => { o with segs := segs, size := len } }
      else d
    else if c.op = 0x02 ∨ c.op = 0x05 ∨ c.op = 0x20 then
      let more := newSegs w.cut c.valLen c.value
      d.modWrite ctx fun w =>
        { w with cut := w.cut + more.length, ops := w.ops.map fun o => { o with segs := o.segs ++ more } }
    else if c.op = 0x10 ∨ c.op = 0x12 then
      let (off, len) := c.range
      let q := pieceEnd off len w.pieceOff
      if w.cut = 0 ∧ (c.op = 0x12 ∨ q - off ≤ c.value.length) then
        let o := d.extentOp [] c.op c.ns c.key bind w.pieceOff q (slice c.value (w.pieceOff - off) (q - w.pieceOff))
        d.modWrite ctx fun w => { w with cut := 1, ops := [o] }
      else d
    else if c.op = 0x28 then
      if c.whole ∧ w.cut = 0 then
        match d.chainKey with
        | none => d.failWrite ctx stKeyLost 0 d.chainSlot
        | some k =>
          let l := d.ledger c.ns
          let built := do
            let (r, d) ← d.chainRun l c.ns n.entry.retention bind k.key
            let (st, d) ← d.stamp
            let entry := chainRecord 1 c.ns r.next st r.last k.key c.value
            let cseq := r.next
            let (r, d) ← d.afterEntry (r.add c.ns bind st false entry) c.ns l.first n.entry.retention bind k.key
            some (r, cseq, st, d)
          match built with
          | none => d.failWrite ctx stNoSpace 0 1
          | some (r, cseq, st, d) =>
            (setOps d r.ops).modWrite ctx fun w => { w with cut := 1, param := be 8 cseq ++ be 8 st.1 }
      else d
    else d

/-- A write moves on as far as its bytes and the engines allow. -/
def Dev.advance (d : Dev) (ctx : Nat) : Dev :=
  match d.flight ctx with
  | none => d
  | some f =>
    match f.write with
    | none => d
    | some w => if w.phase = .building then (d.cutMore ctx f w).assign else d

/-- Whether every segment of a write is in place and nothing of its value is missing. -/
def WriteJob.complete (w : WriteJob) (c : Cmd) : Bool :=
  (c.whole || c.op == 0x10) && w.ops.all (fun o => o.segs.all fun s => s.stage == .placed) &&
    (if c.op = 0x10 ∨ c.op = 0x12 ∨ c.op = 0x28 ∨ (c.op = 0x02 ∧ c.raw) then w.cut == 1
     else if c.op = 0x02 ∨ c.op = 0x05 ∨ c.op = 0x20 then w.cut == ceilDiv c.valLen 65536
     else true)

/-! ## Acknowledgement (R17, R126, R129, R131, R327) -/

/-- A request record (R109). -/
def requestBytes (op flags ns timeout : Nat) (param key value : Bytes) : Bytes :=
  be 1 op ++ be 1 flags ++ be 2 ns ++ be 1 key.length ++ be 1 param.length ++ zeros 2 ++ be 4 value.length ++ be 4 timeout ++
    param ++ key ++ value

/-- A record as it is replicated: CAS_PUT becomes PUT (R327). -/
def replicaOf (op : Nat) (flags ns : Nat) (param key value : Bytes) : Bytes :=
  if op = 0x05 then requestBytes 0x02 flags ns 0 [] key value
  else if op = 0x30 then
    let subs := match subRecords (num param 0 1) 0 value with
      | .ok l => l
      | .error _ => []
    let one := fun (r : Req) =>
      let b := if r.op = 0x05 then requestBytes 0x02 r.flags r.nsField 0 [] r.key r.value
        else requestBytes r.op r.flags r.nsField 0 r.param r.key r.value
      padTo (8 * ceilDiv b.length 8) b
    requestBytes op flags ns 0 param key (subs.flatMap one)
  else requestBytes op flags ns 0 param key value

/-- Whether a finished write goes to a mirror (R327). -/
def Cmd.mirrored (c : Cmd) : Bool := bit (num c.mirror 0 1) 7

/-- Answer a write whose result is final. -/
def Dev.ackWrite (d : Dev) (ctx : Nat) (w : WriteJob) : Dev :=
  let isQuire := match d.flight ctx with
    | some f => f.cmd.op == 0x30
    | none => false
  let d := if isQuire then d.count (cqeCnt 9) else d
  let moved := (w.ops.map fun o => (o.segs.map (·.len)).sum).sum
  (d.health 48 moved).finishOk ctx w.version w.param w.data

/-- A write has met what its acknowledgement waits for on this device: it is answered, or replicated first (R327). -/
def Dev.writeDone (d : Dev) (ctx : Nat) (w : WriteJob) : Dev :=
  match d.flight ctx with
  | none => d
  | some f =>
    let c := f.cmd
    if !c.mirrored then d.ackWrite ctx w
    else if (0x20 ≤ c.op ∧ c.op < 0x30) then (d.count (lgeCnt 7)).ackWrite ctx w
    else
      let id := num c.mirror 0 1 % 64
      let msg := replicaOf c.op (2 * b2n c.fua) c.ns c.param c.key c.value
      let req := requestBytes 0x6C 0 0 0 [] [] msg
      let d := d.modWrite ctx fun _ => { w with phase := .mirroring }
      { d with lge := { d.lge with queued := d.lge.queued ++ [(.toMirror id, req, .replicate ctx id)] } }

/-! ## The commit (R128, R199, R200) -/

/-- Commit one operation. Answers its version and response parameters. -/
def Dev.commitOp (d : Dev) (a : Author) (o : WOp) : Except Fail (Nat × Bytes × Dev) :=
  if o.op = 0x03 then (d.commitDelete a o).map fun r => (r.1, [], r.2)
  else if o.op = 0x10 ∨ o.op = 0x12 then (d.commitExtent a o).map fun r => (r.1, [], r.2)
  else if o.op = 0x20 then (d.commitAppend a o false).map fun r => (r.1, be 4 r.2.1, r.2.2.2)
  else if o.kind = 4 then (d.commitChain a o).map fun r => (r.1, [], r.2)
  else (d.commitPut a o).map fun r => (r.1, [], r.2)

/-- Commit operations in index order, all or none (R128). An error carries the index of the operation. -/
def Dev.commitOps (a : Author) : Nat → List WOp → Dev → Except (Nat × Fail) (List (Nat × Bytes × WOp) × Dev)
  | _, [], d => .ok ([], d)
  | i, o :: r, d =>
    match d.consume (d.commitOp a o) with
    | .error f => .error (i, f)
    | .ok (v, p, d) =>
      match Dev.commitOps a (i + 1) r d with
      | .error e => .error e
      | .ok (l, d) => .ok ((v, p, o) :: l, d)

/-- The version that a response carries: that of the last operation which is no seal beside an entry. -/
def resultVersion (l : List (Nat × Bytes × WOp)) : Nat :=
  match (l.filter fun x => !x.2.2.sealRec).getLast? with
  | some x => x.1
  | none => match l.getLast? with
    | some x => x.1
    | none => 0

/-- The reserve's collection that a waiting Chain record needs (R288). -/
def Dev.chainColl (d : Dev) : Dev :=
  match d.chainWaste with
  | some b => if d.copiesRun && !d.gcRuns then d.startColl b .gc else d
  | none => d

/-- A commit that failed: it waits at its staging step, or its write ends (R199, R256); a CHAIN_EXPIRE whose seal finds no
room is answered, and the seal stays due (R287). -/
def Dev.commitFailed (d : Dev) (ctx i : Nat) (quire : Bool) (f : Fail) : Dev :=
  let full := f.status = stChainFull
  if f.wait ∧ !(full ∧ (d.flight ctx).any fun x => x.cmd.op == 0x2B) then
    let d := if full then d.chainColl else d.report f.report
    { d with fmm := { d.fmm with waits := if d.fmm.waits.has ctx then d.fmm.waits else d.fmm.waits.put ctx d.cycles } }
  else
    let d := match f.vpl with
      | some v => { d with vpl := { d.vpl with wctr := v.wctr, reserved := v.reserved, warned := v.warned } }
      | none => d
    let d := if f.wait then d.chainColl else (d.report f.report).countN (cqeCnt 10) (b2n quire)
    d.failWrite ctx f.status 0 (if quire then i else f.detail)

/-- The time that a write waited at its staging step under a floor (R256, R269). -/
def Dev.endWait (d : Dev) (ctx : Nat) : Dev :=
  match d.fmm.waits.find ctx with
  | none => d
  | some since => ({ d with fmm := { d.fmm with waits := d.fmm.waits.del ctx } }).countN (fmmCnt 9) ((d.cycles - since) / 1250)

/-- Place a value that is written through: version, tags and header; the index follows once it is on flash (R129,
R200). -/
def Dev.placeThrough (d : Dev) (a : Author) (o : WOp) : Except Fail (WOp × Bytes × Dev) :=
  if o.op = 0x20 then
    let before := (d.cap.streams.getD (streamKey o.ns (beVal (o.key.take 2))) ⟨0, 0⟩).last
    (d.commitAppend a o true).map fun r => ({ o with version := r.1, loc := r.2.2.1, before := before }, be 4 r.2.1, r.2.2.2)
  else
    match d.version o.bind.isSome with
    | .error f => .error f
    | .ok (ver, d) =>
      let v := storeValue (o.value ver 0 0) (d.salt o.ns) o.bind o.segs
      match d.placeHot a v true with
      | .error f => .error { f with vpl := some d.vpl }
      | .ok (loc, d) => .ok ({ o with version := ver, loc := loc }, [], d)

/-- Entries of a Quire's response (R128). -/
def quireEntries (l : List (Nat × Bytes × WOp)) : Bytes := l.flatMap fun x => zeros 8 ++ be 8 x.1

/-- The commit of a write whose bodies are all in place: STAGING_COMPLETE's own effect (R17, R129, R167, R200). -/
def Dev.commit (d : Dev) (ctx : Nat) (f : Flight) (w : WriteJob) : Dev :=
  let c := f.cmd
  let a : Author := ⟨0, c.session, ctx⟩
  let quire := c.op == 0x30
  if w.through then
    match w.ops with
    | o :: _ =>
      match d.placeThrough a o with
      | .error e => d.commitFailed ctx 0 false e
      | .ok (o, param, d) =>
        (d.endWait ctx).modWrite ctx fun w => { w with ops := [o], phase := .programming, version := o.version, param := param }
    | [] => d
  else
    match Dev.commitOps a 0 w.ops d with
    | .error (i, e) => d.commitFailed ctx i quire e
    | .ok (l, d) =>
      let d := { (d.endWait ctx) with cap := { d.cap with chainFull := d.cap.chainFull && c.op != 0x28 } }
      let param := match l with
        | [(_, p, _)] => if p.isEmpty then w.param else p
        | _ => w.param
      let w := { w with version := if quire then 0 else resultVersion l, param := param, data := if quire then quireEntries l else [] }
      let (off, len) := c.range
      let q := pieceEnd off len w.pieceOff
      if (c.op = 0x10 ∨ c.op = 0x12) ∧ q < off + len then
        (d.modWrite ctx fun _ => { w with cut := 0, pieceOff := q, ops := [{ WOp.empty c.op 1 c.ns c.key
          ((w.ops.head?.bind fun o => o.bind)) 0 with size := 0 }] }).advance ctx
      else if c.fua then d.modWrite ctx fun _ => { w with phase := .programming }
      else d.writeDone ctx w

/-- Whether every grain that a command staged has been programmed (R130). -/
def Dev.programmed (d : Dev) (ctx : Nat) : Bool := d.fmm.staged.all fun s => s.arrival != ctx

/-- The index follows a value that was written through, and its write is answered (R129, R175, R180). -/
def Dev.pointThrough (d : Dev) (ctx : Nat) (f : Flight) (w : WriteJob) : Dev :=
  match w.ops with
  | o :: _ =>
    if o.kind = 3 then d.writeDone ctx w
    else
      match d.fmm.values.find o.loc, d.idxOff with
      | none, _ => d.writeDone ctx w
      | some _, some dom => (d.invalidateValue o.loc).failWrite ctx stResourceOff 0 dom
      | some v, none =>
        if d.idx.held then d.holdIndex
        else
        match d.point ⟨0, f.cmd.session, ctx⟩ v o.loc with
        | .error e => if e.wait then d else (d.invalidateValue o.loc).commitFailed ctx 0 false e
        | .ok d =>
          let d := d.noteCommit o.ns o.version o.bind
          let w := { w with through := false, ops := [o] }
          if f.cmd.fua then d.modWrite ctx fun _ => w else d.writeDone ctx w
  | [] => d

/-- Writes that waited for their programs go on; each in order of dispatch. -/
def Dev.programsDone (d : Dev) : Dev :=
  d.cqe.flights.foldl (fun d p =>
    match d.flight p.1 with
    | none => d
    | some f =>
      match f.write with
      | none => d
      | some w =>
        if w.phase = .programming ∧ d.programmed p.1 then
          if w.through then d.pointThrough p.1 f w else d.writeDone p.1 w
        else d) d

/-- Whether a FLUSH has nothing left to wait for: every write of its session that arrived before it has ended, and what
those writes staged is programmed (R130). -/
def Dev.flushReady (d : Dev) (ctx session : Nat) : Bool :=
  let earlier := fun (n : Nat) (c : Cmd) => n < ctx && c.session == session && c.isWrite
  !(d.cqe.queued.any fun p => earlier p.1 p.2) && !(d.cqe.flights.any fun p => earlier p.1 p.2.cmd) &&
    d.fmm.staged.all fun s => !(s.session == session && s.arrival < ctx)

/-- FLUSHes that have nothing left to wait for complete (R130, R134); `remote` are sessions of FLUSHes that still await
members (R326). -/
def Dev.flushesDone (d : Dev) : Dev :=
  d.cqe.flights.foldl (fun (d : Dev) (p : Nat × Flight) =>
    let waiting := d.lge.calls.any fun c => match c.kind with
      | .flush ctx _ => ctx == p.1
      | _ => false
    let unsent := d.lge.queued.any fun c => match c.2.2 with
      | .flush ctx _ => ctx == p.1
      | _ => false
    if p.2.job = .flush ∧ !waiting ∧ !unsent ∧ d.flushReady p.1 p.2.cmd.session then
      (d.count (cqeCnt 11)).finishOk p.1 0 [] []
    else d) d

/-! ## Releasing a read (R110, R201, R202, R204) -/


/-- The response header of a read. -/
def ReadJob.header (r : ReadJob) (op : Nat) : Bytes := response op stOk (r.flags ||| 2 ||| b2n r.raw) r.total r.version 0 r.param []

/-- Send bytes of a read's response, with the header first. -/
def Dev.sendRead (d : Dev) (ctx : Nat) (f : Flight) (r : ReadJob) (bytes : Bytes) (last : Bool) : Dev :=
  let c := f.cmd
  let d := if f.dead then d
    else if r.sent then d.extendMessage c.session c.queue c.tag bytes last
    else
      let msg := r.header c.op ++ bytes
      let d := d.modSess c.session fun s => { s with tags := if last then s.tags.erase c.tag else s.tags }
      if last then d.sendMessage c.session c.queue c.tag msg else d.openMessage c.session c.queue c.tag msg
  d.modFlight ctx fun f => { f with job := .read { r with sent := true } }

/-- The end of a read: its trailer, then its context, its identities and its engines are given up. -/
def Dev.endRead (d : Dev) (ctx : Nat) (f : Flight) (r : ReadJob) (status detail : Nat) : Dev :=
  let d := (d.countStatus status).sendRead ctx f r (trailer status r.delivered detail) true
  let d := d.modSess f.cmd.session fun s => { s with tags := s.tags.erase f.cmd.tag }
  { d with cqe := { d.cqe with flights := d.cqe.flights.del ctx } }.cleanEngines

/-- A read fails: in header form before its first released byte, in trailer form after it (R202). -/
def Dev.failRead (d : Dev) (ctx : Nat) (status detail : Nat) : Dev :=
  match d.flight ctx with
  | none => d
  | some f =>
    match f.readJob with
    | none => d.finish ctx status 0 detail
    | some r => if r.sent then d.endRead ctx f r status detail else (d.finish ctx status 0 detail).cleanEngines

/-- The segments at the front of a read that have passed, and the others. -/
def readyFront : List ReadSeg → Bytes × Nat × List ReadSeg
  | [] => ([], 0, [])
  | s :: r =>
    match s.ready with
    | none => ([], 0, s :: r)
    | some b =>
      let (bytes, n, rest) := readyFront r
      (s.pre ++ b ++ s.post ++ bytes, n + b2n s.src.isSome, rest)

/-- The end of a read whose front segment has failed (R202). -/
def frontStop (l : List ReadSeg) : Option (Nat × Nat) :=
  match l with
  | s :: _ => s.stop
  | [] => none

/-- Release what may be released, in segment order (R202). -/
def Dev.releaseRead (d : Dev) (ctx : Nat) : Dev :=
  match d.flight ctx with
  | none => d
  | some f =>
    match f.readJob with
    | none => d
    | some r =>
      let (bytes, n, rest) := readyFront r.segs
      let r' := { r with segs := rest, delivered := r.delivered + bytes.length }
      let d := (d.countN (vplCnt 5) n).health 56 bytes.length
      let d := if bytes.isEmpty then d.modFlight ctx fun f => { f with job := .read r' }
        else d.sendRead ctx f r' bytes false
      let sent := r.sent || !bytes.isEmpty
      if rest.isEmpty then d.endRead ctx f { r' with sent := sent } stOk 0
      else
        match frontStop rest with
        | some (status, detail) => d.failRead ctx status detail
        | none => d

/-- The segments of a read numbered in their order. -/
def numbered (l : List ReadSeg) : List ReadSeg := (List.range l.length).zip l |>.map fun p => { p.2 with no := p.1 }

/-- Begin a read: its segments take lanes and engines in order of service (R193, R201). -/
def Dev.startRead (d : Dev) (ctx : Nat) (r : ReadJob) : Dev :=
  ((d.modFlight ctx fun f => { f with job := .read { r with segs := numbered r.segs } }).assign).releaseRead ctx

/-- The segments of a value that overlap bytes `lo` to `hi` − 1, for release (R201). -/
def readSegs (loc : Nat) (v : Value) (lo hi : Nat) : List ReadSeg :=
  if hi ≤ lo then []
  else
    (List.range ((hi - 1) / 65536 + 1 - lo / 65536)).map fun i =>
      let k := lo / 65536 + i
      let a := max lo (65536 * k) - 65536 * k
      let b := min hi (65536 * (k + 1)) - 65536 * k
      { no := 0, loc := loc, src := some v, idx := k, off := a, len := b - a, pre := [], post := [], detail := 65536 * k,
        ready := none, stop := none }

end Sys2Proof.Machine
end

