-- ==== Sys2Proof/Machine/MediaOps.lean ====
section
/-! DEFINITION. Shared operations of the media manager: programmed groups, windows and pins, collections, failures and
patrol (R238, R247, R252 to R266, R276 to R280). -/

set_option cleanup.letToHave false

namespace Sys2Proof.Machine

/-! ## Windows and pins (R276 to R280) -/

/-- Whether an extent entry lies across a span. -/
def Extent.meets (e : Extent) (start stop : Nat) : Bool := start ≤ e.last && e.first ≤ stop

/-- The Bushels that hold a record of a span, by their extent entries (R278). -/
def Dev.spanBushels (d : Dev) (start stop : Nat) : List Nat :=
  ((d.cap.extents.filter fun p => p.2.meets start stop).map fun p => p.1 / 2 ^ 26).eraseDups

/-- Pin a Bushel by a window. -/
def Dev.pinBy (d : Dev) (w b : Nat) : Dev := d.modBushel b fun x => { x with pin := x.pin ||| 2 ^ w }

/-- Pin every Bushel that a window's span touches (R278). -/
def Dev.pinWindow (d : Dev) (w : Nat) : Dev :=
  match d.cap.windows.find w with
  | none => d
  | some x => (d.spanBushels x.start x.stop).foldl (fun d b => d.pinBy w b) d

/-- Pin one Bushel by every window whose span it holds a record of (R278, R280). -/
def Dev.pinBushel (d : Dev) (b : Nat) : Dev :=
  d.cap.windows.foldl (fun (d : Dev) (p : Nat × Window) =>
    if (d.spanBushels p.2.start p.2.stop).contains b then d.pinBy p.1 b else d) d

/-- The lowest FREE window. -/
def Dev.freeWindow (d : Dev) : Option Nat :=
  match d.cap.windows.freeFrom 0 17 with
  | some w => if w < 16 then some w else none
  | none => none

/-- Put a window into the table; the table's write is due (R280). -/
def Dev.putWindow (d : Dev) (w : Nat) (x : Window) : Dev :=
  ({ d with cap := { d.cap with windows := d.cap.windows.put w x, windowDirty := true } }).pinWindow w

/-- How many Bushels a window pins. -/
def Dev.pinned (d : Dev) (w : Nat) : Nat := d.fmm.bushels.count fun _ x => bit x.pin w

/-- Release a window: its pins go, and every ring that then counts more than its CAPACITY is reclaimed (R279). Answers
how many Bushels returned to their rings. -/
def Dev.freeWindowPins (d : Dev) (w : Nat) : Nat × Dev :=
  let hit := d.fmm.bushels.filter fun p => bit p.2.pin w
  let back := hit.filter fun p => p.2.pin == 2 ^ w
  let d := hit.foldl (fun (d : Dev) p => d.modBushel p.1 fun x => { x with pin := x.pin &&& (65535 - 2 ^ w) }) d
  let d := { d with cap := { d.cap with windows := d.cap.windows.del w, windowDirty := true } }
  let rings := (back.map fun p => p.2.ns).eraseDups
  (back.length, rings.foldl (fun (d : Dev) ns =>
    match d.ns ns with
    | some n => Dev.reclaimTo ns (3 * n.entry.capacity) 8192 d
    | none => d) d)

/-! ## Programmed groups (R238, R247) -/

/-- Where each stream stands by the records of a Bushel that are on flash (R272). -/
def Dev.keepStreams (d : Dev) (b : Nat) : Dev :=
  let c := (d.bushel b).committed
  let mine := d.fmm.values.filter fun p => locBushel p.1 == b && p.2.kind == 3 && locGrain p.1 + p.2.grains ≤ c
  let add := fun (t : Tab Stream) (p : Nat × Value) =>
    let k := p.2.ns * 2 ^ 16 + num p.2.key 0 2
    let next := (num p.2.key 10 4 + 1) % 2 ^ 32
    match t.find k with
    | some s => if (next + 2 ^ 32 - s.next) % 2 ^ 32 < 2 ^ 31 then t.put k ⟨num p.2.key 2 8, next⟩ else t
    | none => t.put k ⟨num p.2.key 2 8, next⟩
  { d with cap := { d.cap with streamsKept := mine.foldl add d.cap.streamsKept } }

/-- What follows once a Bushel's committed end has moved: data leaves MB1, delta records are kept, windows pin (R57,
R173, R278). -/
def Dev.settle (d : Dev) (b : Nat) : Dev :=
  let c := (d.bushel b).committed
  let done := fun (loc n : Nat) => locBushel loc == b && locGrain loc + n ≤ c
  let d := { d with
    fmm := { d.fmm with staged := d.fmm.staged.filter fun (s : Staged) => !done s.loc s.grains }
    idx := { d.idx with deltas := d.idx.deltas.map fun (r : Delta) => if done r.block 64 then { r with kept := true } else r } }
  let d := if (d.bushel b).area = 2 then
      { d with cap := { d.cap with ledgers := d.cap.ledgers.mapAll fun _ l => { l with keptFirst := l.first } } }
    else d
  let d := d.keepStreams b
  { d.pinBushel b with pins := { d.pins with act1 := true } }

/-- The head whose staged data is oldest. -/
def Dev.oldestHead (d : Dev) : Option Nat := d.fmm.staged.head?.map fun s => s.head

/-- Whether a FLUSH or an FUA write awaits data of a Bushel (R247). -/
def Dev.awaited (d : Dev) (b : Nat) : Bool :=
  let staged := d.fmm.staged.filter fun s => locBushel s.loc == b
  d.cqe.flights.any fun p =>
    match p.2.job with
    | .flush => staged.any fun s => s.session == p.2.cmd.session && s.arrival < p.1
    | .write w => w.phase == .programming && staged.any fun s => s.arrival == p.1
    | _ => false

/-- Whether a partial group of a Bushel is committed now (R247). -/
def Dev.partialDue (d : Dev) (b : Nat) : Bool :=
  d.awaited b ||
    (12 * 1048576 < d.stagedBytes && (d.fmm.staged.head?.map fun s => locBushel s.loc) == some b)

/-- Count a programmed group (R267): 64 KiB on each of 64 dies a row. -/
def Dev.countProgram (d : Dev) (x : Bushel) (grains : Nat) : Dev := d.health 64 (grains / x.rowGrains * 64 * 65536)

/-- The next program group of a Bushel has been programmed on every die; `close` it after its last (R238, R252). -/
def Dev.groupDone (d : Dev) (b : Nat) : Dev :=
  let x := d.bushel b
  let top := min x.capacity (x.committed + x.group)
  let d := d.fill b top
  let d := (d.modBushel b fun x => { x with committed := top }).countProgram x (top - x.committed)
  let d := d.settle b
  let x := d.bushel b
  let d := if x.committed = x.capacity ∧ x.state = .opened then d.closeBushel b else d
  (d.maybeRelease b).programsDone.flushesDone.nextColl

/-- Whether the next group of a Bushel may be committed: its group is full or due, channels are ON and nothing is
suspended (R247, R262, R263). -/
def Dev.groupReady (d : Dev) (b : Nat) : Bool :=
  let x := d.bushel b
  x.held && x.committed < x.written && d.channelOff.isNone && !d.fmm.suspended &&
    (x.committed + x.group ≤ x.written || d.partialDue b)

/-! ## Collections (R250, R252 to R255, R258, R260, R264, R268) -/

/-- Whether an item of a victim is valid (R255). -/
def Dev.validValue (d : Dev) (loc : Nat) (v : Value) : Bool :=
  if v.kind ≤ 2 then (d.slotAt loc).isSome
  else if v.kind = 4 then
    match (d.ledger v.ns).recs.find (beVal v.key) with
    | some r => r.loc == loc && (d.ledger v.ns).first ≤ beVal v.key
    | none => false
  else d.nss.has v.ns

/-- Valid grains of a Bushel, from its items (R251). -/
def Dev.walkValid (d : Dev) (b : Nat) : Nat :=
  ((d.fmm.values.filter fun p => locBushel p.1 == b && d.validValue p.1 p.2).map fun p => p.2.grains).sum +
    64 * d.fmm.deltaBlocks.count fun loc n => locBushel loc == b && d.idx.committed.origin ≤ n

/-- Move a valid value to another location on a head (R168, R255). -/
def Dev.moveValue (d : Dev) (h : Nat) (a : Author) (opener : Dev → Option (Nat × Dev)) (loc : Nat) (v : Value) :
    Option (Nat × Dev) :=
  match d.place h v.grains opener with
  | none => none
  | some (new, d) =>
    let d := { d with fmm := { d.fmm with values := d.fmm.values.put new v } }
    if v.kind ≤ 2 then
      match d.slotAt loc with
      | some (k, e) => if d.headLogs a.head then some (new, d.idxReplace a k e v.ns v.version new) else none
      | none => some (new, d)
    else if v.kind = 4 then
      let l := d.ledger v.ns
      some (new, (d.setLedger v.ns { l with recs := l.recs.mod (beVal v.key) fun r => { r with loc := new } }).invalidate
        loc v.grains)
    else
      some (new, (d.noteExtent (locBushel new) v.ns (beVal (v.key.take 2)) (locGrain new) (num v.key 2 8)).invalidate
        loc v.grains)

/-- Whether a Bushel was closed longer ago than A_REF (R245). -/
def Dev.isOld (d : Dev) (x : Bushel) : Bool := (d.gcWeights).2.2.2 * 1000000000 < d.now - x.closeTime

/-- The head that takes the copies of a collection, but for those of a ring (R245, R255). -/
def Dev.copyHead (d : Dev) (k : CollKind) (x : Bushel) : Nat :=
  if x.area = 2 then 3
  else
    match k with
    | .gc => 2
    | .refresh cause => if cause ≠ 3 ∧ d.isOld x then 1 else 2
    | .fold => 1
    | .wear _ => 1

/-- How the copies of a ring's Bushel open their next one, within the area's quota: TLC for a fold, else of the victim's
mode where it has room (R242, R250, R260). -/
def Dev.ringOpen (k : CollKind) (x : Bushel) (h : Nat) (d : Dev) : Option (Nat × Dev) :=
  let pslc := x.mode == 1 && k != .fold
  if pslc && d.areaRoom 1 then d.openBushel h 1 1 x.ns false
  else if d.areaRoom 0 then d.openBushel h (b2n (pslc && d.regF 0x70000 1 0 == 2)) 0 x.ns false
  else none

/-- The Bushel of the ring that takes copies of a victim: an OPEN or PARKED one, TLC for a fold; none for a pinned victim,
whose copies go to a Bushel of their own. DESIGN CHOICE (log entry 81). -/
def Dev.ringTarget (d : Dev) (k : CollKind) (x : Bushel) : Option Nat :=
  if x.pin ≠ 0 then none
  else
    (d.fmm.bushels.first fun _ y => y.ns == x.ns && (y.state == .opened || y.state == .parked) &&
      (k != .fold || y.mode == 0)).map (·.1)

/-- Before its copies a ring's Furlong head takes their Bushel. -/
def Dev.ringBegin (d : Dev) (k : CollKind) (x : Bushel) : Dev :=
  d.modHead (d.ringHead x.ns) fun h => { h with bushel := d.ringTarget k x, block := none }

/-- After the copies the head has its own Bushel again: theirs is closed where the victim was pinned, stays with the head
where that is the ring's and had no other, and is PARKED else. `was` is the device before. -/
def Dev.ringEnd (d was : Dev) (k : CollKind) (x : Bushel) : Dev :=
  let h := was.ringHead x.ns
  let old := was.head h
  let stays := old.ns == x.ns && (old.bushel.isNone || old.bushel == was.ringTarget k x)
  let t := (d.head h).bushel
  let d := match t with
    | none => d
    | some b =>
      if x.pin ≠ 0 then d.closeBushel b
      else if stays then d.modBushel b fun y => { y with state := .opened, head := h }
      else d.modBushel b fun y => { y with state := .parked }
  if stays && x.pin == 0 then d
  else d.modHead h fun _ => { old with bushel := if (old.bushel.map fun b => (d.bushel b).state) == some .opened then old.bushel else none }

/-- Move the valid ones of some items in grain order (R255). Answers how many grains were moved; none where the head finds no
room. -/
def Dev.moveItems (h : Nat) (opener : Dev → Option (Nat × Dev)) : List (Nat × Value) → Nat → Dev → Option (Nat × Dev)
  | [], n, d => some (n, d)
  | (loc, v) :: r, n, d =>
    if !d.validValue loc v then Dev.moveItems h opener r n d
    else
      match d.moveValue h ⟨if h ≤ 2 then h else 2, 0xFFFF, 0⟩ opener loc v with
      | none => none
      | some (_, d) => Dev.moveItems h opener r (n + v.grains) d

/-- Copy some delta blocks that replay still needs (R173, R255); none where the GC destination finds no room. -/
def Dev.moveBlocks : List (Nat × Nat) → Dev → Option Dev
  | [], d => some d
  | p :: r, d =>
    match d.place 2 64 (fun d => d.openFor 2 true false) with
    | none => none
    | some (new, d) =>
      Dev.moveBlocks r { d with
        fmm := { d.fmm with deltaBlocks := d.fmm.deltaBlocks.put new p.2 }
        idx := { d.idx with deltas := d.idx.deltas.map fun (r : Delta) => if r.block = p.1 then { r with block := new } else r } }

/-- Rewrite the pages of a checkpoint Bushel in their own area (R264); none where it has no room. -/
def Dev.moveCopies (d : Dev) (b : Nat) : Option Dev :=
  let mine := d.idx.pages.filter fun p => locBushel p.loc == b
  Dev.putPages mine { d with idx := { d.idx with pages := d.idx.pages.filter fun p => locBushel p.loc != b } }

/-- Every Bushel that has taken copies since `was` completes its group, and takes over the pins of the victim (R255, R260,
R268). -/
def Dev.sealCopies (d was : Dev) (pins : Nat) : Dev :=
  let hit := d.fmm.bushels.filter fun p =>
    p.2.held && p.2.committed < p.2.written && (p.2.openSeq != (was.bushel p.1).openSeq || p.2.written != (was.bushel p.1).written)
  hit.foldl (fun (d : Dev) p =>
    ((d.sealGroup p.1).settle p.1).modBushel p.1 fun x => { x with pin := x.pin ||| pins }) d

/-- Count a completed collection (R250, R267, R269). -/
def Dev.countColl (d : Dev) (b : Nat) (k : CollKind) (grains : Nat) : Dev :=
  match k with
  | .gc => (d.count (fmmCnt 1)).health 72 (64 * grains)
  | .fold =>
    let d := (d.count (fmmCnt 3)).health 80 (64 * grains)
    { d with fmm := { d.fmm with fold := d.fmm.fold.map fun f => { f with count := f.count + 1, bytes := f.bytes + 64 * grains } } }
  | .wear _ => (d.count (fmmCnt 4)).health 72 (64 * grains)
  | .refresh cause =>
    (((d.count (fmmCnt 5)).health 72 (64 * grains)).health 136 1).log evRefresh (be 2 b ++ be 1 cause ++ be 4 grains)

/-- The grain at which a collection stops: an item that cannot be read (R255, R260). -/
def Dev.stopsAt (d : Dev) (b : Nat) (bad : Option Nat) : Option Nat :=
  bad.filter fun g => d.fmm.values.has (locOf b g) || d.fmm.deltaBlocks.has (locOf b g) || d.fmm.fillers.has (locOf b g)

/-- The index entries that a host has rewritten since the collection of a Bushel began: their moves are lost (R184). -/
def Dev.movesLost (d : Dev) (b : Nat) : Nat :=
  (d.fmm.moving.filter fun loc => locBushel loc == b && (d.slotAt loc).isNone).length

/-- Copy what is valid in a victim up to the grain that stops the collection, and commit the copies. Answers how many grains
were moved; none where they find no room (R255, R260, R264). -/
def Dev.copyOut (d : Dev) (b : Nat) (k : CollKind) (stop : Option Nat) : Option (Nat × Dev) :=
  let x := d.bushel b
  let mine := fun (loc : Nat) => locBushel loc == b && stop.all fun g => decide (locGrain loc < g)
  let items := d.fmm.values.filter fun p => mine p.1
  let blocks := d.fmm.deltaBlocks.filter fun p => mine p.1 && d.idx.committed.origin ≤ p.2
  let h := if x.ns = 0 then d.copyHead k x else d.ringHead x.ns
  let opener := if x.ns = 0 then fun d => Dev.openFor d h true false else Dev.ringOpen k x h
  let start := if x.ns = 0 then d else d.ringBegin k x
  (Dev.moveItems h opener items 0 start).bind fun r =>
    (Dev.moveBlocks blocks r.2).bind fun e =>
      (if stop.isSome then some e else e.moveCopies b).map fun e =>
        let e := e.sealCopies d x.pin
        (r.1, if x.ns = 0 then e else e.ringEnd d k x)

/-- A collection has copied and committed what is valid in its victim: the victim is RELEASED; an unreadable item
makes it KEPT instead (R252, R255, R260). Where the copies find no room, it goes on. -/
def Dev.collect (d : Dev) (b : Nat) (k : CollKind) (bad : Option Nat) : Dev :=
  let stop := d.stopsAt b bad
  match d.copyOut b k stop with
  | none => d
  | some (n, e) =>
    let e := e.countN (idxCnt 10) (d.movesLost b)
    let e := match stop with
      | some g =>
        let e := { e with fmm := { e.fmm with colls := e.fmm.colls.del b, moving := e.fmm.moving.filter fun l => locBushel l != b } }
        ((e.modBushel b fun x => { x with state := .kept }).raise (irqFmm 8)).log evKept (be 2 b ++ be 4 g)
      | none => (e.countColl b k n).release b
    e.programsDone.flushesDone.nextColl

/-! ## Failures (R252, R260, R261) -/

/-- A value written through that is placed afresh: its write follows it. -/
def Dev.relocOps (d : Dev) (old new : Nat) : Dev :=
  let one := fun (o : WOp) => if o.loc = old then { o with loc := new } else o
  let job := fun (_ : Nat) (f : Flight) =>
    match f.job with
    | .write w => { f with job := .write { w with ops := w.ops.map one } }
    | _ => f
  { d with cqe := { d.cqe with flights := d.cqe.flights.mapAll job } }

/-- Data of a Bushel that is staged and not committed is placed afresh by its head (R260). -/
def Dev.replace (d : Dev) (b h : Nat) (opener : Dev → Option (Nat × Dev)) : Dev :=
  let c := (d.bushel b).committed
  let torn := d.fmm.values.filter fun p => locBushel p.1 == b && c < locGrain p.1 + p.2.grains
  torn.foldl (fun (d : Dev) p =>
    let who := d.fmm.staged.find? fun s => s.loc == p.1
    let a : Author := match who with
      | some s => ⟨h, s.session, s.arrival⟩
      | none => ⟨h, 0xFFFF, 0⟩
    let through := match who with
      | some s => s.through
      | none => false
    let author := { a with head := if h = 3 ∨ 6 ≤ h then 0 else h }
    match d.moveValue h author opener p.1 p.2 with
    | none => d
    | some (new, d) =>
      let d := (d.stage new p.2.grains h a.session a.arrival through).relocOps p.1 new
      { d with fmm := { d.fmm with values := d.fmm.values.del p.1, staged := d.fmm.staged.filter fun s => s.loc != p.1 } }) d

/-- Delta blocks of a Bushel beyond grain `c` are placed afresh (R173, R260). -/
def Dev.replaceBlocks (d : Dev) (b c h : Nat) : Dev :=
  let gone := d.fmm.deltaBlocks.filter fun p => locBushel p.1 == b && c < locGrain p.1 + 64
  gone.foldl (fun (d : Dev) p =>
    match d.place (if h = 3 ∨ 6 ≤ h then 0 else h) 64 (fun d => d.openFor 0 true false) with
    | none => d
    | some (new, d) =>
      let d := d.stage new 64 h 0xFFFF 0
      { d with
        fmm := { d.fmm with deltaBlocks := (d.fmm.deltaBlocks.del p.1).put new p.2 }
        idx := { d.idx with deltas := d.idx.deltas.map fun (r : Delta) => if r.block = p.1 then { r with block := new } else r } }) d

/-- How a head opens a Bushel, whatever its kind. -/
def Dev.openAny (h ns : Nat) (d : Dev) : Option (Nat × Dev) :=
  if 6 ≤ h then
    match d.ns ns with
    | some n => d.openFurlong h ns n.entry.capacity
    | none => none
  else d.openFor h true false

/-- A program failed on a die of an open Bushel (R260, R261). -/
def Dev.programFail (d : Dev) (b die : Nat) : Dev :=
  let x := d.bushel b
  let h := x.head
  let blk := d.blockMap b die
  let d := ((((d.count (0x71020 + 0x100 * (die / 4))).health 128 1).raise (irqFmm 2)).log evProgFail
    (be 2 b ++ be 1 die ++ be 6 blk ++ be 1 h))
  let spare := 0 < d.spares die && !d.fmm.lostDies.contains die
  let d := if spare then (d.useSpare b die).checkExhausted else d
  let d := if spare then d else { d with fmm := { d.fmm with blocks := d.fmm.blocks.put (b * 64 + die) 0xFFFF } }
  let d := d.modBushel b fun x =>
    { x with failedDie := die, flags := x.flags ||| 17, suspect := if spare then x.suspect else (die :: x.suspect).eraseDups }
  let d := d.closeBushel b
  let d := d.replace b h (Dev.openAny h x.ns)
  let d := { d with fmm := { d.fmm with
    staged := d.fmm.staged.filter fun s => !(locBushel s.loc == b && x.committed < locGrain s.loc + s.grains) } }
  let d := d.replaceBlocks b x.committed h
  let d := d.modBushel b fun x => { x with written := x.committed }
  let d := d.modBushel b fun x => { x with valid := d.walkValid b }
  let restarts := d.fmm.colls.count fun v k => (d.bushel v).ns == 0 && d.copyHead k (d.bushel v) == h && h ≤ 2
  let d := if h = 1 ∨ h = 2 then (d.countN (fmmCnt 6) restarts).log evGcRestart (be 2 b ++ be 4 restarts) else d
  d.floors.nextColl

/-! ## Patrol (R264) -/

/-- Whether patrol reads a Bushel. -/
def Bushel.patrolled (x : Bushel) : Bool := x.held && 0 < x.committed

/-- The next page set that patrol reads, from a position of Bushel and page set on; none at the end of the sweep. -/
def Dev.patrolNext (d : Dev) (p : Nat × Nat) : Option (Nat × Nat) :=
  let sets := fun (x : Bushel) => x.committed / x.rowGrains * 64
  match d.fmm.bushels.find p.1 with
  | some x => if x.patrolled ∧ p.2 < sets x then some p
    else (d.fmm.bushels.first fun b x => p.1 < b && x.patrolled).map fun q => (q.1, 0)
  | none => (d.fmm.bushels.first fun b x => p.1 < b && x.patrolled).map fun q => (q.1, 0)

/-- A KEPT Bushel into which nothing points any more is released once a patrol walk has passed it (R252). -/
def Dev.patrolKept (d : Dev) (b : Nat) : Dev :=
  let x := d.bushel b
  if x.state = .kept ∧ d.walkValid b = 0 ∧ x.pin = 0 then d.release b else d

/-- The end of a patrol sweep (R264, R267). -/
def Dev.patrolEnd (d : Dev) : Dev :=
  let d := d.fmm.bushels.foldl (fun (d : Dev) p => d.patrolKept p.1) d
  let n := d.fmm.sweepMarks
  (({ d with fmm := { d.fmm with patrol := (0, 0), sweepMarks := 0 } }).health 140 1).log evPatrolDone
    (be 4 (d.regF 0xB002C 7 0) ++ be 4 n)

/-- Patrol reads one page set: its most corrected bits and how it was read (R264). -/
def Dev.patrolRead (d : Dev) (b set corr : Nat) (r : MediaRead) : Dev :=
  let was := (d.bushel b).flags
  let d := (d.countReads b 1).noteRead b r
  let d := d.modBushel b fun x =>
    { x with maxCorr := if set = 0 then corr else max x.maxCorr corr, flags := if 96 < corr then x.flags ||| 8 else x.flags }
  let marked := !bit was 3 && bit (d.bushel b).flags 3
  { d with fmm := { d.fmm with patrol := (b, set + 1), sweepMarks := d.fmm.sweepMarks + b2n marked } }

/-! ## What a Bushel holds byte for byte (R189, R238, R240, R246) -/

/-- A filler of `n` grains with a given CRC in its first grain. -/
def fillerWith (n crc : Nat) : Bytes := be 2 0x4650 ++ zeros 2 ++ be 4 n ++ zeros 52 ++ be 4 crc ++ zeros (64 * (n - 1))

/-- A filler of `n` grains. -/
def fillerBytes (n : Nat) : Bytes := fillerWith n (crc32c ((fillerWith n 0).take 64))

/-- A stored value: its header and its bodies, each from a grain of its own. -/
def Value.bytes (v : Value) : Bytes :=
  padTo (64 * v.hdrGrains) v.header ++ v.segs.flatMap fun s => padTo (64 * ceilDiv s.body.length 64) s.body

/-- The items of a Bushel with their first grains. -/
def Dev.itemsIn (d : Dev) (b : Nat) : List (Nat × Bytes) :=
  let mine := fun (loc : Nat) => locBushel loc == b
  ((d.fmm.values.filter fun p => mine p.1).map fun p => (locGrain p.1, p.2.bytes)) ++
    ((d.fmm.deltaBlocks.filter fun p => mine p.1).map fun p => (locGrain p.1, d.idx.blockBytes p.2)) ++
    ((d.fmm.fillers.filter fun p => mine p.1).map fun p => (locGrain p.1, fillerBytes p.2)) ++
    (d.idx.pages.filter fun p => mine p.loc).map fun p => (locGrain p.loc, p.bytes)

/-- Some grains of a Bushel as its items give them. -/
def Dev.grainBytes (d : Dev) (b grain n : Nat) : Bytes :=
  ((d.itemsIn b).filter fun p => p.1 < grain + n).foldl (fun acc p =>
    if p.1 < grain then overlay acc 0 (slice p.2 (64 * (grain - p.1)) (64 * n))
    else overlay acc (64 * (p.1 - grain)) (p.2.take (64 * (grain + n - p.1)))) (zeros (64 * n))

/-- A data page set of a Bushel: 1,024 grains. -/
def Dev.pageSet (d : Dev) (b set : Nat) : Bytes := d.grainBytes b (1024 * set) 1024

/-- The parity page set of a row: the XOR of its data page sets (R238). -/
def Dev.paritySet (d : Dev) (b row : Nat) : Bytes :=
  let n := (d.bushel b).dies
  (List.range n).foldl (fun acc i => xorBytes acc (d.pageSet b (row * n + i))) (zeros 65536)

end Sys2Proof.Machine
end

