-- ==== Sys2Proof/Machine/CommandOps.lean ====
section
/-! DEFINITION. Checks and charges of dispatched commands: the dispatch checks of R114, what refuses a write before it
begins, and the late charge of reads (R113, R114, R117, R136 to R138, R193, R263, R363, R413). -/

set_option cleanup.letToHave false

namespace Sys2Proof.Machine

/-- The opcodes of each namespace type (R137). -/
def typeAccepts (type op : Nat) : Bool :=
  if op = 0x41 ∨ op = 0x42 then true
  else
    match type with
    | 0 => ([0x01, 0x02, 0x03, 0x04, 0x05, 0x06, 0x07] : List Nat).contains op
    | 1 => ([0x03, 0x04, 0x07, 0x10, 0x11, 0x12] : List Nat).contains op
    | 2 => op == 0x20 || op == 0x21
    | _ => ([0x28, 0x29, 0x2A, 0x2B] : List Nat).contains op

/-- Whether an opcode names a namespace in its header (R135). -/
def namesNs (op : Nat) : Bool := op < 0x2C && op != 0x22 && op != 0x23

/-- Whether a namespace is found by commands: it exists and is not in DELETING. -/
def Dev.activeNs (d : Dev) (n : Nat) : Option Namespace :=
  match d.ns n with
  | some x => if x.state = .active then some x else none
  | none => none

/-- 16 MiB and 2^40, the size limits of R136 and R143. -/
def valueLimit : Nat := 16777216
def objectLimit : Nat := 1099511627776

/-- Step 5 of the dispatch checks: the limit that a size exceeds (R114, R136, R143, R203, R413). -/
def sizeOver (op : Nat) (raw : Bool) (valLen : Nat) (param : Bytes) : Option Nat :=
  let beyond := fun (n top : Nat) => if top < n then some top else none
  match op with
  | 0x02 => beyond valLen (if raw then valueLimit + 2064 else valueLimit)
  | 0x05 => beyond valLen valueLimit
  | 0x20 => beyond valLen valueLimit
  | 0x10 => (beyond valLen valueLimit).orElse fun _ => beyond (num param 0 8 + valLen) objectLimit
  | 0x06 => beyond (num param 8 4) valueLimit
  | 0x11 => (beyond (num param 8 4) valueLimit).orElse fun _ => beyond (num param 0 8 + num param 8 4) objectLimit
  | 0x12 => beyond (num param 0 8 + num param 8 8) objectLimit
  | 0x28 => beyond valLen 4096
  | 0x50 => beyond valLen 8388608
  | _ => none

/-- The size of the value that a record carries: for a RAW PUT the VALUE_LEN of its stored-form image (R203). -/
def writtenSize (op : Nat) (raw : Bool) (valLen : Nat) (value : Bytes) : Nat :=
  if op = 0x02 ∧ raw then (if num value 0 4 = 0x53460001 then num value 4 4 else 0) else valLen

/-- Whether an opcode writes value bytes through the pipeline. -/
def writesValue (op : Nat) : Bool := op == 0x02 || op == 0x05 || op == 0x10 || op == 0x12 || op == 0x20 || op == 0x28

/-- Whether an opcode is a write that stages (R363). -/
def stages (op : Nat) : Bool := writesValue op || op == 0x03 || op == 0x2A || op == 0x2B

/-- The lowest of two optional domains. -/
def lowest (a b : Option Nat) : Option Nat :=
  match a, b with
  | some x, some y => some (min x y)
  | some x, none => some x
  | none, y => y

/-- A domain where it is not ON. -/
def Dev.offOf (d : Dev) (n : Nat) : Option Nat := if d.domOn n then none else some n

/-- Step 6 of the dispatch checks: the lowest domain that a command on a namespace needs and that is not ON (R180, R193,
R263, R363). `through` is a write that is acknowledged from flash. -/
def Dev.domainOff (d : Dev) (n : Namespace) (op : Nat) (raw through : Bool) : Option Nat :=
  let cz := if writesValue op ∧ !(raw ∧ op = 0x02) then d.czOff n else none
  let fc := if through then d.channelOff else none
  let hse := if op = 0x28 ∨ op = 0x2A ∨ op = 0x2B then d.offOf 66 else none
  let mb := if stages op then d.offOf 58 else none
  let idx := if n.entry.type ≤ 1 then d.idxOff else none
  lowest fc (lowest cz (lowest (d.aeOff n) (lowest idx (lowest mb hse))))


/-- Whether a write is acknowledged from flash: an FUA write, or a value above the atomic size; a read ignores FUA (R129,
R131). -/
def fromFlash (op : Nat) (fua : Bool) (size : Nat) : Bool :=
  (fua && stages op) || (writesValue op && op != 0x10 && op != 0x12 && atomicSize < size)

/-- The dispatch checks of a command or Quire operation that names a namespace (R114, R203). -/
def Dev.nsRefusal (d : Dev) (op : Nat) (raw fua : Bool) (ns : Nat) (key : Bytes) (valLen : Nat) (param value : Bytes) :
    Option (Nat × Nat) :=
  match d.activeNs ns with
  | none => some (stNsUnknown, 0)
  | some n =>
    let keyed := n.entry.type ≤ 1 && op != 0x07
    if !typeAccepts n.entry.type op then some (stNsType, 0)
    else if raw ∧ n.entry.enc = 1 then some (stMalformed, 2)
    else if keyed && !(1 ≤ key.length && key.length ≤ 128) || !keyed && !key.isEmpty then some (stBadKey, 0)
    else
      let size := writtenSize op raw valLen value
      match sizeOver op raw valLen param with
      | some top => some (stTooLarge, top)
      | none =>
        if op = 0x02 ∧ valueLimit < size then some (stTooLarge, valueLimit)
        else (d.domainOff n op raw (fromFlash op fua size)).map fun dom => (stResourceOff, dom)

/-- The lowest control-core domain that is not ON. -/
def Dev.ccOff (d : Dev) : Option Nat := lowest (d.offOf 61) (d.offOf 62)

/-- The domains of opcodes that name no namespace, and of management opcodes (R363). -/
def Dev.mgmtOff (d : Dev) (op : Nat) : Option Nat :=
  let cc := d.ccOff
  match op with
  | 0x22 => d.idxOff
  | 0x23 => d.idxOff
  | 0x40 => cc
  | 0x41 => cc
  | 0x50 => lowest cc (d.offOf 66)
  | 0x51 => lowest cc (d.offOf 66)
  | 0x59 => cc
  | 0x68 => cc
  | _ => none

/-- The dispatch checks of a command (R114): status and DETAIL, none where they pass. -/
def Dev.dispatchRefusal (d : Dev) (c : Cmd) : Option (Nat × Nat) :=
  if namesNs c.op then d.nsRefusal c.op c.raw c.fua c.ns c.key c.valLen c.param c.value
  else if c.op = 0x41 then
    if (d.activeNs c.ns).isNone then some (stNsUnknown, 0)
    else (d.mgmtOff c.op).map fun dom => (stResourceOff, dom)
  else if c.op = 0x42 then (if c.ns ≠ 0 ∧ (d.ns c.ns).isNone then some (stNsUnknown, 0) else none)
  else if c.op = 0x30 then
    let subs := match subRecords (num c.param 0 1) 0 c.value with
      | .ok l => l
      | .error _ => []
    if 24 < num c.param 0 1 then some (stAtomicLimit, 1)
    else if atomicSize < quireBytes subs then some (stAtomicLimit, 2)
    else none
  else
    match sizeOver c.op false c.valLen c.param with
    | some top => some (stTooLarge, top)
    | none => (d.mgmtOff c.op).map fun dom => (stResourceOff, dom)

/-- The opcodes that firmware runs: NS_CREATE, NS_DELETE, FW_STAGE, FW_ACTIVATE, HEALTH_READ and LG_MOVE (R52). -/
def firmwareOps : List Nat := [0x40, 0x41, 0x50, 0x51, 0x59, 0x68]

/-- The dispatched command of a context whose opcode has not run yet; one that needs firmware waits while the cores are
down (R52, R53). -/
def Dev.fresh (d : Dev) (ctx op : Nat) : Option Flight :=
  match d.flight ctx with
  | some f =>
    if f.job = .fresh ∧ f.cmd.op = op ∧ !(d.life.coresDown && firmwareOps.contains op) then some f else none
  | none => none

/-- What ends a write to a namespace whose key the command has not bound, or has lost since (R160, R197). -/
def Dev.keyRefusal (d : Dev) (f : Flight) (n : Namespace) : Option (Nat × Nat) :=
  if n.entry.enc = 1 ∧ (d.boundKey f n).isNone then some (stKeyLost, n.entry.keySlot) else none

/-- What ends a write to a namespace before it begins: exhausted media, a lost key, an exhausted counter (R160, R197,
R199). -/
def Dev.writeRefusal (d : Dev) (f : Flight) (n : Namespace) : Option (Nat × Nat) :=
  if n.entry.type ≠ 3 ∧ d.fmm.exhausted then some (stMediaExhausted, 0)
  else (d.keyRefusal f n).orElse fun _ =>
    if wctrLast < d.vpl.wctr then some (exhaustedStatus (n.entry.enc = 1), 0) else none

/-- Report what a write refused before it begins reports (R199). -/
def Dev.reportRefusal (d : Dev) (status : Nat) : Dev :=
  if wctrLast < d.vpl.wctr ∧ (status = stNonceExhausted ∨ status = stNoSpace) then d.reportExhausted else d

/-- A dispatched command goes on unless something refuses it: status and DETAIL. -/
def Dev.unlessRefused (d : Dev) (ctx : Nat) (refusal : Option (Nat × Nat)) (run : Dev → Dev) : Dev :=
  match refusal with
  | some (status, detail) => (d.reportRefusal status).finish ctx status 0 detail
  | none => run d

/-- Charge the data of a read whose length was not known at dispatch (R117). -/
def Dev.chargeLate (d : Dev) (ctx bytes : Nat) : Dev :=
  match d.flight ctx with
  | none => d
  | some f =>
    let u := ceilDiv bytes 4096
    let e := d.cqe
    let e := { e with allCost := e.allCost + u, uCost := if f.cls = 0 then e.uCost + u else e.uCost }
    let e := if 1 ≤ f.cls ∧ f.cls ≤ 4 then { e with deficits := e.deficits.modify (f.cls - 1) fun x => x - (u : Nat) } else e
    { d with cqe := e }

end Sys2Proof.Machine
end

