-- ==== Sys2Proof/Machine/SessOps.lean ====
section
/-! DEFINITION. Sessions as a whole: how they open and end, and the League sessions that this device opens (R38, R89 to
R94, R103, R104, R313, R316 to R318, R325 to R328). -/

set_option cleanup.letToHave false

namespace Sys2Proof.Machine

/-! ## The image window's end (R38, R39) -/

/-- The window is free again; what it had received is discarded. -/
def ImgWindow.free (w : ImgWindow) : ImgWindow :=
  { w with state := .home, owner := none, bytes := [], overrun := false, checked := none }

/-- The window fails with a section, a stage and a code, and is free (R38, R39). -/
def Dev.imgFail (d : Dev) (sect stage code : Nat) : Dev :=
  let d := { d with imgWin := { d.imgWin.free with errSection := sect, errStage := stage, errCode := code } }
  d.setReg 0x410C (d.reg 0x410C ||| (1#32 <<< 11))

/-- A session that owns the image window in RECV has ended (R38). -/
def Dev.imgOrphan (d : Dev) (sid : Nat) : Dev :=
  if d.imgWin.state = .recv ∧ d.imgWin.owner = some (.inBand sid) then d.imgFail 0 0 0x0E else d

/-! ## Ends of League sessions -/

/-- Count and answer a command that a lost member or mirror ends (R325, R328). -/
def Dev.endUnavailable (d : Dev) (ctx id : Nat) : Dev :=
  (d.count (lgeCnt 4)).finish ctx stMemberUnavailable 0 id

/-- A replication failed: the write stands, and the primary answers MEMBER_UNAVAILABLE (R328). -/
def Dev.mirrorFail (d : Dev) (ctx id status : Nat) : Dev :=
  match d.flight ctx with
  | none => d
  | some f =>
    let d := ((d.count (lgeCnt 6)).raise (irqLge 3)).log evMirrorFail (be 1 id ++ be 2 status ++ be 2 f.cmd.ns)
    d.endUnavailable ctx id

/-- Whether a call or a queued request concerns a member's relays or FLUSHes. -/
def CallKind.ofMember (k : CallKind) (id : Nat) : Option Nat :=
  match k with
  | .relay ctx m => if m = id then some ctx else none
  | .flush ctx m => if m = id then some ctx else none
  | _ => none

/-- The contexts that wait for an answer of a member. -/
def Dev.memberWaits (d : Dev) (id : Nat) : List Nat :=
  (d.lge.calls.filterMap fun c => c.kind.ofMember id) ++ (d.lge.queued.filterMap fun q => q.2.2.ofMember id)

/-- Forget the calls made on a session, and answer what waited for them. -/
def Dev.dropCalls (d : Dev) (sid : Nat) : Dev :=
  let gone := d.lge.calls.filter fun c => c.session == sid
  let d := { d with lge := { d.lge with calls := d.lge.calls.filter fun (c : LgCall) => c.session != sid,
                                        targets := d.lge.targets.filter fun (t : Nat × LgTarget) => t.1 != sid } }
  gone.foldl (fun (d : Dev) (c : LgCall) =>
    match c.kind with
    | .replicate ctx id => d.mirrorFail ctx id stTimeout
    | _ => d) d

/-! ## Loss of a session (R103) -/

/-- A session ends at once: CLOSE with a reason, its commands discarded or orphaned, FREE, and the record (R103). That
CLOSE goes out even where its number passes the host's LIMIT: DESIGN CHOICE (log entry 75). -/
def Dev.cutSession (d : Dev) (sid reason : Nat) : Dev :=
  match d.session sid with
  | none => d
  | some _ =>
    let d := d.sendPlain sid 8 (be 1 reason ++ zeros 3)
    let (d, n) := d.dropSession sid
    let d := ((d.count (dktCnt 14)).raise (irqDkt 0)).log evSessLost (be 2 sid ++ be 1 reason ++ be 4 n)
    ((d.cleanEngines.imgOrphan sid).dropCalls sid)

/-- Whether the directory change under way waits for a member's answer (R319). -/
def Dev.changeWaits (d : Dev) (id : Nat) (m : Member) : Bool :=
  d.lge.busy && ((d.lge.calls.any fun c => some c.session == m.outSess && c.kind == .dirSet false) ||
    d.lge.queued.any fun q => q.1 == .toMember id && q.2.2 == .dirSet false)

/-- A member is lost to the head: its relayed commands end, its sessions are closed (R316, R317, R325). A directory change that
waits for it ends with ERR 6: DESIGN CHOICE (log entry 55). -/
def Dev.memberLost (d : Dev) (id cause : Nat) : Dev :=
  match d.lge.members.find id with
  | none => d
  | some m =>
    if m.state = .up ∨ m.state = .joining then
      let waits := d.memberWaits id
      let cut := d.changeWaits id m
      let d := { d with lge := { d.lge with
        busy := d.lge.busy && !cut, err := if cut then 6 else d.lge.err
        calls := d.lge.calls.filter fun (c : LgCall) => (c.kind.ofMember id).isNone
        queued := d.lge.queued.filter fun (q : LgTarget × Bytes × CallKind) => q.1 != .toMember id
        members := d.lge.members.put id { m with state := .lost, inSess := none, outSess := none, leaving := none } } }
      let d := waits.foldl (fun (d : Dev) ctx => d.endUnavailable ctx id) d
      let d := (d.raise (irqLge 0)).log evMemberLost (be 1 id ++ be 1 cause ++ be 4 waits.length)
      let d := match m.inSess with
        | some s => d.cutSession s stTimeout
        | none => d
      match m.outSess with
      | some s => d.cutSession s stTimeout
      | none => d
    else d

/-- What the end of a League session means to the League engine (R316, R318). `target` is where the session led, for
one that this device had opened. -/
def Dev.leagueSessionEnded (d : Dev) (sid : Nat) (target : Option LgTarget) : Dev :=
  match target with
  | some .toHead =>
    if d.lge.head = .up ∨ d.lge.head = .joining then
      let was := d.lge.head
      let d := { d with lge := { d.lge with head := .lost } }
      if was = .up then (d.raise (irqLge 4)).log evHeadLost (be 20 (beVal d.league.headAddr)) else d
    else d
  | _ =>
    match d.lge.members.first fun _ m => m.inSess == some sid || m.outSess == some sid with
    | some (id, _) => d.memberLost id 1
    | none => d

/-- Where a session that this device opened leads. -/
def Dev.targetOf (d : Dev) (sid : Nat) : Option LgTarget := (d.lge.targets.find? fun t => t.1 == sid).map (·.2)

/-- A session is lost or killed (R103, R316, R318). -/
def Dev.loseSession (d : Dev) (sid reason : Nat) : Dev :=
  let target := d.targetOf sid
  (d.cutSession sid reason).leagueSessionEnded sid target

/-- A session ends without CLOSE and record: an open that did not come about, or a closed session (R104). -/
def Dev.endSession (d : Dev) (sid : Nat) : Dev :=
  let target := d.targetOf sid
  let d := ((d.dropSession sid).1.cleanEngines.imgOrphan sid).dropCalls sid
  d.leagueSessionEnded sid target

/-! ## Opening (R90 to R93, R313) -/

/-- The number of session IDs (R90). -/
def Dev.sessionIds (d : Dev) : Nat := d.regF 0x20000 12 0

/-- The lowest free session ID. -/
def Dev.freeId (d : Dev) : Option Nat :=
  match d.sess.freeFrom 0 d.sessionIds with
  | some n => if n < d.sessionIds then some n else none
  | none => none

/-- How many session IDs are free. -/
def Dev.freeIds (d : Dev) : Nat := d.sessionIds - d.sess.length

/-- Sessions in CHALLENGED. -/
def Dev.halfOpen (d : Dev) : Nat := d.sess.count fun _ s => s.state == .challenged && !s.opener

/-- Allocate a session ID: its epoch rises by 1 (R90). -/
def Dev.newEpoch (d : Dev) (sid : Nat) : Nat × Dev :=
  let e := (d.epochs.getD sid 0 + 1) % 16
  (e, { d with epochs := d.epochs.put sid e })

/-- A session as it is allocated for a packet that opens it. -/
def Sess.open_ (k : RxPkt) (epoch isn hostWin slot priv : Nat) (cn dn : Bytes) (bound : Option KeyGen) : Sess :=
  { state := .challenged, epoch := epoch, wireId := 0, wireEpoch := epoch, opener := false, priv := 0, ticket := false,
    slot := slot, bound := bound, key := k.key, devIp := k.dstIp, mac := k.srcMac, cn := cn, dn := dn,
    hostIsn := k.hdr.seq, devIsn := isn, privReq := priv, hostWin := hostWin, rxNext := k.hdr.seq,
    advLimit := seqAdd k.hdr.seq (2 ^ 32 - 1), held := [], txNext := isn, txLimit := seqAdd isn (hostWin + 2 ^ 32 - 1),
    unacked := [], out := [], timeoutUs := 64, retries := 0, heardAt := none, ackedAt := none, inMsgs := [], tags := [],
    acceptPay := [], league := false, answers := [] }

/-- Refuse an open: a REFUSE to the packet's source (R93). -/
def Dev.refuseOpen (d : Dev) (k : RxPkt) (status : Nat) : Dev :=
  (d.sendBack k (DktHdr.blank 6) (be 1 status ++ zeros 3)).count (dktCnt 13)

/-- A source address as 16 bytes, IPv4 as ::ffff:a.b.c.d (R105). -/
def ip16 (v6 : Bool) (ip : Nat) : Bytes := if v6 then be 16 ip else zeros 10 ++ [0xFF, 0xFF] ++ be 4 ip

/-- Report a failed authentication: cause 1 slot, 2 privilege, 3 proof (log entry 71). -/
def Dev.authFail (d : Dev) (slot cause : Nat) (v6 : Bool) (ip : Nat) : Dev :=
  (d.raise (irqDkt 2)).log evAuthFail (be 2 slot ++ ip16 v6 ip ++ be 1 cause)

/-- Report an open refused for want of a session ID or of a classification entry (R93). -/
def Dev.sessFull (d : Dev) : Dev := (d.raise (irqDkt 1)).logLimited evSessFull 1 fun n => be 4 n

/-- Room for one more session: an ID for these privileges and a classification entry (R93). -/
def Dev.roomFor (d : Dev) (admin league : Bool) (key : ClassKey) : Option Nat × Dev :=
  match d.freeId with
  | none => (none, d.sessFull)
  | some sid =>
    if !admin && !league && d.freeIds ≤ d.regF 0x20004 6 0 then (none, d.sessFull)
    else if !d.classFree key then (none, (d.raise (irqMat 2)).sessFull)
    else (some sid, d)

/-- The PROOF of R92. -/
def proofOf (key cn dn : Bytes) (epoch session slot priv isn : Nat) : Bytes :=
  hmac256 key ([0x44, 0x4B, 0x4F, 0x31] ++ cn ++ dn ++ be 2 (epoch * 4096 + session) ++ be 2 slot ++ be 1 priv ++ be 4 isn)

/-- The DPROOF of R92. -/
def dproofOf (key dn cn : Bytes) (epoch session priv isn : Nat) : Bytes :=
  hmac256 key ([0x44, 0x4B, 0x41, 0x31] ++ dn ++ cn ++ be 2 (epoch * 4096 + session) ++ be 1 priv ++ be 4 isn)

/-- The ACCEPT payload (R91). -/
def Dev.acceptPayload (d : Dev) (priv : Nat) (k : ClassKey) (proof : Bytes) : Bytes :=
  be 1 priv ++ zeros 1 ++ be 2 (d.regF 0x20008 31 16) ++ be 2 (d.maxPay k.port k.v6) ++ zeros 2 ++ proof

/-! ## Sessions that this device opens (R312, R313, R327) -/

/-- The lowest-numbered port in UP (R312). -/
def Dev.upPort (d : Dev) : Option Nat := (List.range 4).find? fun n => (d.port n).link == .up

/-- Where a target answers: its IPv4 address, its IPv6 address and its UDP port; `relay` is the LG_RELAY block that
names a mirror (R314, R315, R327). -/
def Dev.addressOf (d : Dev) (t : LgTarget) (relay : Bytes) : Nat × Nat × Nat :=
  match t with
  | .toHead => (num d.league.headAddr 0 4, num d.league.headAddr 4 16, d.regF 0x20000 31 16)
  | .toMember id =>
    match d.lge.members.find id with
    | some m => (m.ipv4, m.ipv6, m.port)
    | none => (0, 0, 0)
  | .toMirror _ => (num relay 4 4, num relay 8 16, num relay 2 2)

/-- An address of this device on a port. -/
def Dev.ownAddr (d : Dev) (port : Nat) (v6 : Bool) : Nat :=
  match d.portCfg port with
  | some c => if v6 then c.ipv6 else c.ipv4
  | none => 0

/-- Ask for the link-layer address of a League peer, from a port: an ARP request, or a neighbour solicitation (R70,
R312). -/
def Dev.askNeighbour (d : Dev) (port : Nat) (v6 : Bool) (ip : Nat) : Dev :=
  let own := d.ownAddr port v6
  let f : TxFrame :=
    if v6 then ⟨solicitedMac ip, 0, d.ipFrameLen port true 32, .solicit own ip⟩
    else ⟨macBroadcast, 0, d.ipFrameLen port false 8, .arp true own 0 ip⟩
  let asked := d.lge.asked.filter fun (a : Bool × Nat) => a != (v6, ip)
  ({ d with lge := { d.lge with asked := asked ++ [(v6, ip)] } }).queueFrame port f

/-- Open a League session (R313): an OPEN to the target once its link-layer address has been resolved, and until then the
request that resolves it. A resolution serves one open (log entry 75). -/
def Dev.openLeague (d : Dev) (t : LgTarget) (relay : Bytes) : Dev :=
  let (ip4, ip6, udp) := d.addressOf t relay
  let v6 := ip4 == 0
  let ip := if v6 then ip6 else ip4
  match d.upPort, d.freeId, d.bindKey d.league.ticketSlot 3 with
  | some port, some sid, some key =>
    let own := d.ownAddr port v6
    if ip = 0 then d
    else
    match d.lge.neighbours.find? fun a => a.v6 == v6 && a.ip == ip with
    | none => d.askNeighbour port v6 ip
    | some peer =>
    let ck : ClassKey := ⟨port, peer.sc, v6, ip, udp, if v6 then 0 else own, if v6 then 0 else d.regF 0x20000 31 16⟩
    let taken := d.sess.any fun p => p.2.key == ck
    let d := { d with lge := { d.lge with neighbours := d.lge.neighbours.erase peer } }
    if !d.classFree ck || taken then d
    else
      let (epoch, d) := d.newEpoch sid
      let (cn, d) := d.draw 16
      let (isnB, d) := d.draw 4
      let isn := beVal isnB
      let k : RxPkt :=
        { key := ck, dstIp := own, srcMac := peer.mac, hdr := DktHdr.blank 0, payload := [], cells := 0, session := none }
      let s : Sess := { Sess.open_ k epoch isn 0 d.league.ticketSlot 0x80 cn [] (some key) with
        state := .opening, wireEpoch := 0, opener := true, hostIsn := isn, hostWin := d.regF 0x20010 10 0, league := true,
        txLimit := seqAdd isn (2 ^ 32 - 1) }
      let d := { (d.classInstall ck sid) with
        sess := d.sess.put sid s, lge := { d.lge with targets := d.lge.targets ++ [(sid, t)] } }
      d.sendPlain sid 2 (cn ++ be 2 s.slot ++ be 1 0x80 ++ zeros 1 ++ be 2 s.hostWin ++ zeros 10)
  | _, _, _ => d

/-- Send a request on a League session of this device and note the call (R314). -/
def Dev.leagueSend (d : Dev) (sid : Nat) (req : Bytes) (kind : CallKind) : Dev :=
  let tag := d.lge.nextTag
  ({ d with lge := { d.lge with nextTag := (tag + 1) % 65536, calls := d.lge.calls ++ [(⟨sid, tag, kind⟩ : LgCall)] } }).sendMessage
    sid 7 tag req

/-- The session that leads to a target, whatever its state. -/
def Dev.sessionTo (d : Dev) (t : LgTarget) : Option Nat := (d.lge.targets.find? fun x => x.2 == t).map (·.1)

/-- Whether a session to a target is open. -/
def Dev.readyTo (d : Dev) (t : LgTarget) : Option Nat :=
  match d.sessionTo t with
  | some sid =>
    match d.session sid with
    | some s => if s.state = .established then some sid else none
    | none => none
  | none => none

/-- The LG_RELAY block of the command that a queued request serves. -/
def Dev.relayBlock (d : Dev) (k : CallKind) : Bytes :=
  match k with
  | .replicate ctx _ =>
    match d.flight ctx with
    | some f => f.cmd.mirror
    | none => []
  | _ => []

/-- Send the requests whose session is open, and open the sessions of the others. -/
def Dev.leaguePump (d : Dev) : Dev :=
  d.lge.queued.foldl (fun (d : Dev) (q : LgTarget × Bytes × CallKind) =>
    match d.readyTo q.1 with
    | some sid =>
      ({ d with lge := { d.lge with queued := d.lge.queued.erase q } }).leagueSend sid q.2.1 q.2.2
    | none => if (d.sessionTo q.1).isSome then d else d.openLeague q.1 (d.relayBlock q.2.2)) d

/-- Queue a request of this device towards a target and send what can be sent. -/
def Dev.leagueQueue (d : Dev) (t : LgTarget) (req : Bytes) (k : CallKind) : Dev :=
  ({ d with lge := { d.lge with queued := d.lge.queued ++ [(t, req, k)] } }).leaguePump

end Sys2Proof.Machine
end

