-- ==== Sys2Proof/Machine/PlaceOps.lean ====
section
/-! DEFINITION. Placement: the directory, searches on the head's own banks, where a command runs, REDIRECT and relays, and
the cascade's end (R105, R297 to R299, R306, R319 to R322, R325 to R328). -/

set_option cleanup.letToHave false

namespace Sys2Proof.Machine

/-! ## Members (R317) -/

/-- Whether a member is in UP; the head's own ID is UP while the head runs. -/
def Dev.memberUp (d : Dev) (id : Nat) : Bool :=
  (d.league.role == 1 && id == d.league.memberId) ||
    match d.lge.members.find id with
    | some m => m.state == .up
    | none => false

/-- A member's IPv4 address, IPv6 address and DKT port, for the LG_RELAY block and the REDIRECT tail. -/
def Dev.memberAddr (d : Dev) (id : Nat) : Nat × Nat × Nat :=
  if id = d.league.memberId then
    match d.upPort.bind d.portCfg with
    | some c => (c.ipv4, c.ipv6, d.regF 0x20000 31 16)
    | none => (0, 0, d.regF 0x20000 31 16)
  else d.addressOf (.toMember id) []

/-! ## Searching the head's own banks (R298, R299, R320) -/

/-- The outcome of a placement search in the device's own banks. -/
inductive OwnSearch where
  | hit (result : Nat)
  | miss
  | unusable (domain : Nat)
  deriving DecidableEq, Repr

/-- The lowest bank of the placement profile below `top` whose domain is not ON. -/
def Dev.skippedBank (d : Dev) (top : Nat) : Option Nat :=
  (List.range (min 32 top)).find? fun b => bit d.profile1 b && !d.domOn (bankDomain b)

/-- A lost rule entry that the word would match (R320). -/
def Dev.lostRule (d : Dev) (word : Nat) : Option Nat :=
  (d.lge.lostRules.find? fun p =>
    bit d.profile1 (p.1 / 4096) && entryMatches (widthBits (d.mat.width (p.1 / 4096))) p.2 word).map (·.1)

/-- Search a placement word in the device's own banks. -/
def Dev.ownSearch (d : Dev) (word : Nat) : OwnSearch :=
  match d.lostRule word with
  | some a => .unusable (bankDomain (a / 4096))
  | none =>
    match (d.search d.profile1 word).win with
    | some (a, e) =>
      match d.skippedBank (a / 4096) with
      | some b => .unusable (bankDomain b)
      | none => .hit e.result
    | none =>
      match d.skippedBank 32 with
      | some b => .unusable (bankDomain b)
      | none => .miss

/-! ## Placing a command (R321, R322) -/

/-- The opcodes that are placed: those in 0x01 to 0x2B with a namespace, and QUIRE (R321). -/
def placedOp (op ns : Nat) : Bool := (1 ≤ op && op ≤ 0x2B && ns != 0) || op == 0x30

/-- The reads of R321. -/
def placedRead (op : Nat) : Bool :=
  ([0x01, 0x06, 0x04, 0x07, 0x11, 0x21, 0x29] : List Nat).contains op

/-- Whether a command is placed on this device: on a head, from a session that no other device opened (R321). -/
def Dev.places (d : Dev) (c : Cmd) : Bool :=
  d.league.role == 1 && c.queue ≤ 5 && placedOp c.op c.ns

/-- The placement words of a command, one for each operation of a QUIRE (R297, R322). -/
def placementWords (c : Cmd) : List Nat :=
  if c.op = 0x30 then
    match subRecords (num c.param 0 1) 0 c.value with
    | .ok l => l.map fun r => placementWord (r.nsField % 1024) r.key
    | .error _ => []
  else [placementWord c.ns c.key]

/-- The LG_RELAY block of a relay, naming a mirror or none (R314). -/
def Dev.relayParam (d : Dev) (mirror : Option Nat) : Bytes :=
  match mirror with
  | none => zeros 24
  | some id =>
    let (a4, a6, port) := d.memberAddr id
    be 1 (128 + id) ++ zeros 1 ++ be 2 port ++ be 4 a4 ++ be 16 a6

/-- Relay a command to a member (R325). -/
def Dev.relay (d : Dev) (ctx : Nat) (c : Cmd) (member : Nat) (mirror : Option Nat) : Dev :=
  let inner := requestBytes c.op (b2n c.raw + 2 * b2n c.fua) c.ns 0 c.param c.key c.value
  let d := (d.modFlight ctx fun f => { f with job := .relayed member }).count (lgeCnt 3)
  let d := if placedRead c.op then d
    else { d with lge := { d.lge with relayed := ((c.session, member) :: d.lge.relayed).eraseDups } }
  d.leagueQueue (.toMember member) (requestBytes 0x6D 0 0 0 (d.relayParam mirror) [] inner) (.relay ctx member)

/-- Answer a command with REDIRECT and the tail of R105. -/
def Dev.redirect (d : Dev) (ctx : Nat) (c : Cmd) (member : Nat) : Dev :=
  match d.bindKey d.league.ticketSlot 3, d.session c.session with
  | some kt, some s =>
    let (a4, a6, port) := d.memberAddr member
    let expiry := d.now + d.regF 0x2000C 31 16 * 1000000
    let mt := [0x44, 0x4B, 0x54, 0x31] ++ be 1 member ++ be 1 s.priv ++ be 2 s.slot ++ be 8 expiry ++
      ip16 s.key.v6 s.key.srcIp ++ be 2 s.key.srcPort
    let tail := be 1 member ++ zeros 1 ++ be 2 port ++ be 4 a4 ++ be 16 a6 ++ be 8 expiry ++ (hmac256 kt.key mt).take 16
    (d.count (lgeCnt 2)).finishWith ctx (response c.op stRedirect 0 0 0 0 [] tail)
  | none, some _ => d.finish ctx stKeyLost 0 d.league.ticketSlot
  | _, none => d.finish ctx stInternal 0 0

/-- Run a placed command on this device: its opcode's own step follows. -/
def Dev.runHere (d : Dev) (ctx : Nat) : Dev :=
  (d.modFlight ctx fun f => { f with job := .fresh }).count (lgeCnt 1)

/-- The device that a result places on. -/
def Dev.deviceOf (d : Dev) (r : Option Nat) : Nat :=
  match r with
  | some x => x % 64
  | none => d.league.memberId

/-- Hand a command to a member under the League's mode (R321). -/
def Dev.handTo (d : Dev) (ctx : Nat) (c : Cmd) (member : Nat) : Dev :=
  if member = d.league.memberId then d.runHere ctx
  else if d.league.mode = 1 then d.relay ctx c member none
  else d.redirect ctx c member

/-- Place a command by the results of its searches, in operation order (R321, R322, R328). -/
def Dev.placeBy (d : Dev) (ctx : Nat) (c : Cmd) (results : List (Option Nat)) : Dev :=
  let d := d.count (lgeCnt 0)
  let r := results.head?.getD none
  let dev := d.deviceOf r
  match results.findIdx? fun x => d.deviceOf x != dev with
  | some i =>
    ((d.countStatus stMalformed).count (lgeCnt 10)).finishWith ctx (response c.op stMalformed 0 0 i 6 [] [])
  | none =>
    let x := r.getD dev
    let mirrorEn := bit x 15
    let mirror := x / 256 % 64
    if dev = d.league.memberId then d.runHere ctx
    else if d.memberUp dev then
      if placedRead c.op || !mirrorEn then d.handTo ctx c dev
      else if d.memberUp mirror then d.relay ctx c dev (some mirror)
      else d.endUnavailable ctx mirror
    else if placedRead c.op && mirrorEn && d.memberUp mirror then d.handTo ctx c mirror
    else d.endUnavailable ctx dev

/-- End a placement whose search cannot be used (R298, R306, R320). -/
def Dev.placeOff (d : Dev) (ctx dom : Nat) : Dev :=
  let d := { d with rod := { d.rod with
    waiting := d.rod.waiting.filter fun (w : Nat × Nat) => w.1 != ctx
    found := d.rod.found.filter fun (x : Nat × Nat × Option Nat) => x.1 != ctx } }
  match d.flight ctx with
  | some f => if f.job = .placing then (d.count (lgeCnt 0)).finish ctx stResourceOff 0 dom else d
  | none => d

/-- One search of a command has an outcome; once all have, the command is placed. -/
def Dev.placeFound (d : Dev) (ctx op : Nat) (r : Option Nat) : Dev :=
  match d.flight ctx with
  | none => d
  | some f =>
    if f.job ≠ .placing then d
    else
      let found := d.rod.found ++ [(ctx, op, r)]
      let mine := found.filter fun x => x.1 == ctx
      let words := (placementWords f.cmd).length
      if mine.length < words then { d with rod := { d.rod with found := found } }
      else
        let d := { d with rod := { d.rod with found := d.rod.found.filter fun (x : Nat × Nat × Option Nat) => x.1 != ctx } }
        let results := (List.range words).map fun i =>
          match mine.find? fun x => x.2.1 == i with
          | some x => x.2.2
          | none => none
        d.placeBy ctx f.cmd results

/-- Search one word of a command in the head's own banks while the cascade is not UP: no match ends it (R306), where a
cascade is expected. -/
def Dev.placeOwn (d : Dev) (ctx op word : Nat) : Dev :=
  let d := d.countSearch (d.search d.profile1 word)
  match d.ownSearch word with
  | .hit r => d.placeFound ctx op (some r)
  | .unusable dom => d.placeOff ctx dom
  | .miss => d.placeOff ctx 65

/-- Begin to place a dispatched command (R321). While the cascade is UP its words wait for Rod slots; else the head's
banks alone are searched. -/
def Dev.startPlacing (d : Dev) (ctx : Nat) : Dev :=
  match d.flight ctx with
  | none => d
  | some f =>
    let words := placementWords f.cmd
    let d := d.modFlight ctx fun f => { f with job := .placing }
    let idx := List.range words.length
    if d.rod.state = .up then
      { d with rod := { d.rod with waiting := d.rod.waiting ++ idx.map fun i => (ctx, i) } }
    else idx.foldl (fun (d : Dev) i => d.placeOwn ctx i (words.getD i 0)) d

/-! ## The cascade's end (R306) -/

/-- The word of a waiting search. -/
def Dev.waitingWord (d : Dev) (w : Nat × Nat) : Nat :=
  match d.flight w.1 with
  | some f => (placementWords f.cmd).getD w.2 0
  | none => 0

/-- The cascade leaves UP: tokens out and words waiting end under R306. Causes: 0 ALIVE, 1 tokens, 2 clock, 3 power (log
entry 72). -/
def Dev.rodDown (d : Dev) (next : RodState) (cause : Nat) : Dev :=
  let wasUp := d.rod.state == .up
  let out := d.rod.flights
  let wait := d.rod.waiting
  let d := { d with rod := { d.rod with state := next, flights := [], waiting := [], words := [], lostRow := 0, full := false } }
  let d := out.foldl (fun (d : Dev) (s : RodSearch) => if s.own then d else d.placeOff s.ctx 65) d
  let d := wait.foldl (fun (d : Dev) (w : Nat × Nat) => d.placeOwn w.1 w.2 (d.waitingWord w)) d
  if wasUp then (d.raise (irqRod 1)).log evRodDown (be 1 cause) else d

end Sys2Proof.Machine
end

