-- ==== Sys2Proof/Machine/LeagueOps.lean ====
section
/-! DEFINITION. The League engine's requests and answers, the directory, and the timers of joins and keepalives (R314 to
R320, R323, R325 to R328). -/

set_option cleanup.letToHave false

namespace Sys2Proof.Machine

/-! ## The head's side (R315 to R317, R319) -/

/-- The IP address of a member as 16 bytes. -/
def memberIp16 (ip4 ip6 : Nat) : Bytes := if ip4 = 0 then be 16 ip6 else ip16 false ip4

/-- A member enters UP (R317). -/
def Dev.memberUpNow (d : Dev) (id : Nat) : Dev :=
  match d.lge.members.find id with
  | none => d
  | some m =>
    let d := { d with lge := { d.lge with members := d.lge.members.put id { m with state := .up } } }
    (d.raise (irqLge 1)).log evMemberUp (be 1 id ++ be 1 m.role ++ memberIp16 m.ipv4 m.ipv6)

/-- Refuse a join (R315). -/
def Dev.refuseJoin (d : Dev) (ctx id : Nat) (ip : Bytes) (status detail : Nat) : Dev :=
  ((d.raise (irqLge 2)).log evJoinRefused (be 1 id ++ ip ++ be 2 status)).finish ctx status 0 detail

/-- The value and mask bytes of an entry in LG_DIR_SET: width / 8 bytes each (R314). -/
def entryBytes (w : Nat) (e : MatEntry) : Bytes := be (w / 8) e.value ++ be (w / 8) e.mask

/-- An LG_DIR_SET request for an entry, or its removal. -/
def Dev.dirSetReq (d : Dev) (gen bank index : Nat) (e : MatEntry) (clear : Bool) : Bytes :=
  let w := widthBits (d.mat.width bank)
  let param := be 8 gen ++ be 1 bank ++ zeros 1 ++ be 2 index ++ be 4 e.result ++ be 1 (b2n clear) ++ zeros 3
  requestBytes 0x6A 0 0 0 param [] (if clear then zeros (w / 4) else entryBytes w e)

/-- The LG_DIR_SET that closes a portion. -/
def dirCloseReq (gen : Nat) : Bytes := requestBytes 0x6A 0 0 0 (be 8 gen ++ be 1 0xFF ++ zeros 11) [] []

/-- The index of an entry in its bank from its address. -/
def Dev.indexOf (d : Dev) (a : Nat) : Nat := a % 4096 / (widthBits (d.mat.width (a / 4096)) / 80)

/-- Send a deputy its whole portion of the directory, closed by BANK 0xFF (R315). -/
def Dev.sendPortion (d : Dev) (id pos : Nat) : Dev :=
  let mine := d.lge.dir.filter fun p => p.1 / 2 ^ 17 == pos
  let d := mine.foldl (fun (d : Dev) (p : Nat × MatEntry) =>
    let a := p.1 % 2 ^ 17
    d.leagueQueue (.toMember id) (d.dirSetReq d.lge.dirGen (a / 4096) (d.indexOf a) p.2 false) (.dirSet false)) d
  d.leagueQueue (.toMember id) (dirCloseReq d.lge.dirGen) (.dirSet true)

/-- LG_JOIN on the head (R315, R317). -/
def Dev.join (d : Dev) (ctx : Nat) (c : Cmd) : Dev :=
  let p := c.param
  let (id, role, pos, gen) := (num p 0 1, num p 1 1, num p 2 1, num p 4 8)
  let (port, ip4, ip6) := (num p 12 2, num p 16 4, num p 20 16)
  let ip := memberIp16 ip4 ip6
  let ok := fun (d : Dev) => d.finishOk ctx 0 (be 8 d.lge.dirGen) []
  let old := d.lge.members.find id
  let held : Bool := match old with
    | some m => (m.state == .up || m.state == .joining)
    | none => false
  let same : Bool := match old with
    | some m => m.ipv4 == ip4 && m.ipv6 == ip6
    | none => false
  let deputy : Bool := role == 2 && gen != d.lge.dirGen
  if d.league.role ≠ 1 then d.finish ctx stNotAuthorised 0 0
  else if id = d.league.memberId ∨ (held ∧ !same) then d.refuseJoin ctx id ip stExists id
  else if role = 2 ∧ (pos = 0 ∨ d.rod.deputies < pos) then d.refuseJoin ctx id ip stNotAuthorised 0
  else if held then
    let again := fun (m : Member) => { m with inSess := some c.session }
    let d := ok { d with lge := { d.lge with members := d.lge.members.mod id again } }
    if deputy then d.sendPortion id pos else d
  else
    let m : Member :=
      { state := if deputy then .joining else .absent, role := role, pos := pos, missed := 0, heardAt := none, flags := 0,
        ipv4 := ip4, ipv6 := ip6, port := port, inSess := some c.session, outSess := none, leaving := none }
    let d := ok { d with lge := { d.lge with members := d.lge.members.put id m } }
    if deputy then d.sendPortion id pos else (d.memberUpNow id).openLeague (.toMember id) []

/-- LG_KEEPALIVE on the head (R316). -/
def Dev.keepalive (d : Dev) (ctx : Nat) (c : Cmd) : Dev :=
  if d.league.role ≠ 1 then d.finish ctx stNotAuthorised 0 0
  else
    let f := fun (m : Member) => { m with missed := 0, heardAt := some d.cycles, flags := num c.param 1 1 }
    ({ d with lge := { d.lge with members := d.lge.members.mod (num c.param 0 1) f } }).finish ctx stOk 0 0

/-- A member has left: both sessions are closed and LG_LEAVE is answered (R317). -/
def Dev.leaveNow (d : Dev) (id : Nat) : Dev :=
  match d.lge.members.find id with
  | none => d
  | some m =>
    let d := { d with lge := { d.lge with
      members := d.lge.members.put id { m with state := .left, inSess := none, outSess := none, leaving := none } } }
    let d := match m.leaving with
      | some ctx => d.finish ctx stOk 0 0
      | none => d
    let close := fun (d : Dev) (s : Option Nat) =>
      match s with
      | some sid => (d.sendPlain sid 8 (zeros 4)).endSession sid
      | none => d
    close (close d m.inSess) m.outSess

/-- A member that is leaving leaves once nothing relayed to it is unanswered (R317, R330). -/
def Dev.leaveIfDone (d : Dev) (id : Nat) : Dev :=
  match d.lge.members.find id with
  | some m => if m.leaving.isSome ∧ (d.memberWaits id).isEmpty then d.leaveNow id else d
  | none => d

/-- LG_LEAVE on the head (R317). -/
def Dev.leave (d : Dev) (ctx : Nat) (c : Cmd) : Dev :=
  let id := num c.param 0 1
  match d.lge.members.find id with
  | none => d.finish ctx stNotAuthorised 0 0
  | some m =>
    if d.league.role ≠ 1 ∨ m.state ≠ .up then d.finish ctx stNotAuthorised 0 0
    else
      let d := { d with lge := { d.lge with members := d.lge.members.put id { m with leaving := some ctx } } }
      (d.modFlight ctx fun f => { f with job := .closed }).leaveIfDone id

/-- Send LG_FENCE to every member in UP; the directory change is over (R319). -/
def Dev.fenceAll (d : Dev) : Dev :=
  let req := requestBytes 0x6B 0 0 0 (be 8 d.lge.dirGen ++ be 8 d.now) [] []
  let ups := (d.lge.members.filter fun p => p.2.state == .up).map (·.1)
  let d := ups.foldl (fun (d : Dev) id => (d.count (lgeCnt 9)).leagueQueue (.toMember id) req .fence) d
  { d with lge := { d.lge with busy := false, fenceTime := max d.lge.fenceTime d.now } }

/-- Whether a SESSION entry stands at an address. -/
def Dev.sessionAt (d : Dev) (a : Nat) : Bool :=
  match d.mat.entries.find a with
  | some e => e.result / 2 ^ 28 == 1
  | none => false

/-- The cause that keeps a directory change from being made, 0 for none (R319, R300). -/
def Dev.dirErr (d : Dev) (pos bank index : Nat) (e : MatEntry) (clear : Bool) : Nat :=
  let deputy := d.lge.members.any fun p => p.2.role == 2 && p.2.pos == pos && p.2.state == .up
  if d.league.role ≠ 1 then 7
  else if pos ≠ 0 ∧ !deputy then 6
  else if bankCapacity (d.mat.width bank) ≤ index then 1
  else if pos = 0 ∧ bank < 4 ∧ d.sessionAt (d.mat.addr bank index) then 2
  else if clear then (if pos = 0 ∧ !d.domOn (bankDomain bank) then 5 else 0)
  else if (e.value &&& e.mask) ≠ e.value then 3
  else if bank < 4 ∨ !ruleResultOk e.result then 4
  else if pos = 0 ∧ !d.domOn (bankDomain bank) then 5
  else 0

/-- A directory change by LGE_DIR_CTL (R319): the stored directory, DIR_GEN, the array or the deputy, the fence. -/
def Dev.dirChange (d : Dev) (clear : Bool) (session pos bank index : Nat) (e : MatEntry) : Dev :=
  if d.lge.busy then d
  else
    let err := d.dirErr pos bank index e clear
    if err ≠ 0 then { d with lge := { d.lge with err := err } }
    else
      let a := d.mat.addr bank index
      let k := pos * 2 ^ 17 + a
      let gen := d.lge.dirGen + 1
      let d := { d with lge := { d.lge with
        err := 0, dirGen := gen, dirStored := true, busy := true
        dir := if clear then d.lge.dir.del k else d.lge.dir.put k e } }
      let d := d.log evDirSet (be 8 gen ++ be 1 pos ++ be 1 bank ++ be 2 index ++ be 2 session)
      if pos = 0 then
        let d := { d with lge := { d.lge with lostRules := d.lge.lostRules.filter fun (p : Nat × MatEntry) => p.1 != a } }
        (if clear then d.entryDel a else d.entryPut a e).fenceAll
      else
        match d.lge.members.first fun _ m => m.role == 2 && m.pos == pos && m.state == .up with
        | some (id, _) => d.leagueQueue (.toMember id) (d.dirSetReq gen bank index e clear) (.dirSet false)
        | none => d

/-! ## The deputy's and member's side (R315, R318 to R320, R323) -/

/-- Drop the stored portion and every rule-bank entry, before a new portion comes. -/
def Dev.dropPortion (d : Dev) : Dev :=
  { d with lge := { d.lge with dir := [], busy := true },
           mat := { d.mat with entries := d.mat.entries.keep fun a _ => a / 4096 < 4 } }

/-- LG_DIR_SET on a deputy (R319): the entry is stored and written, or the portion is closed. -/
def Dev.dirSet (d : Dev) (ctx : Nat) (c : Cmd) : Dev :=
  let p := c.param
  let (gen, bank, index, result, clear) := (num p 0 8, num p 8 1, num p 10 2, num p 12 4, bit (num p 16 1) 0)
  let w := widthBits (d.mat.width bank)
  if d.league.role ≠ 2 then d.finish ctx stNotAuthorised 0 0
  else if bank = 0xFF then
    ({ d with lge := { d.lge with dirGen := gen, headGen := gen, busy := false, dirStored := true } }).finish ctx stOk 0 0
  else if c.value.length ≠ w / 4 then d.finish ctx stMalformed 0 1
  else
    let e : MatEntry := ⟨num c.value 0 (w / 8), num c.value (w / 8) (w / 8), result⟩
    let err := if clear then (if bankCapacity (d.mat.width bank) ≤ index then 1
        else if bank < 4 ∧ d.sessionAt (d.mat.addr bank index) then 2
        else if !d.domOn (bankDomain bank) then 5 else 0)
      else d.entryErr bank index e.value e.mask result
    if err ≠ 0 then d.finish ctx stOk 0 err
    else
      let a := d.mat.addr bank index
      let k := d.league.rodPos * 2 ^ 17 + a
      let d := { d with lge := { d.lge with
        headGen := gen, dirGen := if d.lge.busy then d.lge.dirGen else gen, dirStored := true
        dir := if clear then d.lge.dir.del k else d.lge.dir.put k e
        lostRules := d.lge.lostRules.filter fun (p : Nat × MatEntry) => p.1 != a } }
      (if clear then d.entryDel a else d.entryPut a e).finish ctx stOk 0 0

/-- LG_FENCE on a member: ticket sessions are killed and FENCE_TIME rises (R323). -/
def Dev.fence (d : Dev) (ctx : Nat) (c : Cmd) : Dev :=
  if d.league.role = 0 ∨ d.league.role = 1 then d.finish ctx stNotAuthorised 0 0
  else
    let t := num c.param 8 8
    let d := ({ d with lge := { d.lge with fenceTime := max d.lge.fenceTime t } }).count (lgeCnt 9)
    let mine := (d.sess.filter fun p => p.2.ticket).map (·.1)
    (mine.foldl (fun (d : Dev) sid => d.loseSession sid stNotAuthorised) d).finish ctx stOk 0 0

/-- The LG_JOIN request of this device (R314). -/
def Dev.joinReq (d : Dev) : Bytes :=
  let l := d.league
  let own := d.upPort.bind d.portCfg
  let (a4, a6) := match own with
    | some c => (c.ipv4, c.ipv6)
    | none => (0, 0)
  requestBytes 0x68 0 0 0 (be 1 l.memberId ++ be 1 l.role ++ be 1 l.rodPos ++ zeros 1 ++ be 8 d.lge.dirGen ++
    be 2 (d.regF 0x20000 31 16) ++ zeros 2 ++ be 4 a4 ++ be 16 a6) [] []

/-- Send LG_JOIN on an open session to the head (R315). -/
def Dev.sendJoin (d : Dev) : Dev :=
  match d.readyTo .toHead with
  | some sid =>
    if d.lge.calls.any fun c => c.kind == .join then d
    else ({ d with lge := { d.lge with head := .joining } }).leagueSend sid d.joinReq .join
  | none => d

/-- Whether this device joins a head. -/
def Dev.joins (d : Dev) : Bool := d.league.role == 2 || d.league.role == 3

/-- Open the League sessions that are due: those of queued requests, to the head and, on a head, to its members (R315). -/
def Dev.openDue (d : Dev) : Dev :=
  let d := d.leaguePump
  let d := if d.joins ∧ d.lge.head ≠ .up then
      if (d.sessionTo .toHead).isSome then d.sendJoin else d.openLeague .toHead []
    else d
  let lone := (d.lge.members.filter fun p => (p.2.state == .up || p.2.state == .joining) &&
    (d.sessionTo (.toMember p.1)).isNone).map (·.1)
  if d.league.role = 1 then lone.foldl (fun (d : Dev) id => d.openLeague (.toMember id) []) d else d

/-- Try what has not come about again: the open or join to the head, and the opens of other League sessions (R315). -/
def Dev.joinRetry (d : Dev) : Dev :=
  let stale := d.lge.targets.filter fun t =>
    match d.session t.1 with
    | some s => s.state == .opening || s.state == .challenged
    | none => true
  (stale.foldl (fun (d : Dev) t => (d.dropSession t.1).1.dropCalls t.1) d).openDue

/-- The answer to a request for a peer's link-layer address, taken on the port that League traffic uses: the opens that
waited for it go on (R312, R315). -/
def Dev.resolved (d : Dev) (port sc : Nat) (v6 : Bool) (ip mac : Nat) : Dev :=
  if d.upPort = some port ∧ d.lge.asked.contains (v6, ip) then
    let known := d.lge.neighbours.filter fun (a : Neighbour) => !(a.v6 == v6 && a.ip == ip)
    ({ d with lge := { d.lge with
        asked := d.lge.asked.filter fun (a : Bool × Nat) => a != (v6, ip)
        neighbours := known ++ [Neighbour.mk v6 ip sc mac] } }).openDue
  else d

/-- Send LG_KEEPALIVE to the head (R316). -/
def Dev.keepaliveSend (d : Dev) : Dev :=
  match d.readyTo .toHead with
  | some sid =>
    if d.joins ∧ d.lge.head = .up then
      let st := b2n d.pins.ready + 2 * b2n d.fmm.exhausted + 4 * b2n d.sec.locked
      d.leagueSend sid (requestBytes 0x69 0 0 0 (be 1 d.league.memberId ++ be 1 st ++ zeros 2) [] []) .keepalive
    else d
  | none => d

/-- A 10 ms period passed without a member's keepalive; one taken in the same core cycle keeps it (R15, R316). -/
def Dev.keepaliveMiss (d : Dev) (id : Nat) : Dev :=
  match d.lge.members.find id with
  | none => d
  | some m =>
    if d.league.role = 1 ∧ m.heardAt ≠ some d.cycles ∧ (m.state = .up ∨ m.state = .joining) then
      let d := ({ d with lge := { d.lge with members := d.lge.members.put id { m with missed := m.missed + 1 } } }).count (lgeCnt 8)
      if 5 ≤ m.missed + 1 then d.memberLost id 0 else d
    else d

/-! ## Answers (R315, R319, R325 to R328) -/

/-- The member that a session of this device leads to. -/
def Dev.memberOf (d : Dev) (sid : Nat) : Option (Nat × Member) :=
  match d.targetOf sid with
  | some (.toMember id) => (d.lge.members.find id).map fun m => (id, m)
  | _ => none

/-- The answer to a join (R315, R318, R320). -/
def Dev.joined (d : Dev) (msg : Bytes) : Dev :=
  if num msg 1 1 = stOk then
    let gen := num msg 24 8
    let d := { d with lge := { d.lge with head := .up, headGen := gen } }
    if d.league.role = 2 ∧ gen ≠ d.lge.dirGen then d.dropPortion else d
  else { d with lge := { d.lge with head := .none } }

/-- The answer to an LG_DIR_SET: a portion's end brings the deputy UP; a change's end brings the fence (R317, R319). The ERR
that a deputy answers with shows in LGE_DIR_CTL: DEDUCED (log entry 55). -/
def Dev.dirAnswered (d : Dev) (sid : Nat) (closing : Bool) (msg : Bytes) : Dev :=
  match d.memberOf sid with
  | some (id, m) =>
    if closing then (if num msg 1 1 = stOk ∧ m.state = .joining then d.memberUpNow id else d)
    else if m.state = .up ∧ d.lge.busy then ({ d with lge := { d.lge with err := num msg 16 8 % 16 } }).fenceAll
    else d
  | none => d

/-- A relayed command's response goes to the host with its own TAG (R325). -/
def Dev.relayAnswered (d : Dev) (ctx member : Nat) (msg : Bytes) : Dev :=
  (((d.countStatus (num msg 1 1)).finishWith ctx msg).leaveIfDone member).flushesDone

/-- The mirror's answer to a replication (R327, R328). -/
def Dev.replicaAnswered (d : Dev) (ctx id : Nat) (msg : Bytes) : Dev :=
  let status := num msg 1 1
  if status ≠ stOk then d.mirrorFail ctx id status
  else
    match (d.flight ctx).bind Flight.write with
    | some w => (d.count (lgeCnt 5)).ackWrite ctx w
    | none => d

/-- A whole answer has come on a session that this device opened: relays and replications wait for their own commands,
the others are acted on at once. -/
def Dev.leagueAnswer (d : Dev) (sid tag : Nat) (msg : Bytes) : Dev :=
  match d.lge.calls.find? fun c => c.session == sid && c.tag == tag with
  | none => d
  | some c =>
    let done := { d with lge := { d.lge with calls := d.lge.calls.erase c } }
    match c.kind with
    | .relay _ _ => d.modSess sid fun s => { s with answers := s.answers ++ [(tag, msg)] }
    | .replicate _ _ => d.modSess sid fun s => { s with answers := s.answers ++ [(tag, msg)] }
    | .join => done.joined msg
    | .dirSet closing => done.dirAnswered sid closing msg
    | .flush _ m => (done.leaveIfDone m).flushesDone
    | _ => done

/-- Take a relay's or a replication's answer out of its session, with what it serves. -/
def Dev.takeAnswer (d : Dev) (sid tag : Nat) : Option (CallKind × Bytes × Dev) :=
  match d.session sid, d.lge.calls.find? fun c => c.session == sid && c.tag == tag with
  | some s, some c =>
    (s.answers.find? fun a => a.1 == tag).map fun a =>
      (c.kind, a.2, { (d.modSess sid fun s => { s with answers := s.answers.erase a }) with
        lge := { d.lge with calls := d.lge.calls.erase c } })
  | _, _ => none

/-- Send a host's FLUSH on to the members that hold its relayed writes (R326). -/
def Dev.flushMembers (d : Dev) (ctx session : Nat) : Dev :=
  let ids := (d.lge.relayed.filter fun p => p.1 == session).map (·.2)
  let d := { d with lge := { d.lge with relayed := d.lge.relayed.filter fun (p : Nat × Nat) => p.1 != session } }
  if d.league.role = 1 ∧ d.league.mode = 1 then
    ids.foldl (fun (d : Dev) id => d.leagueQueue (.toMember id) (requestBytes 0x38 0 0 0 [] [] []) (.flush ctx id)) d
  else d

end Sys2Proof.Machine
end

