-- ==== Sys2Proof/Machine/RodOps.lean ====
section
/-! DEFINITION. The match array's registers and scrubber, and the Rod bus (R299 to R310, R320). -/

set_option cleanup.letToHave false

namespace Sys2Proof.Machine

/-! ## Entries through the registers (R300, R309) -/

/-- Ten consecutive registers as one 320-bit number, the first the most significant. -/
def Dev.wide (d : Dev) (base : Nat) : Nat := ((List.range 10).map fun k => d.regN (base + 4 * k)).foldl (fun a w => a * 2 ^ 32 + w) 0

/-- Set ten consecutive registers from a 320-bit number. -/
def Dev.setWide (d : Dev) (base v : Nat) : Dev :=
  (List.range 10).foldl (fun (d : Dev) k => d.setRegN (base + 4 * k) (v / 2 ^ (288 - 32 * k) % 2 ^ 32)) d

/-- The bank and index that MAT_ENT_SEL selects. -/
def Dev.entSel (d : Dev) : Nat × Nat := (d.regF 0x80020 20 16, d.regF 0x80020 11 0)

/-- The entry that the data registers hold, at a bank's width. -/
def Dev.entData (d : Dev) (bank : Nat) : MatEntry :=
  let w := widthBits (d.mat.width bank)
  ⟨d.wide 0x80040 >>> (320 - w), d.wide 0x80080 >>> (320 - w), d.regN 0x80028⟩

/-- Note the outcome of an entry access. -/
def Dev.entDone (d : Dev) (err : Nat) (valid : Bool) : Dev := { d with mat := { d.mat with entErr := err, entValid := valid } }

/-- A lost rule entry is lost no longer once it is written. -/
def Dev.ruleWritten (d : Dev) (a : Nat) : Dev :=
  { d with lge := { d.lge with lostRules := d.lge.lostRules.filter fun (p : Nat × MatEntry) => p.1 != a } }

/-- MAT_ENT_CTL.WRITE (R300). -/
def Dev.entWrite (d : Dev) : Dev :=
  let (bank, index) := d.entSel
  let e := d.entData bank
  let err := d.entryErr bank index e.value e.mask e.result
  if err ≠ 0 then d.entDone err d.mat.entValid
  else
    let a := d.mat.addr bank index
    ((d.entryPut a e).ruleWritten a).entDone 0 d.mat.entValid

/-- MAT_ENT_CTL.READ (R309). -/
def Dev.entRead (d : Dev) : Dev :=
  let (bank, index) := d.entSel
  if bankCapacity (d.mat.width bank) ≤ index then d.entDone 1 false
  else
    let w := widthBits (d.mat.width bank)
    match d.mat.entries.find (d.mat.addr bank index) with
    | none => (((d.setWide 0x80040 0).setWide 0x80080 0).setRegN 0x80028 0).entDone 0 false
    | some e =>
      (((d.setWide 0x80040 (e.value <<< (320 - w))).setWide 0x80080 (e.mask <<< (320 - w))).setRegN 0x80028 e.result).entDone
        0 true

/-- MAT_ENT_CTL.CLEAR (R300). -/
def Dev.entClear (d : Dev) : Dev :=
  let (bank, index) := d.entSel
  let a := d.mat.addr bank index
  let old : Option Nat := (d.mat.entries.find a).map fun e => e.result / 2 ^ 28
  if bankCapacity (d.mat.width bank) ≤ index then d.entDone 1 d.mat.entValid
  else if bank < 4 ∧ old = some 1 then d.entDone 2 d.mat.entValid
  else if !d.domOn (bankDomain bank) then d.entDone 5 d.mat.entValid
  else ((d.entryDel a).ruleWritten a).entDone 0 d.mat.entValid

/-- A write of MAT_ENT_CTL: the lowest of its bits that is set acts (log entry 73). -/
def Dev.entCtl (d : Dev) (w : Nat) : Dev :=
  if bit w 0 then d.entWrite else if bit w 1 then d.entRead else if bit w 2 then d.entClear else d

/-- MAT_SRCH_CTL.GO: a diagnostic search (R298, R299). -/
def Dev.diagSearch (d : Dev) : Dev :=
  let banks := if d.regF 0x800E8 2 1 = 3 then d.regN 0x8001C else d.regN 0x80018
  let f := d.search banks (d.wide 0x800C0)
  let d := d.countSearch f
  match f.win with
  | some (a, e) =>
    { d with mat := { d.mat with srchHit := true, srchMulti := f.multi, srchResult := e.result, srchAddr := a } }
  | none => { d with mat := { d.mat with srchHit := false, srchMulti := false, srchResult := 0, srchAddr := 0 } }

/-! ## Scrubbing (R301, R320) -/

/-- The next unit from `u` on whose bank is ON; `u` itself where none is. -/
def Dev.scrubUnit (d : Dev) (u : Nat) : Nat :=
  if d.domOn (bankDomain (u / 4096)) then u
  else
    match (List.range 32).find? fun i => d.domOn (bankDomain ((u / 4096 + i) % 32)) with
    | some i => (u / 4096 + i) % 32 * 4096
    | none => u

/-- The address of the valid entry that covers a unit. -/
def Dev.entryAt (d : Dev) (u : Nat) : Option (Nat × MatEntry) :=
  let bank := u / 4096
  let stride := widthBits (d.mat.width bank) / 80
  let a := bank * 4096 + u % 4096 / stride * stride
  (d.mat.entries.find a).map fun e => (a, e)

/-- An entry whose shadow cannot be corrected is lost (R301): a SESSION entry ends its session, a rule entry of the
stored directory waits to be rewritten. -/
def Dev.loseEntry (d : Dev) (a : Nat) (e : MatEntry) : Dev :=
  let bank := a / 4096
  let d := { d with mat := { d.mat with entries := d.mat.entries.del a } }
  let d := ((d.count (matCnt 5)).raise (irqMat 1)).log evEntryLost (be 1 bank ++ be 2 (d.indexOf a) ++ be 1 (e.result / 2 ^ 28))
  if bank < 4 then
    if e.result / 2 ^ 28 = 1 then d.loseSession (e.result % 4096) stNotAuthorised else d
  else if (d.lge.dir.find (d.league.rodPos * 2 ^ 17 + a)).isSome then
    { d with lge := { d.lge with lostRules := d.lge.lostRules ++ [(a, e)] } }
  else d

/-- One step of the scrubber (R301). -/
def Dev.scrubStep (d : Dev) (r : ScrubRead) : Dev :=
  let u := d.scrubUnit d.mat.scrub
  if !d.domOn (bankDomain (u / 4096)) then d
  else
    let d := { d with mat := { d.mat with scrub := (u + 1) % 131072 } }
    match r with
    | .same => d
    | .differs => ((d.count (matCnt 4)).raise (irqMat 0)).logLimited evScrubFix 64 fun _ => be 4 u
    | .shadowLost =>
      match d.entryAt u with
      | some (a, e) => d.loseEntry a e
      | none => d

/-- A lost rule entry is rewritten from the stored portion (R320). -/
def Dev.dirRestore (d : Dev) (a : Nat) : Dev :=
  match d.lge.dir.find (d.league.rodPos * 2 ^ 17 + a) with
  | some e =>
    if d.lge.lostRules.any fun p => p.1 == a then
      (((d.entryPut a e).ruleWritten a).raise (irqLge 5)).log evDirRestored (be 1 (a / 4096) ++ be 2 (d.indexOf a))
    else d
  | none => d

/-! ## The Rod bus (R303 to R307) -/

/-- ROD_CTL.ROLE. -/
def Dev.rodRole (d : Dev) : Nat := d.regF 0x90000 7 6

/-- Change the Rod bus. -/
def Dev.modRod (d : Dev) (f : Rod → Rod) : Dev := { d with rod := f d.rod }

/-- The line check begins with the discovery token, in which the head has set bit 0 (R306, R307). -/
def Dev.startCheck (d : Dev) : Dev :=
  (d.modRod fun r => { r with state := .check, wordOut := none, tokenOut := 1, disc := none, ringOk := false }).count (rodCnt 5)

/-- The token of a search as the head sends it: its own match, at position 0, or a fault (R298, R304). -/
def ownToken (x : OwnSearch) : Nat :=
  match x with
  | .hit r => 2 ^ 19 + r % 65536
  | .unusable _ => 2 ^ 18
  | .miss => 0

/-- The head sends the next word, unless ROD_FULL holds it (R303, R305). -/
def Dev.sendWord (d : Dev) : Dev :=
  match d.rod.waiting with
  | [] => d.modRod fun r => { r with wordOut := none }
  | w :: rest =>
    if d.rod.full then (d.modRod fun r => { r with wordOut := none }).count (rodCnt 4)
    else
      let word := d.waitingWord w
      let token := ownToken (d.ownSearch word)
      let d := (d.modRod fun r => { r with waiting := rest, wordOut := some word, tokenOut := token }).count (rodCnt 0)
      let d := d.countSearch (d.search d.profile1 word)
      match d.ownSearch word with
      | .hit x => (d.modRod fun r => { r with flights := r.flights ++ [⟨w.1, w.2, true⟩] }).placeFound w.1 w.2 (some x)
      | .unusable dom => (d.modRod fun r => { r with flights := r.flights ++ [⟨w.1, w.2, true⟩] }).placeOff w.1 dom
      | .miss => d.modRod fun r => { r with flights := r.flights ++ [⟨w.1, w.2, false⟩] }

/-- A deputy takes a word into its queue of 16; at 12 it pulls ROD_FULL low (R305). -/
def Dev.takeWord (d : Dev) (word : Nat) : Dev :=
  if 16 ≤ d.rod.words.length then d
  else (d.modRod fun r => { r with words := r.words ++ [word], full := r.full || 12 ≤ r.words.length + 1 }).count (rodCnt 0)

/-- A 50 ns slot begins (R303): the head sends, a deputy receives the word that the slot carries. -/
def Dev.rodSlot (d : Dev) (word : Option Nat) : Dev :=
  if d.rod.state ≠ .up then d
  else if d.rodRole = 1 then d.sendWord
  else if d.rodRole = 2 then
    match word with
    | some w => d.takeWord w
    | none => d
  else d

/-- A token returns to the head (R304, R306); in a line check, once those of the searches are back, it is the discovery
token (R307). -/
def Dev.tokenHome (d : Dev) (t : Nat) : Dev :=
  match d.rod.flights with
  | [] =>
    if d.rod.state = .check ∧ d.rod.disc.isNone then d.modRod fun r => { r with disc := some t, ringOk := true } else d
  | s :: rest =>
    let d := d.modRod fun r => { r with flights := rest, lostRow := 0 }
    let d := if bit t 19 then d.count (rodCnt 1) else d
    let d := if bit t 18 then d.count (rodCnt 2) else d
    if s.own then d
    else if bit t 19 then d.placeFound s.ctx s.op (some (t % 65536))
    else if bit t 18 then d.placeOff s.ctx 65
    else d.placeFound s.ctx s.op none

/-- The token that a deputy sends on for one that it received (R304, R320). -/
def Dev.tokenOn (d : Dev) (t word : Nat) : Nat :=
  if bit t 19 ∨ bit t 18 then t
  else if d.lge.headGen = 0 ∨ d.lge.dirGen ≠ d.lge.headGen then t + 2 ^ 18
  else
    match d.ownSearch word with
    | .hit r => t / 2 ^ 18 * 2 ^ 18 + 2 ^ 19 + d.league.rodPos * 2 ^ 16 + r % 65536
    | .unusable _ => t + 2 ^ 18
    | .miss => t

/-- The discovery token as a deputy sends it on: its own position's bit set, and FAULT unless exactly the lower ones were
(R307). -/
def discoveryOn (t pos : Nat) : Nat := t ||| 2 ^ pos ||| (if t % 65536 = 2 ^ pos - 1 then 0 else 2 ^ 18)

/-- A token arrives at a deputy: it goes on, with the deputy's own match or fault (R304, R305). In a line check the first is
the discovery token (R307). -/
def Dev.tokenPass (d : Dev) (t : Nat) : Dev :=
  if d.rod.state = .check ∧ !d.rod.ringOk then
    d.modRod fun r => { r with ringOk := true, tokenOut := discoveryOn t d.league.rodPos }
  else
  match d.rod.words with
  | [] => d.modRod fun r => { r with tokenOut := t }
  | w :: rest =>
    let out := d.tokenOn t w
    (d.countSearch (d.search d.profile1 w)).modRod fun r =>
      { r with words := rest, tokenOut := out, full := r.full && 4 < rest.length }

/-- A token arrives on MATCH_IN. -/
def Dev.rodToken (d : Dev) (t : Nat) : Dev :=
  if d.rodRole = 1 then d.tokenHome (t % 2 ^ 20) else if d.rodRole = 2 then d.tokenPass (t % 2 ^ 20) else d

/-- A search's token is lost; the third in a row takes the cascade down (R306). -/
def Dev.tokenLost (d : Dev) : Dev :=
  match d.rod.flights with
  | [] => d
  | s :: rest =>
    let n := d.rod.lostRow + 1
    let d := (d.modRod fun r => { r with flights := rest, lostRow := n }).count (rodCnt 3)
    let d := (d.raise (irqRod 3)).logLimited evTokenLost 1 fun k => be 4 k
    let d := if s.own then d else d.placeOff s.ctx 65
    if 3 ≤ n ∧ d.rod.state = .up then (d.rodDown .down 1).modRod fun r => { r with alive := false } else d

/-- ROD_ALIVE has been high for 1 ms (R306). -/
def Dev.aliveUp (d : Dev) : Dev :=
  let d := d.modRod fun r => { r with alive := true, clkOk := r.clkOk || !r.alive }
  if d.rod.state = .down then
    (if d.rodRole = 1 then d.startCheck else d.modRod fun r => { r with state := .check, ringOk := false })
  else d

/-- ROD_ALIVE is low (R306). -/
def Dev.aliveLow (d : Dev) : Dev :=
  let d := d.modRod fun r => { r with alive := false }
  if d.rod.state = .up then d.rodDown .down 0 else d

/-- A deputy sees no ROD_CLK edge for 100 ns: in UP it pulls ROD_ALIVE low until the clock returns (R306). -/
def Dev.rodClkLost (d : Dev) : Dev :=
  if d.rodRole = 2 then
    let d := d.modRod fun r => { r with clkOk := false }
    if d.rod.state = .up then (d.modRod fun r => { r with alive := false }).rodDown .down 2 else d
  else d

/-- ROD_CTL.CHECK on the head (R306): tokens in flight finish, and the line check begins. -/
def Dev.rodCheck (d : Dev) : Dev :=
  if d.rodRole = 1 ∧ d.rod.state = .up then
    let out := d.rod.flights
    let wait := d.rod.waiting
    let d := (d.modRod fun r => { r with waiting := [] }).startCheck
    let d := wait.foldl (fun (d : Dev) (w : Nat × Nat) => d.placeOwn w.1 w.2 (d.waitingWord w)) d
    (d.modRod fun r => { r with flights := out }).raise (irqRod 1)
  else d

/-- The lines whose walking patterns line `l` follows, from the 34 samples that a deputy returned: it reads 1 in the walking
one of the line, or 0 in its walking zero (R307). Bits 0 to 15 of a sample are ROD_D0 to ROD_D15, bit 16 is ROD_STB. -/
def follows (samples : List Nat) (l : Nat) : List Nat :=
  (List.range 17).filter fun p => bit (samples.getD p 0) l || !bit (samples.getD (17 + p) 0) l

/-- The grade of a line: PARTNER and CODE (R307); a line that follows several others names the lowest (log entry 87). -/
def gradeOf (samples : List Nat) (l : Nat) : Nat × Nat :=
  let reads := (List.range 34).map fun p => bit (samples.getD p 0) l
  let others := (follows samples l).filter fun p => p != l
  if reads.all not then (31, 1)
  else if reads.all id then (31, 2)
  else if others.isEmpty then (31, if (follows samples l).isEmpty then 1 else 0)
  else (others.headD 31, if (follows samples l).contains l then 3 else 4)

/-- What discovery gives: D, and the ring's code (R307). -/
def discovered (t : Option Nat) : Nat × Nat :=
  match t with
  | none => (0, 6)
  | some t =>
    let run := ((List.range 16).takeWhile fun i => bit t i).length
    (min 3 (run - 1), if t % 65536 = 2 ^ run - 1 ∧ 0 < run ∧ !bit t 18 then 0 else 5)

/-- What discovery and the tokens of the patterns give: D, and the ring's code. -/
def checked (t : Option Nat) (back : Bool) : Nat × Nat :=
  let found := discovered t
  (found.1, if found.2 = 0 ∧ !back then 6 else found.2)

/-- The lines of deputies 1 to `n` that are not OK: deputy, line, PARTNER, CODE. -/
def badLines (n : Nat) (samples : List (List Nat)) : List (Nat × Nat × Nat × Nat) :=
  (List.range n).flatMap fun k =>
    (List.range 17).filterMap fun l =>
      let g := gradeOf (samples.getD k []) l
      if g.2 = 0 then none else some (k + 1, l, g.1, g.2)

/-- The line check finishes (R306, R307): the head grades every line of the deputies that discovery found from the samples
they returned, and fails with RING where a token of the patterns did not come back; a deputy passes where it has seen the
discovery token (log entry 87). -/
def Dev.checkDone (d : Dev) (samples : List (List Nat)) (back : Bool) : Dev :=
  if d.rod.state ≠ .check then d
  else
    let head := d.rodRole == 1
    let (deputies, ring) := if head then checked d.rod.disc back else (0, if d.rod.ringOk then 0 else 6)
    let bad := if head && ring == 0 then badLines deputies samples else []
    let results := bad.foldl (fun (t : Tab Nat) l => t.put (l.1 * 32 + l.2.1) (l.2.2.1 * 8 + l.2.2.2)) []
    let d := d.modRod fun r => { r with deputies := deputies, ringCode := ring, results := results, lostRow := 0 }
    if ring = 0 ∧ bad.isEmpty then
      ((d.modRod fun r => { r with state := .up }).raise (irqRod 0)).log evRodUp (be 1 deputies)
    else
      let p := match bad with
        | l :: _ => be 1 l.1 ++ be 1 l.2.1 ++ be 1 l.2.2.2 ++ be 1 l.2.2.1
        | [] => be 1 0 ++ be 1 0 ++ be 1 ring ++ be 1 31
      ((d.modRod fun r => { r with state := .down }).raise (irqRod 2)).log evRodCheckFail p

/-- 10 s after a failed check the cascade tries again (R306). -/
def Dev.checkRetry (d : Dev) : Dev :=
  if d.rodRole = 1 ∧ d.rod.state = .down ∧ d.rod.alive then d.startCheck else d

/-- The cascade is released where the role takes part and ROD is ON (R306). -/
def Dev.rodStart (d : Dev) : Dev :=
  if (d.rodRole = 1 ∨ d.rodRole = 2) ∧ d.domOn 65 ∧ d.rod.state = .off then d.modRod fun r => { r with state := .down }
  else d

/-- The cascade goes OFF (R306). -/
def Dev.rodOff (d : Dev) : Dev := (d.rodDown .off 3).modRod fun r => { r with alive := false }

end Sys2Proof.Machine
end

