-- ==== Sys2Proof/Machine/TransportOps.lean ====
section
/-! DEFINITION. What Dialur Key Transport does with each packet and timer (R91 to R107, R313 to R315, R323, R324). -/

set_option cleanup.letToHave false

namespace Sys2Proof.Machine

/-! ## The session of a packet (R89) -/

/-- Whether a packet of a session carries its number and epoch, or the counter of its failure: 3 or 4 (R89, R91). -/
def Sess.wireErr (s : Sess) (h : DktHdr) : Option Nat :=
  if s.state = .opening then (if h.type = 3 ∨ h.type = 6 then none else some 3)
  else if h.session ≠ s.wireId then some 3
  else if h.epoch ≠ s.wireEpoch then some 4
  else none

/-- The session that a key belongs to. The classification word leaves the IPv4 destination address out, so a match of the
word is held against the whole key (R89, R296). -/
def Dev.keySession (d : Dev) (key : ClassKey) : Option Nat := (d.sess.first fun _ s => s.key == key).map (·.1)

/-- The session of a packet that comes out of the pool: the one that classification gave, where it is still the session of
the packet's key, number and epoch; else the counter of the drop (R89). -/
def Dev.sessionOf (d : Dev) (k : RxPkt) : Except Nat Nat :=
  match k.session with
  | none => .error 3
  | some sid =>
    match d.session sid with
    | none => .error 3
    | some s =>
      if s.key ≠ k.key then .error 3
      else
        match s.wireErr k.hdr with
        | some c => .error c
        | none => .ok sid

/-! ## Opens (R91 to R94, R104, R107, R313) -/

/-- Drop a packet that belongs to no session, counted (R89, R107). -/
def Dev.noSession (d : Dev) : Dev := d.count (dktCnt 3)

/-- Send CHALLENGE (R91). -/
def Dev.sendChallenge (d : Dev) (sid : Nat) : Dev :=
  match d.session sid with
  | some s => d.sendPacket sid { DktHdr.blank 3 with seq := s.devIsn } s.dn
  | none => d

/-- Allocate a session for an OPEN and challenge it (R90, R104). -/
def Dev.challenge (d : Dev) (sid : Nat) (k : RxPkt) (slot priv hostWin : Nat) (key : KeyGen) (league : Bool) : Dev :=
  let (epoch, d) := d.newEpoch sid
  let (dn, d) := d.draw 16
  let (isn, d) := d.draw 4
  let s := Sess.open_ k epoch (beVal isn) hostWin slot priv (slice k.payload 0 16) dn (some key)
  let d := { (d.classInstall k.key sid) with sess := d.sess.put sid { s with wireId := sid, league := league } }
  d.sendChallenge sid

/-- The credential key that an OPEN names: its privileges and current generation (R93, R216). -/
def Dev.credential (d : Dev) (slot : Nat) : Option (Nat × KeyGen) :=
  match d.sec.slots.find slot with
  | some k => if k.policy = 4 then k.gens.head?.map fun g => (k.priv, g) else none
  | none => none

/-- An OPEN from a tuple of no session (R93, R313). -/
def Dev.openNew (d : Dev) (k : RxPkt) : Dev :=
  let p := k.payload
  let (slot, priv, hostWin) := (num p 16 2, num p 18 1, num p 20 2)
  let ip := k.key.srcIp
  let fail := fun (cause : Nat) => (d.authFail slot cause k.key.v6 ip).refuseOpen k stNotAuthorised
  let winOk := 1 ≤ hostWin && hostWin ≤ 1024
  let openWith := fun (key : KeyGen) (league : Bool) =>
    match d.roomFor (bit priv 0) league k.key with
    | (none, d) => d.refuseOpen k stBusy
    | (some sid, d) =>
      if !winOk then d.refuseOpen k stMalformed else d.challenge sid k slot priv hostWin key league
  if d.league.role ≠ 0 ∧ slot = d.league.ticketSlot ∧ priv = 0x80 then
    match d.bindKey slot 3 with
    | none => fail 1
    | some key => if 256 ≤ d.halfOpen then d.refuseOpen k stBusy else openWith key true
  else
    match d.credential slot with
    | none => fail 1
    | some (granted, key) =>
      if priv = 0 ∨ 32 ≤ priv ∨ (priv &&& granted) ≠ priv then fail 2
      else if 256 ≤ d.halfOpen then d.refuseOpen k stBusy
      else openWith key false

/-- An OPEN packet, judged by the session that its key belongs to now (R93, R104, R107). One whose payload is not 32 bytes
is dropped as a bad header: DESIGN CHOICE (log entry 75). -/
def Dev.openPkt (d : Dev) (k : RxPkt) : Dev :=
  if k.payload.length ≠ 32 then d.count (dktCnt 2)
  else
    match d.keySession k.key with
    | none => d.openNew k
    | some sid =>
      match d.session sid with
      | some s => if s.state = .challenged ∧ !s.opener ∧ s.cn = slice k.payload 0 16 then d.sendChallenge sid else d.noSession
      | none => d.noSession

/-- Refuse a PROOF: REFUSE on the session, which is FREE again (R104). -/
def Dev.refuseProof (d : Dev) (sid status : Nat) : Dev :=
  ((d.sendPlain sid 6 (be 1 status ++ zeros 3)).count (dktCnt 13)).endSession sid

/-- A session is established (R104). -/
def Dev.established (d : Dev) (sid priv slotField : Nat) (accept : Bytes) : Dev :=
  let d := d.modSess sid fun s => { s with state := .established, priv := priv, bound := none, acceptPay := accept }
  match d.session sid with
  | some s =>
    let d := (d.sendPacket sid { DktHdr.blank 5 with seq := s.devIsn } accept).count (dktCnt 12)
    d.log evDktOpen (be 2 sid ++ be 1 s.epoch ++ be 1 priv ++ be 2 slotField)
  | none => d

/-- A PROOF packet (R92, R94, R104). -/
def Dev.proofPkt (d : Dev) (sid : Nat) (k : RxPkt) : Dev :=
    match d.session sid with
    | none => d
    | some s =>
      if s.opener then d
      else if s.state = .challenged then
        match s.bound with
        | none => d.refuseProof sid stKeyLost
        | some key =>
          if k.payload = proofOf key.key s.cn s.dn s.epoch sid s.slot s.privReq s.hostIsn then
            let proof := dproofOf key.key s.dn s.cn s.epoch sid s.privReq s.devIsn
            d.established sid s.privReq s.slot (d.acceptPayload s.privReq s.key proof)
          else
            (d.authFail s.slot 3 s.key.v6 s.key.srcIp).refuseProof sid stNotAuthorised
      else if s.state = .established then d.sendPacket sid { DktHdr.blank 5 with seq := s.devIsn } s.acceptPay
      else d

/-! ## Tickets (R105, R106, R323, R324) -/

/-- The cause that refuses a ticket: 1 member, 2 ticket, 3 expiry, 4 time, 5 reuse, 6 fence, 7 store full (log entry 71). -/
def Dev.ticketCause (d : Dev) (k : RxPkt) : Option Nat :=
  let p := k.payload
  let (member, priv, slot, expiry, ticket) := (num p 0 1, num p 1 1, num p 2 2, num p 4 8, slice p 12 16)
  let live := d.lge.tickets.filter fun t => d.now ≤ t.2
  let mt := [0x44, 0x4B, 0x54, 0x31] ++ be 1 member ++ be 1 priv ++ be 2 slot ++ be 8 expiry ++
    ip16 k.key.v6 k.key.srcIp ++ be 2 k.key.srcPort
  if d.league.role = 0 ∨ member ≠ d.league.memberId then some 1
  else
    match d.bindKey d.league.ticketSlot 3 with
    | none => some 2
    | some kt =>
      if ticket ≠ (hmac256 kt.key mt).take 16 then some 2
      else if expiry < d.now then some 3
      else if d.sec.time.state = .free ∨ d.sec.time.state = .untrusted then some 4
      else if d.lge.tickets.any fun t => t.1 == ticket then some 5
      else if expiry < d.lge.fenceTime + d.regF 0x2000C 31 16 * 1000000 then some 6
      else if 1024 ≤ live.length then some 7
      else none

/-- Refuse a ticket (R106, R324, R233). -/
def Dev.refuseTicket (d : Dev) (k : RxPkt) (cause : Nat) : Dev :=
  let d := ((d.count (dktCnt 15)).raise (irqDkt 3)).log evTicketRefused (be 1 (num k.payload 0 1) ++ be 1 cause)
  let d := if cause = 4 then d.count (secCnt 11) else d
  d.refuseOpen k (if cause = 7 then stBusy else stNotAuthorised)

/-- The store of accepted tickets with one more: the last 1,024 accepted, of which one that has expired makes room
(R106, R324). -/
def Dev.ticketStore (d : Dev) (t : Bytes × Nat) : List (Bytes × Nat) :=
  let l := d.lge.tickets ++ [t]
  if l.length ≤ 1024 then l else l.eraseP fun x => decide (x.2 < d.now)

/-- An OPEN_TICKET packet (R104, R106, R107). -/
def Dev.ticketPkt (d : Dev) (k : RxPkt) : Dev :=
  let p := k.payload
  let (priv, slot, expiry, hostWin) := (num p 1 1, num p 2 2, num p 4 8, num p 28 2)
  if (d.keySession k.key).isSome then d.noSession
  else if p.length ≠ 32 then d.count (dktCnt 2)
  else
    match d.ticketCause k with
    | some c => d.refuseTicket k c
    | none =>
      match d.roomFor (bit priv 0) false k.key with
      | (none, d) => d.refuseOpen k stBusy
      | (some sid, d) =>
        if hostWin = 0 ∨ 1024 < hostWin then d.refuseOpen k stMalformed
        else
          let (epoch, d) := d.newEpoch sid
          let (isn, d) := d.draw 4
          let s := Sess.open_ k epoch (beVal isn) hostWin slot priv [] [] none
          let d := { (d.classInstall k.key sid) with
            sess := d.sess.put sid { s with wireId := sid, ticket := true }
            lge := { d.lge with tickets := d.ticketStore (slice p 12 16, expiry) } }
          d.established sid priv 0xFFFF (d.acceptPayload priv k.key (zeros 32))

/-- The open timer of a session in CHALLENGED expires (R104). -/
def Dev.openExpired (d : Dev) (sid : Nat) : Dev :=
  match d.session sid with
  | some s => if s.state = .challenged ∧ !s.opener then d.endSession sid else d
  | none => d

/-! ## Opens that this device makes (R91, R92, R313, R315) -/

/-- CHALLENGE reaches the device that opened: it sends PROOF (R91, R92). -/
def Dev.challengePkt (d : Dev) (sid : Nat) (k : RxPkt) : Dev :=
    match d.session sid with
    | none => d
    | some s =>
      match s.bound with
      | none => d
      | some key =>
        if s.opener ∧ (s.state = .opening ∨ (s.state = .challenged ∧ s.wireId = k.hdr.session ∧ s.dn = k.payload)) then
          let d := d.modSess sid fun s => { s with
            state := .challenged, wireId := k.hdr.session, wireEpoch := k.hdr.epoch, dn := k.payload, devIsn := k.hdr.seq,
            rxNext := k.hdr.seq, advLimit := seqAdd k.hdr.seq (2 ^ 32 - 1) }
          d.sendPlain sid 4 (proofOf key.key s.cn k.payload k.hdr.epoch k.hdr.session s.slot 0x80 s.hostIsn)
        else d

/-- ACCEPT reaches the device that opened: DPROOF is checked and the session is held (R92, R315, R317). -/
def Dev.acceptPkt (d : Dev) (sid : Nat) (k : RxPkt) : Dev :=
    match d.session sid with
    | none => d
    | some s =>
      match s.bound with
      | none => d
      | some key =>
        if s.opener ∧ s.state = .challenged then
          let priv := num k.payload 0 1
          if slice k.payload 8 32 = dproofOf key.key s.dn s.cn s.wireEpoch s.wireId priv s.devIsn then
            let d := d.modSess sid fun s =>
              { s with state := .established, priv := priv, bound := none, txLimit := k.hdr.limit }
            let d := match d.targetOf sid with
              | some (.toMember id) =>
                { d with lge := { d.lge with members := d.lge.members.mod id fun m => { m with outSess := some sid } } }
              | _ => d
            let d := (d.count (dktCnt 12)).log evDktOpen (be 2 sid ++ be 1 s.epoch ++ be 1 priv ++ be 2 s.slot)
            let d := if d.targetOf sid = some .toHead then d.sendJoin else d
            d.leaguePump
          else d.endSession sid
        else d

/-- REFUSE reaches the device that opened: the open has failed (R315). -/
def Dev.refusePkt (d : Dev) (sid : Nat) : Dev :=
  match d.session sid with
  | some s => if s.opener ∧ (s.state = .opening ∨ s.state = .challenged) then d.endSession sid else d
  | none => d

/-! ## Messages (R95, R96, R109, R114, R314) -/

/-- A message's request: the record that runs, the LG_RELAY block, whether it came wrapped, and the length that the outer
header declares. -/
structure Arrival where
  req : Req
  outer : Req
  mirror : Bytes
  inner : Bool

/-- Read a message's request record, unwrapping LG_RELAY and LG_REPLICATE (R314). -/
def arrivalOf (b : Bytes) : Arrival :=
  let r := reqOf b
  if r.op = 0x6C ∨ r.op = 0x6D then
    { req := reqOf r.value, outer := r, mirror := if r.op = 0x6D then r.param else [], inner := true }
  else { req := r, outer := r, mirror := [], inner := false }

/-- The arrival checks of a message (R114): of the outer record, then of the record that it wraps. -/
def Dev.messageRefusal (d : Dev) (s : Sess) (queue tag carried : Nat) (a : Arrival) (whole : Bool) :
    Option (Nat × Nat × Nat) :=
  match Dev.arrivalRefusal s queue tag carried a.outer none (whole && !a.inner) with
  | some r => some r
  | none =>
    if !a.inner then none
    else if d.league.role = 0 ∨ (d.league.role = 1 ∧ a.outer.op = 0x6D) then some (stNotAuthorised, 0, 0)
    else
      match Dev.arrivalRefusal s queue tag (carried - 16 - a.outer.paramLen) a.req (some a.outer.op) whole with
      | some r => some r
      | none => if a.req.total ≠ a.outer.valLen then some (stMalformed, 1, 0) else none

/-- Begin a message whose command is answered and whose rest is discarded. -/
def Dev.deadMessage (d : Dev) (sid queue tag : Nat) (eom : Bool) : Dev :=
  if eom then d
  else d.modSess sid fun s => { s with inMsgs := s.inMsgs.put queue ⟨tag, 0, 0, 0, none, true, [], 0⟩ }

/-- A command arrives from a message's bytes, of which `carried` came in its SOM packet (R96, R114): answered at once, or
registered and queued. Answers its arrival number where it is queued. -/
def Dev.arrive (d : Dev) (sid queue tag cells carried : Nat) (b : Bytes) (eom : Bool) : Dev × Option Nat :=
  match d.session sid with
  | none => (d, none)
  | some s =>
    let a := arrivalOf b
    let op := if b.length < 1 then 0 else a.req.op
    let refuse := fun (st det ver : Nat) => ((d.refuseTag sid queue tag op st ver det).freeCells cells, none)
    match d.messageRefusal s queue tag carried a eom with
    | some (st, det, ver) => refuse st det ver
    | none =>
      if (eom ∧ b.length ≠ a.outer.total) ∨ a.outer.total < b.length then refuse stMalformed 1 0
      else
        match d.enqueue (cmdOf sid queue tag a.req eom a.mirror cells) with
        | (d, some n) => (d, some n)
        | (d, none) => (d.freeCells cells, none)

/-- Whether a message waits until it is whole: a QUIRE, bare or wrapped (R96). -/
def waitsWhole (b : Bytes) : Bool :=
  let op := num b 0 1
  op == 0x30 || (op == 0x6C && num b 16 1 == 0x30) || (op == 0x6D && num b 40 1 == 0x30)

/-- The first packet of a message of session `s`. A message whose OFFSET breaks the chain, or on queue 7 of a session that
is no League session, ends at once (R96). -/
def Dev.firstPacket (d : Dev) (sid : Nat) (s : Sess) (k : RxPkt) : Dev :=
  let h := k.hdr
  let b := k.payload
  if h.offset ≠ 0 ∨ (h.queue = 7 ∧ !s.league) then
    ((d.refuseTag sid h.queue h.tag (num b 0 1) stMalformed 0 5).freeCells k.cells).deadMessage sid h.queue h.tag h.eom
  else if waitsWhole b ∧ !h.eom ∧ 16 ≤ b.length then
    d.modSess sid fun s => { s with
      inMsgs := s.inMsgs.put h.queue ⟨h.tag, b.length, b.length, (reqOf b).total, none, false, b, k.cells⟩ }
  else
    match d.arrive sid h.queue h.tag k.cells b.length b h.eom with
    | (d, none) => d.deadMessage sid h.queue h.tag h.eom
    | (d, some n) =>
      if h.eom then d
      else d.modSess sid fun s => { s with
        inMsgs := s.inMsgs.put h.queue ⟨h.tag, b.length, b.length, (reqOf b).total, some n, false, [], 0⟩ }

/-- End a message under R96; its queue stays closed to it until the message's last packet. -/
def Dev.stopMessage (d : Dev) (sid queue detail : Nat) (eom : Bool) : Dev :=
  let d := (d.breakMessage sid queue detail).cleanEngines
  if eom then d.endMessage sid queue else d

/-- A later packet of an open message (R95, R96). Its TAG is not held against the first packet's: DESIGN CHOICE (log entry
75). -/
def Dev.nextPacket (d : Dev) (sid : Nat) (m : InMsg) (k : RxPkt) : Dev :=
  let h := k.hdr
  let b := k.payload
  let next := m.next + b.length
  if m.dead then
    let d := d.freeCells k.cells
    if h.eom then d.endMessage sid h.queue else d
  else if h.offset ≠ m.next ∨ 33554432 < next then (d.freeCells k.cells).stopMessage sid h.queue 5 h.eom
  else if m.total < next ∨ (h.eom ∧ next ≠ m.total) then (d.freeCells k.cells).stopMessage sid h.queue 1 h.eom
  else
    let keep := { m with next := next, bytes := m.bytes ++ b, cells := m.cells + k.cells }
    match m.cmd with
    | some n =>
      let d := (d.feed n b h.eom k.cells).modSess sid fun s =>
        { s with inMsgs := if h.eom then s.inMsgs.del h.queue else s.inMsgs.put h.queue { m with next := next } }
      d.advance n
    | none =>
      if h.eom then
        let d := d.modSess sid fun s => { s with inMsgs := s.inMsgs.del h.queue }
        (d.arrive sid h.queue m.tag keep.cells m.first keep.bytes true).1
      else d.modSess sid fun s => { s with inMsgs := s.inMsgs.put h.queue keep }

/-- A message packet of an answer, on a session that this device opened. -/
def Dev.answerPacket (d : Dev) (sid : Nat) (s : Sess) (k : RxPkt) : Dev :=
  let h := k.hdr
  let d := d.freeCells k.cells
  let b := match s.inMsgs.find h.queue with
    | some m => if h.som then k.payload else m.bytes ++ k.payload
    | none => k.payload
  if h.eom then (d.modSess sid fun s => { s with inMsgs := s.inMsgs.del h.queue }).leagueAnswer sid h.tag b
  else d.modSess sid fun s => { s with inMsgs := s.inMsgs.put h.queue ⟨h.tag, 0, b.length, 0, none, false, b, 0⟩ }

/-- The end of a draining session: CLOSE once every response is sent and acknowledged; FREE once CLOSE is (R104). -/
def Dev.settleDrain (d : Dev) (sid : Nat) : Dev :=
  match d.session sid with
  | none => d
  | some s =>
    let busy := d.cqe.queued.any (fun p => p.2.session == sid) || d.cqe.flights.any fun p => p.2.cmd.session == sid && !p.2.dead
    if s.state = .draining ∧ s.out.isEmpty ∧ s.unacked.isEmpty ∧ !busy ∧ seqLe s.txNext s.txLimit then
      let p : TxPkt := { seq := s.txNext, type := 8, som := false, eom := false, queue := 0, tag := 0, offset := 0,
                         payload := zeros 4, fast := false }
      (d.modSess sid fun s => { s with state := .closing }).sendFirst sid p
    else if s.state = .closing ∧ !(s.unacked.any fun p => p.type == 8) then (d.endSession sid).log evDktClose (be 2 sid)
    else d

/-- A CLOSE comes in sequence (R104). On a session that this device opened the peer has ended it: it is acknowledged, and
the session is FREE (R97). A message still open then ends under R96 with DETAIL 5: DESIGN CHOICE (log entry 75). -/
def Dev.closeArrives (d : Dev) (sid : Nat) (s : Sess) : Dev :=
  if s.opener then (d.sendPlain sid 1 []).endSession sid
  else
    let open_ := s.inMsgs.map (·.1)
    let d := open_.foldl (fun (d : Dev) q => (d.stopMessage sid q 5 true)) d
    (if s.state = .established then d.modSess sid fun s => { s with state := .draining } else d).settleDrain sid

/-- A packet becomes next in sequence. -/
def Dev.deliver (d : Dev) (sid : Nat) (k : RxPkt) : Dev :=
  let d := d.modSess sid fun s => { s with rxNext := seqAdd s.rxNext 1, held := s.held.del k.hdr.seq }
  match d.session sid with
  | none => d
  | some s =>
    if k.hdr.type = 8 then (d.freeCells k.cells).closeArrives sid s
    else if s.opener then d.answerPacket sid s k
    else if s.state ≠ .established then
      let d := d.freeCells k.cells
      if k.hdr.som then d.refuseTag sid k.hdr.queue k.hdr.tag (num k.payload 0 1) stNotAuthorised 0 0 else d
    else
      match s.inMsgs.find k.hdr.queue with
      | some m =>
        if k.hdr.som then (d.stopMessage sid k.hdr.queue 5 true).firstPacket sid s k else d.nextPacket sid m k
      | none => if k.hdr.som then d.firstPacket sid s k else d.freeCells k.cells

/-- Deliver the packets held in sequence: at most 1,024 (R88). -/
def Dev.deliverHeld (sid : Nat) : Nat → Dev → Dev
  | 0, d => d
  | n + 1, d =>
    match d.session sid with
    | none => d
    | some s =>
      match s.held.find s.rxNext with
      | some k => Dev.deliverHeld sid n (d.deliver sid k)
      | none => d

/-- A DATA or CLOSE packet of a session (R97, R104). A DATA packet with an empty payload takes its number like any other:
DESIGN CHOICE (log entry 75). -/
def Dev.seqPkt (d : Dev) (sid : Nat) (k : RxPkt) : Dev :=
  match d.session sid with
  | none => d.freeCells k.cells
  | some s =>
    if s.state = .opening ∨ s.state = .challenged then d.freeCells k.cells
    else
      let d := d.absorbAck sid k.hdr
      let seq := k.hdr.seq
      if seqLt seq s.rxNext ∨ s.held.has seq then ((d.count (dktCnt 5)).freeCells k.cells).sendPlain sid 1 []
      else if !seqLe seq s.advLimit then ((d.count (dktCnt 6)).freeCells k.cells).sendPlain sid 1 []
      else
        let d := d.modSess sid fun s => { s with held := s.held.put seq k }
        ((d.deliverHeld sid 1024).sendPlain sid 1 []).settleDrain sid

/-- A packet of a session that carries no sequence number: ACK or KEEPALIVE (R88, R100, R102). -/
def Dev.ackPkt (d : Dev) (sid : Nat) (k : RxPkt) : Dev :=
  match d.session sid with
  | none => d
  | some s =>
    if s.state = .opening ∨ s.state = .challenged then d
    else
      let d := d.absorbAck sid k.hdr
      let d := if k.hdr.ackReq then d.sendPlain sid 1 [] else d
      d.settleDrain sid

/-! ## Timers and kills (R100, R102, R103) -/

/-- The retransmission timer of a session expires (R100, R104). An acknowledgement that made progress in this core cycle
has restarted it (R15). -/
def Dev.retxTimeout (d : Dev) (sid : Nat) : Dev :=
  match d.session sid with
  | none => d
  | some s =>
    match s.unacked with
    | [] => d
    | p :: _ =>
      if s.ackedAt = some d.cycles then d
      else if 12 ≤ s.retries then (if s.state = .closing then d.endSession sid else d.loseSession sid stTimeout)
      else
        let d := d.modSess sid fun s =>
          { s with retries := s.retries + 1, timeoutUs := min 128000 (2 * s.timeoutUs),
                   unacked := s.unacked.map fun (p : TxPkt) => { p with fast := false } }
        (d.sendTx sid p true).count (dktCnt 10)

/-- A session has sent nothing for KA_INTERVAL (R102). -/
def Dev.kaSend (d : Dev) (sid : Nat) : Dev :=
  match d.session sid with
  | some s => if s.state = .opening ∨ s.state = .challenged then d else d.sendPlain sid 7 []
  | none => d

/-- Nothing has arrived on a session for KA_LIMIT intervals; a packet that came in this core cycle keeps it (R15, R102). -/
def Dev.kaLoss (d : Dev) (sid : Nat) : Dev :=
  match d.session sid with
  | some s =>
    if (s.state = .established ∨ s.state = .draining) ∧ s.heardAt ≠ some d.cycles then d.loseSession sid stTimeout else d
  | none => d

/-- Kill a session, whatever its state (R103, R108). -/
def Dev.killSession (d : Dev) (sid : Nat) : Dev := d.loseSession sid stNotAuthorised

/-- Take a packet of a type out of the pool's table; `keep` leaves its cells held. -/
def Dev.takePkt (d : Dev) (pid type : Nat) (keep : Bool) : Option (RxPkt × Dev) :=
  match d.rx.find pid with
  | some k => if k.hdr.type = type then some (k, if keep then d.claimPkt pid else d.dropPkt pid) else none
  | none => none

end Sys2Proof.Machine
end

