-- ==== Sys2Proof/Machine/PortRowOps.lean ====
section
/-! DEFINITION. What happens at the ports: link states, polarity, received frames, pauses, transmission (R63 to R81). -/

set_option cleanup.letToHave false

namespace Sys2Proof.Machine

/-! ## Link states (R64 to R66, R81) -/


/-- Whether a port may leave DOWN: it is in use, SDQ and its domain are ON, the SerDes PLL is locked, and the start has
reached its ports (R66, R368). -/
def Dev.portMayRun (d : Dev) (n : Nat) : Bool :=
  d.portsInUse.contains n && d.domOn 20 && bit d.clocks.status 4 && d.domOn (16 + n) && d.admits

/-- Change every lane of a port. -/
def Dev.modLanes (d : Dev) (n : Nat) (f : Lane → Lane) : Dev := (d.lanesOf n).foldl (fun (d : Dev) l => d.modLane l f) d

/-- The port that a physical lane serves, none where it carries nothing. -/
def Dev.portOfLane (d : Dev) (l : Nat) : Option Nat := d.portsInUse.find? fun n => (d.lanesOf n).contains l

/-- Signal on every lane of a port in DOWN: it enters SEEK (R66). What a port sends from SEEK to UP, where nothing was
received wrong before, is Idle: DESIGN CHOICE (log entry 74). -/
def Dev.signalDetect (d : Dev) (n : Nat) : Dev :=
  if (d.port n).link = .down ∧ d.portMayRun n then
    (d.modLanes n fun l => { l with sigDet := true, locked := false }).modPort n fun p =>
      { p with link := .seek, seekSince := d.cycles, stuckWritten := false
               sending := if p.sending = .electricalIdle then .idleOnly else p.sending }
  else d

/-- Invert the receive polarity of a lane, counted (R65, R79, R83). -/
def Dev.flipLane (d : Dev) (n l : Nat) : Dev :=
  if d.regF (0x18010 + 0x10 * l) 24 24 = 1 then
    (d.modLane l fun x => { x with rxInv := !x.rxInv, flips := satAdd 255 x.flips 1 }).portCount n 61 1
  else d

/-- A lane's polarity timer expires without lock. A lane that has gained lock since it last lost signal keeps its polarity
(R65). -/
def Dev.polarityTimer (d : Dev) (l : Nat) : Dev :=
  match d.portOfLane l with
  | some n => if (d.port n).link = .seek ∧ !(d.lane l).locked ∧ !(d.lane l).kept then d.flipLane n l else d
  | none => d

/-- More than 32 of 64 blocks are error blocks after block lock in Q10 (R65). -/
def Dev.errorBlocks (d : Dev) (l : Nat) : Dev :=
  match d.portOfLane l with
  | some n => if d.portMode = 0 ∧ (d.port n).link = .hold ∧ (d.lane l).locked then d.flipLane n l else d
  | none => d

/-- Every lane of a port is locked: HOLD. `fec` are the FEC lanes found on physical lanes 0 to 3 in S100 (R64, R66). No
row tells of a lane's clock recovery alone, so CDR_LOCK rises here: DESIGN CHOICE (log entry 74). -/
def Dev.laneLock (d : Dev) (n : Nat) (fec : List Nat) : Dev :=
  if (d.port n).link = .seek then
    let d := d.modLanes n fun l => { l with kept := true, cdrLock := true, locked := true }
    let d := if d.portMode = 3 then
        (List.range 4).foldl (fun (d : Dev) l => d.modLane l fun x => { x with fecLane := fec.getD l l % 4 }) d
      else d
    d.modPort n fun p =>
      { p with link := .hold, blockLock := true, aligned := d.portMode ≠ 0, hiBer := false, localFault := false }
  else d

/-- The FEC lane found on each physical lane. -/
def Dev.fecOrder (d : Dev) : List Nat := (List.range 4).map fun l => (d.lane l).fecLane

/-- Lock has held for 1 ms with no hi_ber and no local fault, so that a local fault seen before in HOLD has ended: UP, with
the records of R66 and of its example. -/
def Dev.holdDone (d : Dev) (n : Nat) : Dev :=
  let p := d.port n
  if p.link = .hold then
    let d := (d.modPort n fun p => { p with link := .up, sending := .data, localFault := false }).raise (irqEp n 0)
    let d := d.log evLinkUp (be 1 n ++ be 1 d.portMode ++ be 4 ((d.cycles - p.seekSince) / 1250000))
    let d := (d.lanesOf n).foldl (fun (d : Dev) l =>
      if (d.lane l).rxInv then d.log evPolarity (be 1 l ++ be 1 1) else d) d
    if d.portMode = 3 ∧ d.fecOrder ≠ [0, 1, 2, 3] then
      (d.portCount n 62 1).log evLaneOrder (d.fecOrder.flatMap fun l => be 1 l)
    else d
  else d

/-- Whether a state counts as carrying a link: UP or RFAULT. -/
def LinkState.linked (s : LinkState) : Bool := s == .up || s == .rfault

/-- A port leaves UP or RFAULT: queued frames are discarded, the frame on the wire is stomped, and where `record` is
set LINK_DOWN is written with its cause (R66, R75, R79). -/
def Dev.leaveLink (d : Dev) (n cause : Nat) (record : Bool) : Dev :=
  let p := d.port n
  if p.link.linked then
    let d := ((d.stomp n 41).dropQueue n false).portCount n 31 1
    let d := d.raiseIf (p.link == .up) (irqEp n 0)
    if record then d.log evLinkDown (be 1 n ++ be 1 cause) else d
  else d

/-- Lock is lost (0), hi_ber (1) or a local fault (2) appears on a port (R66). -/
def Dev.linkFault (d : Dev) (n cause : Nat) : Dev :=
  let p := d.port n
  let d := if cause = 2 ∧ (p.link.linked ∨ p.link = .hold) then
      (d.modPort n fun p => { p with localFault := true }).raise (irqEp n 1)
    else d
  if p.link.linked ∨ (p.link = .hold ∧ cause ≠ 2) then
    let d := d.leaveLink n cause true
    let d := if cause = 0 then (d.modLanes n fun l => { l with locked := false }).portCount n 30 1 else d
    d.modPort n fun p =>
      { p with link := .seek, seekSince := d.cycles, stuckWritten := false, remoteFault := false
               sending := if p.link.linked then .remoteFault else p.sending
               hiBer := cause == 1 || p.hiBer, blockLock := p.blockLock && cause != 0, aligned := p.aligned && cause != 0 }
  else d

/-- What a port sends in DOWN (R66): Remote Fault where signal was lost on a link, what it sent before where signal was
lost otherwise, electrical idle where it was brought down. -/
def Port.downSignal (p : Port) (cause : Nat) : TxSignal :=
  if cause = 3 then (if p.link.linked then .remoteFault else p.sending) else .electricalIdle

/-- A port goes to DOWN: its lanes lose lock, and the time that it has been held so far is counted (R66, R76, R79). -/
def Dev.portDown (d : Dev) (n cause : Nat) (record : Bool) : Dev :=
  let p := d.port n
  let d := d.leaveLink n cause record
  let d := if p.blockLock ∧ (cause = 0 ∨ cause = 3) then d.portCount n 30 1 else d
  let d := d.portCount n 60 (d.heldQuanta n)
  (d.modLanes n fun l => { l with cdrLock := false, locked := false }).modPort n fun q =>
    { q with link := .down, sending := p.downSignal cause, blockLock := false, aligned := false, hiBer := false,
             localFault := false, remoteFault := false, txq := [], pauseLeft := 0, pfcLeft := [] }

/-- Signal is lost on a lane: its port goes to DOWN (R66). The table has no row for a loss of signal in HOLD or RFAULT; the
port then goes to DOWN as from SEEK and from UP: DESIGN CHOICE (log entry 74). -/
def Dev.signalLoss (d : Dev) (l : Nat) : Dev :=
  let d := d.modLane l fun x => { x with kept := false, sigDet := false, cdrLock := false, locked := false }
  match d.portOfLane l with
  | some n => if (d.port n).link = .down then d else d.portDown n 3 true
  | none => d

/-- Remote Fault is received in UP (R66). Going between UP and RFAULT is no departure that RX_LINK_DOWN counts: DESIGN
CHOICE (log entry 74). -/
def Dev.remoteFault (d : Dev) (n : Nat) : Dev :=
  if (d.port n).link = .up then
    let d := (d.stomp n 41).dropQueue n true
    ((d.modPort n fun p => { p with link := .rfault, sending := .idleOnly, remoteFault := true }).raise (irqEp n 1)).raise
      (irqEp n 0)
  else d

/-- No Remote Fault for 1 ms (R66). -/
def Dev.remoteClear (d : Dev) (n : Nat) : Dev :=
  if (d.port n).link = .rfault then
    (d.modPort n fun p => { p with link := .up, sending := .data, remoteFault := false }).raise (irqEp n 0)
  else d

/-- A port has been in SEEK for 10 s with signal on every lane: reported once a stay (R382). -/
def Dev.laneStuck (d : Dev) (n : Nat) : Dev :=
  let p := d.port n
  if p.link = .seek ∧ !p.stuckWritten ∧ (d.lanesOf n).all fun l => (d.lane l).sigDet then
    let dead := (d.lanesOf n).filter fun l => !(d.lane l).locked
    ((d.modPort n fun p => { p with stuckWritten := true }).raise (irqSup 4)).log evLaneStuck
      (be 1 n ++ dead.flatMap fun l => be 1 l ++ be 4 (d.lane l).flips)
  else d

/-! ## Pauses (R72, R76 to R79) -/


/-- A PAUSE frame is recognised (R76, R78, R81). The time held so far is counted when it is replaced or ended. -/
def Dev.pauseRx (d : Dev) (n quanta : Nat) : Dev :=
  let d := d.portCount n 7 1
  if d.regF (epReg n 0xC) 8 8 = 1 then
    let p := d.port n
    let d := d.portCount n 60 (min p.pauseLeft (d.quantaSince p.pauseSince))
    d.modPort n fun p => { p with pauseLeft := quanta, pauseSince := d.cycles }
  else d

/-- A PFC frame is recognised: each enabled priority of its vector is paused or released (R77, R78). -/
def Dev.pfcRx (d : Dev) (n vector : Nat) (times : List Nat) : Dev :=
  let d := (d.portCount n 8 1)
  let d := (List.range 8).foldl (fun (d : Dev) i => if bit vector i then d.portCount n (52 + i) 1 else d) d
  let en := d.regF (epReg n 0xC) 7 0
  if en = 0 then d
  else
    let p := d.port n
    let gone := d.quantaSince p.pfcSince
    let most := (p.pfcLeft.map fun x => x.2).foldl max 0
    let d := d.portCount n 60 (min most gone)
    let left := (p.pfcLeft.mapAll fun _ q => q - gone).keep fun _ q => q != 0
    let set := fun (t : Tab Nat) (i : Nat) =>
      if bit vector i && bit en i then (if times.getD i 0 = 0 then t.del i else t.put i (times.getD i 0)) else t
    let held := (List.range 8).foldl set left
    d.modPort n fun p => { p with pfcLeft := held, pfcSince := d.cycles }

/-- The pause of a port (`prio` none) or of a priority runs out (R76, R77). A pause that was recognised in this core cycle
stays (R15). -/
def Dev.pauseExpiry (d : Dev) (n : Nat) (prio : Option Nat) : Dev :=
  match prio with
  | none =>
    let left := (d.port n).pauseLeft
    if (d.port n).pauseSince = d.cycles then d
    else (d.modPort n fun p => { p with pauseLeft := 0 }).portCount n 60 left
  | some i =>
    match (d.port n).pfcLeft.find i with
    | none => d
    | some q =>
      if (d.port n).pfcSince = d.cycles then d
      else
      let rest := (d.port n).pfcLeft.del i
      let d := d.modPort n fun p => { p with pfcLeft := rest }
      if rest.isEmpty then d.portCount n 60 q else d

/-- Half the XOFF quanta have passed with the pool still below XON: the XOFF again (R72). -/
def Dev.xoffRepeat (d : Dev) (n : Nat) : Dev :=
  if d.belowXoff ∧ d.cellsFree < d.regF 0x1800C 31 16 ∧ d.flowControls n then d.sendFlow n (d.regF (epReg n 0xC) 31 16)
  else d

/-! ## Received frames (R67 to R71, R84 to R89, R228) -/

/-- Whether a frame's destination is one that a port takes (R69). -/
def Dev.dstMine (d : Dev) (n : Nat) (f : Frame) : Bool :=
  let ip6 := match d.portCfg n with
    | some c => c.ipv6
    | none => 0
  let svc := num d.league.serviceAddr 4 16
  f.dst == d.portMac n || f.dst == macBroadcast || (ip6 != 0 && f.dst == solicitedMac ip6) ||
    (d.league.role == 1 && svc != 0 && f.dst == solicitedMac svc) || (f.dst == macControlAddr && f.etherType == 0x8808)

/-- Whether a frame passes a port's address filter (R69). -/
def Dev.mine (d : Dev) (n : Nat) (f : Frame) : Bool :=
  let vlan := d.portVlan n
  let tagOk := match f.vlan with
    | none => vlan == 0 || f.etherType == 0x8808
    | some (vid, _) => vid == vlan
  d.dstMine n f && tagOk &&
    (([0x0800, 0x86DD, 0x0806, 0x8808] : List Nat).contains f.etherType || (f.etherType == 0x88E5 && d.macsecOn n))

/-- A frame that MAT or DKT rejects before a queue (R79). -/
def Dev.notAdmitted (d : Dev) (n cells : Nat) : Dev := (d.portCount n 19 1).freeCells cells

/-- The classification key of a datagram (R89). -/
def keyOf (n sc : Nat) (g : Datagram) : ClassKey :=
  ⟨n, sc, g.v6, g.src, g.srcPort, if g.v6 then 0 else g.dst, if g.v6 then 0 else g.dstPort⟩


/-- Keep a packet in the pool for its transport step; a packet of a session moves the address of its answers (R70). -/
def Dev.keepPkt (d : Dev) (k : RxPkt) : Dev :=
  let d := match k.session with
    | some sid => d.modSess sid fun s => { s with mac := k.srcMac, heardAt := some d.cycles }
    | none => d
  { (d.count (dktCnt 0)) with rx := d.rx.put d.rxNext k, rxNext := d.rxNext + 1 }

/-- A datagram in the pool: classification, then the checks of its DKT header (R86, R87, R89). A payload too short for a
header counts as an HCRC failure: DESIGN CHOICE (log entry 75). -/
def Dev.rxDkt (d : Dev) (n sc srcMac cells : Nat) (g : Datagram) : Dev :=
  let key := keyOf n sc g
  let found := d.search d.profile0 (classWord key)
  let d := d.countSearch found
  let drop := fun (d : Dev) (c : Nat) => (d.count (dktCnt c)).notAdmitted n cells
  match classOf found with
  | .drop => (d.count (matCnt 3)).notAdmitted n cells
  | cls =>
    let h := DktHdr.ofBytes g.payload
    if g.payload.length < 32 ∨ crc32c (g.payload.take 28) ≠ num g.payload 28 4 then drop d 1
    else if num g.payload 0 1 / 16 ≠ 1 ∨ 9 < h.type ∨ h.payLen + 40 ≠ g.udpLen then drop d 2
    else
      let k : RxPkt := ⟨key, g.dst, srcMac, h, g.payload.drop 32, cells, none⟩
      let sid := match cls with
        | .session _ => d.keySession key
        | _ => none
      match sid.bind fun sid => (d.session sid).map fun s => (sid, s) with
      | some (sid, s) =>
        if h.type = 2 ∨ h.type = 9 then d.keepPkt { k with session := some sid }
        else
          match s.wireErr h with
          | some c => drop d c
          | none => d.keepPkt { k with session := some sid }
      | none => if h.type = 2 ∨ h.type = 9 then d.keepPkt k else drop d 3

/-- The pool runs out under a frame: the cells that it holds return, the drop is counted and reported (R71). -/
def Dev.poolDrop (d : Dev) (n : Nat) : Dev :=
  let held := d.cellsFree
  let d := d.takeCells held
  let low := d.poolLow
  let d := ((d.portCount n 17 1).raise (irqEp n 2)).logKeyed (evPoolDrop.code * 4 + n) evPoolDrop 1 fun k =>
    be 1 n ++ be 4 k ++ be 4 low
  d.freeCells held

/-- An accepted frame that is no MAC control frame and needs the pool (R71, R84). -/
def Dev.rxPool (d : Dev) (n sc : Nat) (f : Frame) : Dev :=
  let cells := ceilDiv f.len 256
  if d.cellsFree < cells then d.poolDrop n
  else
    let d := d.takeCells cells
    let d := { d with pins := { d.pins with act0 := true } }
    match f.body with
    | .udp g =>
      if g.fragment ∨ g.options then (d.count (dktCnt 8)).notAdmitted n cells
      else if (g.v6 ∧ g.csumZero) ∨ (!g.csumZero ∧ !g.csumOk) then (d.count (dktCnt 7)).notAdmitted n cells
      else if !d.ownIp n g.v6 g.dst ∨ g.dstPort ≠ d.regF 0x20000 31 16 ∨ !d.domOn 45 then d.notAdmitted n cells
      else d.rxDkt n sc f.src cells g
    | .otherIp _ fragment options =>
      (if fragment ∨ options then d.count (dktCnt 8) else d).notAdmitted n cells
    | _ => d.notAdmitted n cells

/-- An accepted frame: address resolution is answered by the port itself, and answers to the device's own requests are
taken in (R70, R312). -/
def Dev.rxAccepted (d : Dev) (n sc : Nat) (f : Frame) : Dev :=
  match f.body with
  | .arp request mac ip target =>
    if !d.ownIp n false target then d
    else if request then d.queueFrame n ⟨mac, 0, d.ipFrameLen n false 8, .arp false target mac ip⟩
    else d.resolved n sc false ip mac
  | .solicit ip target =>
    if d.ownIp n true target then d.queueFrame n ⟨f.src, 0, d.ipFrameLen n true 32, .advert target ip⟩ else d
  | .neighbour target mac => d.resolved n sc true target mac
  | _ => d.rxPool n sc f

/-- Whether a frame is written into the pool as it arrives: one for the port that is no MAC control frame and that the
port does not answer by itself (R68 to R71). -/
def Dev.usesPool (d : Dev) (n : Nat) (f : Frame) : Bool :=
  d.mine n f && f.etherType != 0x8808 && match f.body with
    | .udp _ => true
    | .otherIp _ _ _ => true
    | .other => true
    | _ => false

/-- A frame that is dropped for its length, its FCS or an error block, counted: the cells it held while it arrived return,
at the latest when it passes MAX_LEN (R68). -/
def Dev.rxBad (d : Dev) (n : Nat) (f : Frame) (counter : Nat) : Dev :=
  let d := d.portCount n counter 1
  if d.usesPool n f then d.passCells (ceilDiv (min f.len (d.maxLen n)) 256) else d

/-- A frame longer than MAX_LEN: dropped as such, or for lack of cells where the pool runs out before byte MAX_LEN + 1 (R68,
R71, R81). -/
def Dev.rxLong (d : Dev) (n : Nat) (f : Frame) : Dev :=
  if d.usesPool n f ∧ 256 * d.cellsFree < d.maxLen n then d.poolDrop n else d.rxBad n f (if f.fcsOk then 13 else 14)

/-- A frame of good size and FCS: MAC control is consumed, the address filter and MACsec judge the rest (R69, R70, R228). -/
def Dev.rxGood (d : Dev) (n : Nat) (f : Frame) : Dev :=
  if !d.mine n f then d.portCount n 16 1
  else if f.etherType = 0x8808 then
    match f.body with
    | .macControl opcode quanta vector times =>
      if opcode = 1 then d.pauseRx n quanta
      else if opcode = 0x101 then d.pfcRx n vector times
      else d.portCount n 9 1
    | _ => d.portCount n 9 1
  else if d.macsecOn n then
    match f.sec with
    | none => d.portCount n 18 1
    | some t =>
      match d.secCheck n t with
      | .accept sc => (d.secPass n sc t).rxAccepted n (sc + 1) f
      | .drop c => (d.count (secCnt c)).portCount n 18 1
      | .unprotected => d.portCount n 18 1
  else if f.sec.isSome then d.portCount n 16 1
  else d.rxAccepted n 0 f

/-- A frame arrives: sized, counted, filtered, checked and classified (R67 to R71). -/
def Dev.rxFrame (d : Dev) (f : Frame) : Dev :=
  let n := f.port
  if !(d.port n).admits || 4 ≤ n then d
  else
    let d := ((d.portCount n 1 f.len).portCount n 28 f.fecCorr).portCount n 29 f.fecUncorr
    if f.errorBlock then d.rxBad n f 15
    else if f.len < 64 then d.rxBad n f (if f.fcsOk then 11 else 12)
    else if d.maxLen n < f.len then d.rxLong n f
    else if !f.fcsOk then (d.rxBad n f 10).portCount n (20 + sizeBin f.len) 1
    else
      let d := ((d.portCount n 2 1).portCount n 0 f.len).portCount n (20 + sizeBin f.len) 1
      let d := (d.portCount n (3 + kindIndex f.dst) 1).portCount n 6 (b2n f.vlan.isSome)
      d.rxGood n f

/-- Whether a frame carries a MAC control opcode. -/
def Frame.isControl (f : Frame) (op : Nat) : Bool :=
  f.etherType == 0x8808 && match f.body with
    | .macControl o _ _ _ => o == op
    | _ => false

/-! ## Transmission (R73 to R78, R227) -/

/-- The frame that a port begins next, and the others: MAC control first, then the first data frame that no pause
holds. -/
def Port.nextFrame (p : Port) : Option (TxFrame × List TxFrame) :=
  let free := fun (f : TxFrame) => f.body.isControl || (p.pauseLeft == 0 && !p.pfcLeft.has f.pcp)
  let pick := match p.txq.find? fun f => f.body.isControl with
    | some f => some f
    | none => p.txq.find? free
  pick.map fun f => (f, p.txq.erase f)

/-- Count a frame that begins on the wire (R79). -/
def Dev.countTx (d : Dev) (n : Nat) (f : TxFrame) : Dev :=
  let d := ((d.portCount n 32 f.len).portCount n 33 1).portCount n (34 + kindIndex f.dst) 1
  let d := d.portCount n (44 + sizeBin f.len) 1
  match f.body with
  | .pause _ => d.portCount n 38 1
  | .pfc _ _ => d.portCount n 39 1
  | _ => d.portCount n 37 (b2n (d.portVlan n != 0))

/-- A frame begins transmission (R73, R76 to R78, R227). -/
def Dev.txStart (d : Dev) (n : Nat) : Dev :=
  let p := d.port n
  if p.link = .up then
    match p.nextFrame with
    | none => d
    | some (f, rest) =>
      let d := d.modPort n fun p => { p with txq := rest, current := none }
      if d.macsecOn n ∧ !f.body.isControl then
        match d.activeSa n with
        | none => d.count (secCnt 8)
        | some (i, s) =>
          ((d.saUse i s).countTx n f).modPort n fun p => { p with current := some ⟨f, d.cycles, some (i, s)⟩ }
      else (d.countTx n f).modPort n fun p => { p with current := some ⟨f, d.cycles, none⟩ }
  else d

/-- A cut-through frame's FIFO empties after `sent` bytes: the frame is stomped and CT_CUR rises (R74). -/
def Dev.txUnderrun (d : Dev) (n sent : Nat) : Dev :=
  let p := d.port n
  match d.onWire n with
  | some t =>
    let len := t.frame.len
    if n = 0 ∧ d.portMode = 3 ∧ d.regF (epReg 0 4) 16 16 = 1 ∧ p.ctCur < len ∧ p.ctCur ≤ sent ∧ sent + 4 < len then
      let ct := min 9216 (p.ctCur + 1024)
      let d := (d.cutFrame n 40 sent t).modPort n fun p => { p with ctCur := ct }
      ((d.raise (irqEp n 3)).raise (irqEp n 4)).log evCtRaised (be 4 ct)
    else d
  | none => d

/-- EP0_TX_CTL.CT_RESTORE (R74). -/
def Dev.ctRestore (d : Dev) : Dev := d.modPort 0 fun p => { p with ctCur := d.regF (epReg 0 4) 13 0 }

/-- EPn_STAT_CTL.CLEAR (R80). -/
def Dev.statClear (d : Dev) (n : Nat) : Dev := d.modPort n fun p => { p with counters := [] }

end Sys2Proof.Machine
end

