-- ==== Sys2Proof/Machine/DispatchOps.lean ====
section
/-! DEFINITION. The arbiter and dispatch: classes, windows, costs, lending, contexts and the choice of the next command
(R52, R115 to R121, R125, R132, R414). -/

set_option cleanup.letToHave false

namespace Sys2Proof.Machine

/-! ## Costs (R116) -/

/-- The value bytes that a command or Quire operation moves. -/
def Dev.costBytes (d : Dev) (op ns valLen : Nat) (key param : Bytes) : Nat :=
  match op with
  | 0x01 =>
    match d.root ns key with
    | some (_, _, v) => v.storedLen
    | none => 0
  | 0x06 => num param 8 4
  | 0x11 => num param 8 4
  | _ => valLen

/-- The cost of `b` value bytes. -/
def costOf (b : Nat) : Nat := 1 + ceilDiv b 4096

/-- The cost of a command: of a Quire the sum of its operations. -/
def Dev.cost (d : Dev) (c : Cmd) : Nat :=
  if c.op = 0x30 then
    match subRecords (num c.param 0 1) 0 c.value with
    | .ok l => (l.map fun r => costOf (d.costBytes r.op (r.nsField % 1024) r.valLen r.key r.param)).sum
    | .error _ => 1
  else costOf (d.costBytes c.op c.ns c.valLen c.key c.param)

/-! ## Classes and lending (R115, R125) -/


/-- The class of higher rank of two; management and League classes neither lend nor borrow. -/
def Engine.higher (e : Engine) (a b : Nat) : Nat :=
  if 6 ≤ a ∨ 6 ≤ b then a else if e.rank a < e.rank b then b else a

/-- The class that each waiting command is arbitrated as, latest arrival first: its own, or the highest lent by a later
command on one of its identities (R125). -/
def Dev.lentClasses (d : Dev) : List (Nat × Cmd) → List (Nat × Cmd × Nat)
  | [] => []
  | (n, c) :: r =>
    let later := Dev.lentClasses d r
    let cls := (later.filter fun x => c.shares x.2.1).foldl (fun a x => d.cqe.higher a x.2.2) (d.ownClass c)
    (n, c, cls) :: later

/-! ## Eligibility (R52, R118, R120, R132, R414) -/

/-- The commands that need firmware (R52). -/
def Dev.needsFirmware (d : Dev) (c : Cmd) : Bool :=
  firmwareOps.contains c.op || d.places c

/-- Whether a class has a context free. -/
def Engine.ctxFree (e : Engine) (cls : Nat) : Bool :=
  decide (e.flights.length < 16384) &&
    (cls == 0 || 6 ≤ cls || decide (e.flights.count (fun _ f => 1 ≤ f.cls && f.cls ≤ 5) < 15360))

/-- Whether commands may be dispatched at all: the device runs, and no reset, flush or pause stops it (R46, R51, R56,
R132). -/
def Dev.dispatches (d : Dev) : Bool :=
  d.admits && !d.cqe.paused

/-- The namespace ID that an NS_CREATE or NS_DELETE names. -/
def Cmd.nsIdOf (c : Cmd) : Option Nat :=
  let id := if c.op = 0x40 then (nsEntryOf c.param).nsId else c.ns
  if (c.op = 0x40 ∨ c.op = 0x41) ∧ id ≠ 0 then some id else none

/-- The same of a dispatched command: an NS_CREATE with NS_ID 0 has taken its ID once it runs. -/
def Flight.nsIdOf (f : Flight) : Option Nat :=
  match f.job with
  | .nsCreate e => some e.nsId
  | _ => f.cmd.nsIdOf

/-- Whether an earlier NS_CREATE or NS_DELETE of the same ID has still to end: they run in arrival order (R160). -/
def Dev.nsWaits (d : Dev) (n : Nat) (c : Cmd) : Bool :=
  match c.nsIdOf with
  | none => false
  | some id =>
    (d.cqe.queued.any fun p => p.1 < n && p.2.nsIdOf == some id) || d.cqe.flights.any fun p => p.1 < n && p.2.nsIdOf == some id

/-- Eligibility but for the context. A command that needs firmware waits for it, but for the lack of a control-core
domain, which ends it at dispatch (R52, R363). -/
def Dev.ready (d : Dev) (n : Nat) (c : Cmd) : Bool :=
  (c.whole || (dispatchesEarly c.op && !d.places c)) && d.cqe.atHead n c &&
    !(d.life.coresDown && d.ccOff.isNone && d.needsFirmware c) && !d.nsWaits n c

/-! ## The choice (R118) -/

/-- The commands that may be chosen: arrival, command and class. -/
def Dev.candidates (d : Dev) : List (Nat × Cmd × Nat) :=
  (d.lentClasses d.cqe.queued).filter fun x => d.ready x.1 x.2.1

/-- The next command of a class: sessions in round robin from the one after the last served, the earliest arrival of a
session first. -/
def Engine.headOf (e : Engine) (l : List (Nat × Cmd × Nat)) (cls : Nat) : Option (Nat × Cmd × Nat) :=
  let mine := l.filter fun x => x.2.2 == cls
  let from_ := e.sessNext.getD cls 0
  let lowest := fun (l : List (Nat × Cmd × Nat)) =>
    l.foldl (fun (best : Option (Nat × Cmd × Nat)) x =>
      match best with
      | none => some x
      | some y => if x.2.1.session < y.2.1.session then some x else some y) none
  match lowest (mine.filter fun x => from_ ≤ x.2.1.session) with
  | some x => some x
  | none => lowest mine

/-- One round of drr_next over classes 1 to 4, from the one after the last served (R118): the class that wins with the
cost of its head, and the deficits. -/
def Dev.drrNext (d : Dev) (l : List (Nat × Cmd × Nat)) : List Nat → List Int → Option (Nat × Cmd × Nat) × List Int
  | [], ds => (none, ds)
  | k :: r, ds =>
    match d.cqe.headOf l (k + 1) with
    | none => Dev.drrNext d l r (ds.set k 0)
    | some x =>
      let have_ := ds.getD k 0 + ((d.cqe.weights.getD k 1 * 16 : Nat) : Int)
      let cost := ((d.cost x.2.1 : Nat) : Int)
      if cost ≤ have_ then (some x, ds.set k (have_ - cost)) else Dev.drrNext d l r (ds.set k have_)

/-- The classes of the round in their order, as indices 0 to 3. -/
def Engine.drrOrder (e : Engine) : List Nat := (List.range 4).map fun i => (e.served + 1 + i) % 4

/-- Whether the urgent class is within its budget (R116). -/
def Engine.withinBudget (e : Engine) : Bool := e.uCost * 100 ≤ e.urgentPct * e.allCost

/-- choose_next of R118: the choice, whether it is urgent over budget, and the engine with its deficits. -/
def Dev.choose (d : Dev) : Option (Nat × Cmd × Nat) × Bool × Engine :=
  let e := d.cqe
  let l := d.candidates.filter fun x => e.ctxFree x.2.2
  let managed := l.filter fun x => x.2.2 != 6 || e.mgmt.getD x.2.1.session 0 < e.mRate
  match e.headOf l 7 with
  | some x => (some x, false, e)
  | none =>
    match (if e.withinBudget then e.headOf l 0 else none) with
    | some x => (some x, false, e)
    | none =>
      match e.headOf managed 6 with
      | some x => (some x, false, e)
      | none =>
        let (x, ds) := d.drrNext l e.drrOrder e.deficits
        let e := { e with deficits := ds }
        match x with
        | some x => (some x, false, { e with served := x.2.2 - 1 })
        | none =>
          match e.headOf l 0 with
          | some x => (some x, true, e)
          | none => (e.headOf l 5, false, e)

/-! ## Dispatch -/

/-- Report that a command waits for lack of a context, once for each time without one (R120, R134). -/
def Dev.ctxWatch (d : Dev) : Dev :=
  if !d.cqe.ctxWaited && d.candidates.any fun x => !d.cqe.ctxFree x.2.2 then
    ({ d with cqe := { d.cqe with ctxWaited := true } }).raise (irqCqe 2)
  else d

/-- That time ends: a record tells it where a command has waited (R134). -/
def Dev.ctxEnd (d : Dev) : Dev :=
  match d.cqe.ctxEmptySince with
  | none => d
  | some since =>
    if d.cqe.ctxFree 1 then
      let n := d.cqe.ctxWaited
      let d := { d with cqe := { d.cqe with ctxEmptySince := none, ctxWaited := false } }
      if n then d.log evCtxExhausted (be 4 ((d.cycles - since) / 1250)) else d
    else d

/-- The time without a context for weighted and background classes begins with the dispatch that takes the last one (R134). -/
def Engine.starve (e : Engine) (now : Nat) : Engine :=
  if e.ctxFree 1 || e.ctxEmptySince.isSome then e else { e with ctxEmptySince := some now }

/-- A command leaves its queue for a context, binds its keys and is charged (R116, R119, R120, R197). -/
def Dev.toFlight (d : Dev) (n : Nat) (c : Cmd) (cls : Nat) : Dev :=
  let cost := d.cost c
  let e := d.cqe
  let e := { e with
    queued := e.queued.del n
    flights := e.flights.put n ⟨{ c with cells := 0 }, cls, e.dispatched, d.bindKeys c, false, false, .fresh⟩
    dispatched := e.dispatched + 1
    allCost := e.allCost + cost
    uCost := if cls = 0 then e.uCost + cost else e.uCost
    mgmt := if cls = 6 then e.mgmt.put c.session (e.mgmt.getD c.session 0 + 1) else e.mgmt
    sessNext := e.sessNext.set cls (c.session + 1) }
  ({ d with cqe := e.starve d.cycles }.count (cqeCnt 1)).freeCells c.cells

/-- A dispatch opportunity: the next command takes a context and its dispatch checks run; a placed command's search
begins (R114, R118, R321). -/
def Dev.dispatch (d : Dev) : Dev :=
  if !d.dispatches then d
  else
  let d := d.ctxWatch
  match d.choose with
  | (none, _, e) => { d with cqe := e }
  | (some (n, c, cls), beyond, e) =>
    let d := ({ d with cqe := e }).toFlight n c cls
    let d := if beyond then d.count (cqeCnt 12) else d
    match d.dispatchRefusal c with
    | some (status, detail) =>
      let d := if c.op = 0x30 then d.count (cqeCnt 10) else d
      (d.finish n status 0 detail).flushesDone
    | none =>
      if !d.places c then d
      else match d.ccOff with
        | some dom => d.finish n stResourceOff 0 dom
        | none => d.startPlacing n

/-- A 1 ms window begins: the last window's costs are kept, and new policy values apply (R36, R116). -/
def Dev.arbWindow (d : Dev) : Dev :=
  let e := d.cqe
  { d with cqe := { e with
      lastU := min 0xFFFFFFFF e.uCost, lastAll := min 0xFFFFFFFF e.allCost, uCost := 0, allCost := 0, mgmt := []
      weights := (List.range 4).map fun i => d.regF 0x30000 (8 * i + 7) (8 * i)
      urgentPct := d.regF 0x30004 6 0, mRate := d.regF 0x30004 31 16 } }

/-- The dispatch pause begins (R132). -/
def Dev.pauseDispatch (d : Dev) : Dev := { d with cqe := { d.cqe with paused := true } }

/-- The dispatch pause ends: a new window with every deficit at zero (R132). -/
def Dev.resumeDispatch (d : Dev) : Dev :=
  let d := { d with cqe := { d.cqe with paused := false, deficits := [0, 0, 0, 0] } }
  d.arbWindow

/-- The TIMEOUT of a queued command has passed (R121); countdowns stand still in a pause and in a cores reset. A session
may then have nothing left that a FLUSH waits for. -/
def Dev.commandTimeout (d : Dev) (n : Nat) : Dev :=
  match d.cqe.queued.find n with
  | none => d
  | some c =>
    if c.timeout = 0 ∨ d.cqe.paused ∨ d.life.coresDown then d
    else
      (((({ d with cqe := { d.cqe with queued := d.cqe.queued.del n } }).freeCells c.cells).answerStatus c.session c.queue
        c.tag c.op stTimeout 0 0).flushesDone)

end Sys2Proof.Machine
end

