-- ==== Sys2Proof/Machine/DataRowOps.lean ====
section
/-! DEFINITION. What the data opcodes of Hash and Extent namespaces, QUIRE and FLUSH do once dispatched, and what the
pipeline's engines hand back (R127 to R131, R138 to R146, R183, R190 to R206). -/

set_option cleanup.letToHave false

namespace Sys2Proof.Machine

/-- A dispatched command of an opcode with its namespace. A namespace that has left since the dispatch checks ends it
with NS_UNKNOWN, and an index that has left with RESOURCE_OFF (R180). -/
def Dev.withNs (d : Dev) (ctx op : Nat) (run : Flight → Namespace → Dev) : Dev :=
  match d.fresh ctx op with
  | none => d
  | some f =>
    match d.activeNs f.cmd.ns with
    | none => d.finish ctx stNsUnknown 0 0
    | some n =>
      match (if n.entry.type ≤ 1 ∧ op ≠ 0x41 then d.idxOff else none) with
      | some dom => d.finish ctx stResourceOff 0 dom
      | none => run f n

/-! ## Reads (R140, R143, R201, R203, R204, R263) -/

/-- The lowest channel that a value's header lies on and that is not ON (R263). -/
def Dev.headerOff (d : Dev) (loc : Nat) (v : Value) : Option Nat :=
  if d.onFlash loc v.hdrGrains then
    let chans := d.channelsOf (locBushel loc) (locGrain loc) v.hdrGrains
    (List.range 16).find? fun c => chans.contains c && !d.domOn c
  else none

/-- Whether a read of some segments needs a DZ engine (R202). -/
def needsDz (segs : List ReadSeg) : Bool :=
  segs.any fun s =>
    match s.src.bind fun v => v.segs[s.idx]? with
    | some x => x.form == 1
    | none => false

/-- A lookup for a read: its reports, and the value found; a lookup without one ends the command (R140, R143, R201). -/
def Dev.findValue (d : Dev) (ctx ns : Nat) (key : Bytes) (bad : List (Nat × Nat)) (run : Nat → Value → Dev → Dev) : Dev :=
  let l := d.lookup ⟨ns, key, none, none⟩ bad
  let d := d.countLook l
  match l.hit with
  | some (_, e, v) =>
    match d.headerOff e.loc v with
    | some c => d.finish ctx stResourceOff 0 c
    | none => run e.loc v (if d.onFlash e.loc v.hdrGrains then d.countReads (locBushel e.loc) 1 else d)
  | none =>
    if l.bad.isEmpty then d.finish ctx stNotFound 0 0
    else d.finish ctx stIntegrity 0 0xFFFFFFFFFFFFFFFF

/-- Begin a read, unless it needs a DZ engine and none is ON (R202). -/
def Dev.beginRead (d : Dev) (ctx : Nat) (r : ReadJob) : Dev :=
  match (if needsDz r.segs then d.dzOff else none) with
  | some dom => d.finish ctx stResourceOff 0 dom
  | none => d.startRead ctx r

/-- The read of bytes `lo` to `hi` − 1 of a value. -/
def readJobOf (loc : Nat) (v : Value) (lo hi : Nat) : ReadJob :=
  { segs := readSegs loc v lo hi, raw := false, flags := 0, version := v.version, param := [], total := hi - lo, sent := false,
    delivered := 0 }

/-- The front of a stored-form image (R203). -/
def imageFront (v : Value) : Bytes :=
  be 4 0x53460001 ++ be 4 v.valueLen ++ be 2 v.segs.length ++ zeros 6 ++
    v.segs.flatMap fun s => be 1 s.form ++ be 3 s.body.length ++ be 4 s.crc

/-- The read of a value in its stored form (R203, R204). -/
def rawJobOf (loc : Nat) (v : Value) : ReadJob :=
  let front := imageFront v
  let lens := v.segs.map fun s => s.body.length
  let seg := fun (k : Nat) => ({
    no := k, loc := loc, src := some v, idx := k, off := 0, len := lens.getD k 0, pre := if k = 0 then front else [], post := []
    detail := front.length + (lens.take k).sum, ready := none, stop := none } : ReadSeg)
  let alone : ReadSeg :=
    { no := 0, loc := 0, src := none, idx := 0, off := 0, len := 0, pre := [], post := [], detail := 0, ready := some front, stop := none }
  { segs := if v.segs.isEmpty then [alone] else (List.range v.segs.length).map seg
    raw := true, flags := 0, version := v.version, param := [], total := front.length + lens.sum, sent := false, delivered := 0 }

/-- GET (R140, R204). -/
def Dev.runGet (d : Dev) (ctx : Nat) (bad : List (Nat × Nat)) : Dev :=
  d.withNs ctx 0x01 fun f _ =>
    d.findValue ctx f.cmd.ns f.cmd.key bad fun loc v d =>
      d.beginRead ctx (if f.cmd.raw then rawJobOf loc v else readJobOf loc v 0 v.valueLen)

/-- GET_RANGE (R140). -/
def Dev.runGetRange (d : Dev) (ctx : Nat) (bad : List (Nat × Nat)) : Dev :=
  d.withNs ctx 0x06 fun f _ =>
    d.findValue ctx f.cmd.ns f.cmd.key bad fun loc v d =>
      let lo := min v.valueLen (num f.cmd.param 0 8)
      d.beginRead ctx (readJobOf loc v lo (min v.valueLen (lo + num f.cmd.param 8 4)))

/-- EXISTS (R140, R143): the length in DETAIL. -/
def Dev.runExists (d : Dev) (ctx : Nat) (bad : List (Nat × Nat)) : Dev :=
  d.withNs ctx 0x04 fun f _ =>
    d.findValue ctx f.cmd.ns f.cmd.key bad fun _ v d =>
      d.finishWith ctx (response 0x04 stOk 0 0 v.version v.valueLen [] [])

/-- One segment of an EXTENT_READ: mapped, unmapped, or with a header that fails (R143, R202). -/
def Dev.extentSeg (d : Dev) (ns : Nat) (key : Bytes) (create : Nat) (bad : List (Nat × Nat)) (s a b : Nat) : ReadSeg × Dev :=
  let l := d.lookup ⟨ns, key, some s, some create⟩ bad
  let d := d.countLook l
  let hole : ReadSeg :=
    { no := 0, loc := 0, src := none, idx := 0, off := a, len := b - a, pre := [], post := [], detail := 65536 * s,
      ready := some (zeros (b - a)), stop := none }
  match l.hit with
  | some (_, e, v) => ({ hole with loc := e.loc, src := some v, ready := none }, d)
  | none =>
    if l.bad.isEmpty then (hole, d)
    else ({ hole with ready := none, stop := some (stIntegrity, 0xFFFFFFFFFFFFFFFF) }, d)

/-- The segments of an EXTENT_READ of bytes `lo` to `hi` − 1. -/
def Dev.extentSegs (ns : Nat) (key : Bytes) (create lo hi : Nat) (bad : List (Nat × Nat)) : List Nat → Dev → List ReadSeg × Dev
  | [], d => ([], d)
  | s :: r, d =>
    let (x, d) := d.extentSeg ns key create bad s (max lo (65536 * s) - 65536 * s) (min hi (65536 * (s + 1)) - 65536 * s)
    let (l, d) := Dev.extentSegs ns key create lo hi bad r d
    (x :: l, d)

/-- EXTENT_READ (R143). -/
def Dev.runExtentRead (d : Dev) (ctx : Nat) (bad : List (Nat × Nat)) : Dev :=
  d.withNs ctx 0x11 fun f _ =>
    d.findValue ctx f.cmd.ns f.cmd.key bad fun _ v d =>
      let lo := min v.valueLen (num f.cmd.param 0 8)
      let hi := min v.valueLen (lo + num f.cmd.param 8 4)
      let nos := if hi ≤ lo then [] else (List.range ((hi - 1) / 65536 + 1 - lo / 65536)).map (· + lo / 65536)
      let (segs, d) := Dev.extentSegs f.cmd.ns f.cmd.key v.createVer lo hi bad nos d
      d.beginRead ctx
        { segs := segs, raw := false, flags := 0, version := v.version, param := [], total := hi - lo, sent := false
          delivered := 0 }

/-! ## ITERATE (R142, R183) -/

/-- Whether a cursor was issued for a namespace (R183). -/
def cursorOk (n : Namespace) (c : Nat) : Bool :=
  c == 0 || (bits c 63 54 == n.entry.nsId && bits c 53 48 == 0 && bits c 47 32 == n.createVer % 65536 &&
    1 ≤ bits c 31 0 && bits c 31 0 ≤ 1879048192)

/-- The cursor that continues at a slot (R183). -/
def cursorAt (n : Namespace) (slot : Nat) : Nat := n.entry.nsId * 2 ^ 54 + n.createVer % 65536 * 2 ^ 32 + (slot + 1)

/-- An entry of ITERATE's data. -/
def iterEntry (v : Value) : Bytes :=
  let b := be 1 v.key.length ++ zeros 3 ++ be 4 (v.valueLen % 2 ^ 32) ++ be 8 v.version ++ v.key
  padTo (8 * ceilDiv b.length 8) b

/-- ITERATE (R117, R142, R183). Entries whose header fails its checks are left out and reported. -/
def Dev.runIterate (d : Dev) (ctx : Nat) (bad : List (Nat × Nat)) : Dev :=
  d.withNs ctx 0x07 fun f n =>
    let cursor := num f.cmd.param 0 8
    if !cursorOk n cursor then d.finish ctx stMalformed 0 2
    else
      let from_ := bits cursor 31 0 - 1
      let cands := d.idx.slots.filter fun p => from_ ≤ p.1 && !p.2.seg && p.2.tag == f.cmd.ns % 512
      let failed := bad.filter fun b => cands.any fun p => p.2.loc == b.1
      let d := d.reportHeaders failed
      let hits := cands.filterMap fun p =>
        if failed.any (fun b => b.1 == p.2.loc) then none
        else
          match d.fmm.values.find p.2.loc with
          | some v => if v.ns = f.cmd.ns then some (p.1, v) else none
          | none => none
      let max_ := num f.cmd.param 8 2
      let data := (hits.take max_).flatMap fun h => iterEntry h.2
      let next : Nat := match (hits.drop max_).head? with
        | some h => cursorAt n h.1
        | none => 0
      (d.chargeLate ctx data.length).finishWith ctx
        (response 0x07 stOk (if next == 0 then 0 else 4) data.length 0 0 (be 8 next) data)

/-! ## Writes (R129, R140, R141, R144 to R146, R156, R160) -/

/-- A write that nothing refuses begins, unless the key limit stands in its way (R156). -/
def Dev.startWrite (d : Dev) (ctx : Nat) (n : Namespace) (adds : Bool) (job : WriteJob) : Dev :=
  if adds ∧ idxLimit ≤ d.idx.used then (d.keysFull n.entry.nsId).finish ctx stNoSpace 0 0
  else (d.modFlight ctx fun f => { f with job := .write job }).advance ctx

/-- A write begins, unless its namespace takes none now (R160, R197, R199). -/
def Dev.beginWrite (d : Dev) (ctx : Nat) (f : Flight) (n : Namespace) (adds : Bool) (job : WriteJob) : Dev :=
  d.unlessRefused ctx (d.writeRefusal f n) fun d => d.startWrite ctx n adds job

/-- The operation of a write command on its key. -/
def Dev.ownOp (d : Dev) (f : Flight) (n : Namespace) (kind size : Nat) : WOp :=
  WOp.empty f.cmd.op kind f.cmd.ns f.cmd.key (d.boundKey f n) size

/-- The job of a PUT or CAS_PUT. -/
def Dev.putJob (d : Dev) (f : Flight) (n : Namespace) : WriteJob :=
  WriteJob.start [d.ownOp f n 0 f.cmd.valLen] (!f.cmd.raw && atomicSize < f.cmd.valLen) 0

/-- PUT (R140). -/
def Dev.runPut (d : Dev) (ctx : Nat) : Dev :=
  d.withNs ctx 0x02 fun f n => d.beginWrite ctx f n (d.root f.cmd.ns f.cmd.key).isNone (d.putJob f n)

/-- What refuses a CAS_PUT by the key's state: status and the version found (R141). -/
def casRefusal (expect : Nat) (present : Option Nat) : Option (Nat × Nat) :=
  match present with
  | none => if expect = 0 then none else some (stVersionMismatch, 0)
  | some v => if expect = 0 then some (stExists, v) else if expect = v then none else some (stVersionMismatch, v)

/-- The lookup of its key that a command makes before its write, and what the write does with it (R160, R166). -/
def Dev.withRoot (d : Dev) (ctx : Nat) (f : Flight) (n : Namespace) (run : Option Value → Dev → Dev) : Dev :=
  d.unlessRefused ctx (d.writeRefusal f n) fun d =>
    let (now, d) := d.lookFor ⟨f.cmd.ns, f.cmd.key, none, none⟩
    run (now.map fun r => r.2.2) d

/-- CAS_PUT (R141). -/
def Dev.runCas (d : Dev) (ctx : Nat) : Dev :=
  d.withNs ctx 0x05 fun f n =>
    d.withRoot ctx f n fun now d =>
      match casRefusal (num f.cmd.param 0 8) (now.map Value.version) with
      | some (status, v) => d.finish ctx status v 0
      | none => d.startWrite ctx n now.isNone (d.putJob f n)

/-- DELETE (R140, R146, R168). -/
def Dev.runDelete (d : Dev) (ctx : Nat) : Dev :=
  d.withNs ctx 0x03 fun f n =>
    d.withRoot ctx f n fun now d =>
      if now.isNone then d.finish ctx stNotFound 0 0
      else d.startWrite ctx n false (WriteJob.start [d.ownOp f n 0 0] false 0)

/-- EXTENT_WRITE (R143, R144). -/
def Dev.runExtentWrite (d : Dev) (ctx : Nat) : Dev :=
  d.withNs ctx 0x10 fun f n =>
    d.beginWrite ctx f n (d.root f.cmd.ns f.cmd.key).isNone
      (WriteJob.start [d.ownOp f n 1 0] false (num f.cmd.param 0 8))

/-- DISCARD (R143, R145). -/
def Dev.runDiscard (d : Dev) (ctx : Nat) : Dev :=
  d.withNs ctx 0x12 fun f n =>
    d.withRoot ctx f n fun now d =>
      if now.isNone then d.finish ctx stNotFound 0 0
      else d.startWrite ctx n false (WriteJob.start [d.ownOp f n 1 0] false (num f.cmd.param 0 8))

/-! ## QUIRE (R127, R128) -/

/-- The state of a key before an operation of a Quire: the version it is present with, 0 after an earlier operation of the
Quire that left it present. -/
def Dev.keyBefore (d : Dev) (prior : List WOp) (ns : Nat) (key : Bytes) : Option Nat :=
  let now := (d.root ns key).map fun r => r.2.2.version
  prior.foldl (fun (s : Option Nat) (o : WOp) =>
    if o.ns = ns ∧ o.key = key then (if o.op = 0x03 then none else some 0) else s) now

/-- Check one operation of a Quire and make its work: an error is a status and a version found, and whether
it refuses a stored-form image (R128, R131, R205). -/
def Dev.quireOne (d : Dev) (f : Flight) (prior : List WOp) (r : Req) : Except (Nat × Nat × Bool) WOp :=
  let ns := r.nsField % 1024
  match d.nsRefusal r.op (bit r.flags 0) f.cmd.fua ns r.key r.valLen r.param r.value, d.activeNs ns with
  | some (status, _), _ => .error (status, 0, false)
  | none, none => .error (stNsUnknown, 0, false)
  | none, some n =>
    let before := d.keyBefore prior ns r.key
    let bind := d.boundKey f n
    match d.writeRefusal f n with
    | some (status, _) => .error (status, 0, false)
    | none =>
      match (if r.op = 0x05 then casRefusal (num r.param 0 8) before else none) with
      | some (status, v) => .error (status, v, false)
      | none =>
        if (r.op = 0x03 ∨ r.op = 0x12) ∧ before.isNone then .error (stNotFound, 0, false)
        else if r.op = 0x03 then .ok (WOp.empty 0x03 0 ns r.key bind 0)
        else if r.op = 0x10 then
          .ok (d.extentOp prior 0x10 ns r.key bind (num r.param 0 8) (num r.param 0 8 + r.valLen) r.value)
        else if r.op = 0x12 then
          .ok (d.extentOp prior 0x12 ns r.key bind (num r.param 0 8) (num r.param 0 8 + num r.param 8 8) [])
        else if bit r.flags 0 then
          match rawSegs r.value with
          | none => .error (stMalformed, 0, true)
          | some (len, segs) => .ok { WOp.empty r.op 0 ns r.key bind len with segs := segs }
        else .ok { WOp.empty r.op 0 ns r.key bind r.valLen with segs := cutValue r.value }

/-- The check pass of a Quire in index order: its operations, or the failing index with its error. -/
def Dev.quireOps (d : Dev) (f : Flight) : Nat → List WOp → List Req → Except (Nat × Nat × Nat × Bool) (List WOp)
  | _, ops, [] => .ok ops
  | i, ops, r :: rest =>
    match d.quireOne f ops r with
    | .error e => .error (i, e)
    | .ok o => Dev.quireOps d f (i + 1) (ops ++ [o]) rest

/-- The namespace of a Quire's operation. -/
def subNs (subs : List Req) (i : Nat) : Nat := ((subs[i]?.map fun r => r.nsField).getD 0) % 1024

/-- QUIRE (R128). -/
def Dev.runQuire (d : Dev) (ctx : Nat) : Dev :=
  match d.fresh ctx 0x30 with
  | none => d
  | some f =>
    let subs := match subRecords (num f.cmd.param 0 1) 0 f.cmd.value with
      | .ok l => l
      | .error _ => []
    match d.quireOps f 0 [] subs with
    | .error (i, status, v, raw) =>
      let d := if raw then d.rawRefused (subNs subs i) 0 status else d
      ((d.reportRefusal status).count (cqeCnt 10)).finish ctx status v i
    | .ok ops =>
      let adds := ops.countP fun o => o.op != 0x03 && o.op != 0x12 && (d.root o.ns o.key).isNone
      if 0 < adds ∧ idxLimit ≤ d.idx.used then
        ((d.keysFull ((ops.head?.map fun o => o.ns).getD 0)).count (cqeCnt 10)).finish ctx stNoSpace 0
          ((ops.findIdx? fun o => o.op != 0x03 && o.op != 0x12 && (d.root o.ns o.key).isNone).getD 0)
      else (d.modFlight ctx fun f => { f with job := .write (WriteJob.start ops false 0) }).assign

/-! ## FLUSH (R130, R263, R326) -/

/-- FLUSH: it waits, or ends at once where what it awaits cannot be programmed (R263). -/
def Dev.runFlush (d : Dev) (ctx : Nat) : Dev :=
  match d.fresh ctx 0x38 with
  | none => d
  | some f =>
    let mine := d.fmm.staged.any fun s => s.session == f.cmd.session && s.arrival < ctx
    match (if mine then d.channelOff else none) with
    | some c => d.finish ctx stResourceOff 0 c
    | none =>
      let d := d.modFlight ctx fun f => { f with job := .flush }
      (d.flushMembers ctx f.cmd.session).flushesDone

/-! ## The end of a write's making: STAGING_COMPLETE (R17, R200) -/

/-- Every body of a write is in place: its commit. It waits while index changes are held (R175), and ends where the index has
left (R180). -/
def Dev.stagingComplete (d : Dev) (ctx : Nat) : Dev :=
  match d.flight ctx with
  | none => d
  | some f =>
    match f.write with
    | none => d
    | some w =>
      let indexed := !w.through && w.ops.any fun o => o.kind ≤ 2
      if w.phase = .building ∧ w.complete f.cmd then
        match (if indexed then d.idxOff else none) with
        | some dom => (d.failWrite ctx stResourceOff 0 dom).flushesDone
        | none => if indexed && d.idx.held then d.holdIndex else ((d.commit ctx f w).flushesDone).leaguePump
      else d

/-! ## Engines and lanes (R190, R191, R193, R194) -/

/-- Whether a stream is one that an engine makes of a segment: STATIC one block of fixed codes, DYNAMIC a block of dynamic
codes for every 16,384 bytes, no match beyond DEPTH earlier positions with the same three bytes, and no bit after the last
byte's padding (R190; log entry 82). -/
def czOutput (comp depth : Nat) (plain stream : Bytes) : Bool :=
  match inflateAll stream with
  | none => false
  | some x =>
    let n := plain.length
    x.bytes == plain && x.rest < 8 &&
      x.blocks == (if comp = 1 then [(1, n)] else (List.range (ceilDiv n 16384)).map fun i => (2, min n (16384 * (i + 1)))) &&
      x.copies.all fun c =>
        decide (((List.range c.2).countP fun i => slice plain (c.1 - 1 - i) 3 == slice plain c.1 3) ≤ depth)

/-- A CZ engine gives its segment back with its output: kept where it is a stream of the segment that fits, raw where it
passes L_max; anything else is no output of an engine and is discarded (R190, R191). -/
def Dev.compressed (d : Dev) (n : Nat) (stream : Bytes) : Dev :=
  match d.vpl.cz.find n with
  | none => d
  | some h =>
    match d.segOf h with
    | none => { d with vpl := { d.vpl with cz := d.vpl.cz.del n } }
    | some (_, o, s) =>
      match s.stage with
      | .compressing _ ng comp depth =>
        let keep := stream.length ≤ lMax s.len ng
        if keep ∧ !czOutput comp depth s.plain stream then d
        else
          let d := { d with vpl := { d.vpl with cz := d.vpl.cz.del n } }
          let d := if keep then d else d.count (vplCnt 2)
          (d.modWrite h.ctx fun w => w.modSeg h.op h.seg fun s =>
            { s with form := b2n keep, body := if keep then stream else s.plain, stage := afterCompress o }).assign
      | _ => d

/-- Whether a segment of a write is on a lane. -/
def SegStage.atLane : SegStage → Bool
  | .sealing _ => true
  | _ => false

/-- An AE lane has sealed its segment (R194). -/
def Dev.sealed (d : Dev) (n : Nat) : Dev :=
  match d.vpl.ae.find n with
  | none => d
  | some h =>
    match d.segOf h with
    | none => d
    | some (_, _, s) =>
      if !s.stage.atLane then d
      else
        let d := { d with vpl := { d.vpl with ae := d.vpl.ae.del n } }
        ((d.count (vplCnt 4)).modWrite h.ctx fun w => w.modSeg h.op h.seg fun s => { s with stage := .placed }).assign

/-! ## Checked segments (R128, R144, R201, R202, R205) -/

/-- How the media gives a segment that is still in staging: as it was stored. -/
def Dev.fromMedia (d : Dev) (loc : Nat) (v : Value) (k : Nat) (r : MediaRead) : MediaRead :=
  if d.onFlash (locOf (locBushel loc) (locGrain loc + v.segGrain k)) (ceilDiv ((v.segs[k]?.map fun s => s.body.length).getD 0) 64)
  then r else .good

/-- Check a segment of a stored value and leave behind what the read leaves behind. -/
def Dev.checkedSeg (d : Dev) (h : EngineHold) (loc : Nat) (v : Value) (k : Nat) (r : MediaRead) : SegCheck × Dev :=
  let r := d.fromMedia loc v k r
  let c := d.checkSeg h loc v k r
  let n := ceilDiv ((v.segs[k]?.map fun s => s.body.length).getD 0) 65536
  let d := (d.noteRead (locBushel loc) r).countReads (locBushel loc) n
  match c with
  | .pass _ _ => (c, if (v.segs[k]?.map fun s => s.form) = some 1 then d.count (vplCnt 6) else d)
  | _ => (c, d.reportCheck loc v k c)

/-- Whether a Furlong record is in no Bushel any more (R274, R290). -/
def Dev.reclaimed (d : Dev) (v : Value) : Bool :=
  v.kind == 3 && !(d.fmm.values.any fun p => p.2.kind == 3 && p.2.ns == v.ns && p.2.key == v.key && p.2.version == v.version)

/-- A segment of a read has been checked; a record that has been reclaimed before the scan reaches it is skipped (R274). -/
def Dev.readChecked (d : Dev) (ctx pos : Nat) (j : ReadJob) (r : MediaRead) : Dev :=
  match j.segs[pos]? with
  | none => d
  | some s =>
    match s.src with
    | none => d
    | some v =>
      let h : EngineHold := ⟨ctx, 0, s.no⟩
      if s.ready.isSome ∨ s.stop.isSome ∨ !d.mayCheck (v.need s.idx h) then d
      else if d.reclaimed v ∧ (j.segs.any fun x => x.loc == s.loc && x.idx == 0 && x.ready.isNone) then
        let segs := j.segs.filter fun x => x.loc != s.loc
        (((d.holdOnly ctx segs).modFlight ctx fun f => { f with job := .read { j with segs := segs } }).releaseRead ctx).assign
      else
        let (c, d) := d.checkedSeg h s.loc v s.idx r
        let segs := match c with
          | .pass plain stored =>
            j.segs.set pos { s with ready := some (if j.raw then stored else slice plain s.off s.len) }
          | _ => j.segs.take pos ++ [{ s with stop := some (c.status s.detail) }]
        (((d.holdOnly ctx segs).modFlight ctx fun f => { f with job := .read { j with segs := segs } }).releaseRead ctx).assign

/-- The segment of a write at a position, counted over its operations in order: operation, index, segment. -/
def flatSeg : Nat → List WOp → Nat → Option (Nat × Nat × WOp × SegWork)
  | _, [], _ => none
  | i, o :: r, pos =>
    match o.segs[pos]? with
    | some s => some (i, pos, o, s)
    | none => flatSeg (i + 1) r (pos - o.segs.length)

/-- A write's merge read or RAW check fails. -/
def Dev.mergeFailed (d : Dev) (ctx op : Nat) (quire : Bool) (status detail : Nat) : Dev :=
  let d := if quire then d.count (cqeCnt 10) else d
  d.failWrite ctx status 0 (if quire then op else detail)

/-- A segment of a write has been read for its merge, or its RAW body has been checked (R128, R144, R205). -/
def Dev.writeChecked (d : Dev) (ctx pos : Nat) (f : Flight) (w : WriteJob) (r : MediaRead) : Dev :=
  match flatSeg 0 w.ops pos with
  | none => d
  | some (i, k, o, s) =>
    let quire := f.cmd.op == 0x30
    let h : EngineHold := ⟨ctx, i, k⟩
    let free := fun (d : Dev) => { d with vpl := d.vpl.keepHolds fun x => x != h }
    let goOn := fun (d : Dev) (g : SegWork → SegWork) => (d.modWrite ctx fun w => w.modSeg i k g).assign
    if !d.mayCheck (d.writeNeed h o s) then d
    else
      match s.stage with
      | .merging =>
        match d.lookFor ⟨o.ns, o.key, some s.no, none⟩ with
        | (none, d) => goOn d fun s => s.merged []
        | (some (_, e, v), d) =>
          let (c, d) := d.checkedSeg h e.loc v 0 r
          match c with
          | .pass plain _ => goOn (free d) fun s => s.merged plain
          | _ =>
            let (status, detail) := c.mergeStatus s.no
            d.mergeFailed ctx i quire status detail
      | .checking =>
        match checkBody (d.dzMissing h) s.form s.len s.crc s.body with
        | .pass _ _ => goOn (free (if s.form = 1 then d.count (vplCnt 6) else d)) fun s => { s with stage := afterCompress o }
        | .off dom => d.mergeFailed ctx i quire stResourceOff dom
        | _ => (d.rawRefused o.ns s.no stIntegrity).mergeFailed ctx i quire stIntegrity (65536 * s.no)
      | _ => d

/-- SEGMENT_CHECKED: a segment of a read, of a merge or of a RAW PUT passes or fails its checks; `pos` is its place
among those of its command that have not been released. -/
def Dev.segmentChecked (d : Dev) (ctx pos : Nat) (r : MediaRead) : Dev :=
  match d.flight ctx with
  | none => d
  | some f =>
    match f.job with
    | .read j => d.readChecked ctx pos j r
    | .write w => if w.phase = .building then d.writeChecked ctx pos f w r else d
    | _ => d

end Sys2Proof.Machine
end

