-- ==== Sys2Proof/Machine/CaptureRowOps.lean ====
section
/-! DEFINITION. What the opcodes of Furlong and Chain namespaces and of Fathom windows do, and trigger firings (R271 to
R290). -/

set_option cleanup.letToHave false

namespace Sys2Proof.Machine

/-! ## Furlong (R271 to R274) -/

/-- STREAM_APPEND (R271, R272). -/
def Dev.runAppend (d : Dev) (ctx : Nat) : Dev :=
  d.withNs ctx 0x20 fun f n =>
    let stream := num f.cmd.param 0 2
    let time := num f.cmd.param 4 8
    let last := match d.cap.streams.find (streamKey f.cmd.ns stream) with
      | some s => s.last
      | none => 0
    if time < last then d.finish ctx stMalformed 0 2
    else
      let o := { d.ownOp f n 3 f.cmd.valLen with key := be 2 stream, time := time }
      d.beginWrite ctx f n false (WriteJob.start [o] (atomicSize < f.cmd.valLen) 0)

/-- TIME and SEQ of a Furlong record's key (R271). -/
def recTime (v : Value) : Nat := num v.key 2 8
def recSeq (v : Value) : Nat := num v.key 10 4

/-- The order of a stream's records (R272). -/
def recLe (a b : Nat × Value) : Bool :=
  recTime a.2 < recTime b.2 || (recTime a.2 == recTime b.2 && seqLe (recSeq a.2) (recSeq b.2))

/-- Records of a list whose key has not come before. -/
def distinctRecs : List (Nat × Value) → List (Nat × Value)
  | [] => []
  | x :: r => x :: (distinctRecs r).filter fun y => y.2.key != x.2.key

/-- The records of a stream in a range, in order (R274). -/
def Dev.streamRecs (d : Dev) (ns stream seqFrom tFrom tTo : Nat) : List (Nat × Value) :=
  let mine := d.fmm.values.filter fun p =>
    p.2.kind == 3 && p.2.ns == ns && num p.2.key 0 2 == stream && recTime p.2 ≤ tTo &&
      (tFrom < recTime p.2 || (tFrom == recTime p.2 && !seqLt (recSeq p.2) seqFrom))
  sortBy recLe (distinctRecs mine)

/-- The data that one scanned record makes: its 16-byte prefix and its value, padded to a multiple of 8. -/
def scannedLen (len : Nat) : Nat := 16 + 8 * ceilDiv len 8

/-- Data of a scan at most (R274). -/
def scanBound : Nat := 33554392

/-- Take records while the count and the size bound last; the first always fits. -/
def takeScan {α : Type} (len : α → Nat) : Nat → Nat → List α → List α
  | 0, _, _ => []
  | _, _, [] => []
  | n + 1, used, x :: r =>
    let size := scannedLen (len x)
    if used ≠ 0 ∧ scanBound < used + size then [] else x :: takeScan len n (used + size) r

/-- The segments that send one record: the prefix with the first, the padding with the last (R202, R274). -/
def recordSegs (loc : Nat) (v : Value) (pre : Bytes) : List ReadSeg :=
  let post := zeros (8 * ceilDiv v.valueLen 8 - v.valueLen)
  let segs := readSegs loc v 0 v.valueLen
  if segs.isEmpty then
    [{ no := 0, loc := 0, src := none, idx := 0, off := 0, len := 0, pre := [], post := [], detail := 0, ready := some pre, stop := none }]
  else
    let n := segs.length
    (List.range n).zip segs |>.map fun p =>
      { p.2 with pre := if p.1 = 0 then pre else [], post := if p.1 + 1 = n then post else [] }

/-- A record whose header fails its checks ends the scan (R201, R202). -/
def badRecord : ReadSeg :=
  { no := 0, loc := 0, src := none, idx := 0, off := 0, len := 0, pre := [], post := [], detail := 0, ready := none
    stop := some (stIntegrity, 0xFFFFFFFFFFFFFFFF) }

/-- The segments of the records of a scan, up to the first whose header is among those that fail. -/
def scanSegs {α : Type} (bad : List (Nat × Nat)) (loc : α → Nat) (segs : α → List ReadSeg) : List α → List ReadSeg
  | [] => []
  | x :: r => if bad.any fun b => b.1 == loc x then [badRecord] else segs x ++ scanSegs bad loc segs r

/-- The header that stops a scan is reported. -/
def Dev.reportScan (d : Dev) (bad : List (Nat × Nat)) (locs : List Nat) : Dev :=
  d.reportHeaders ((locs.filterMap fun l => bad.find? fun b => b.1 == l).take 1)

/-- Begin a scan whose length is not known at dispatch (R110, R117). -/
def Dev.beginScan (d : Dev) (ctx : Nat) (segs : List ReadSeg) (more : Bool) (bytes : Nat) : Dev :=
  (d.chargeLate ctx bytes).beginRead ctx
    { segs := segs, raw := false, flags := if more then 4 else 0, version := 0, param := [], total := 0xFFFFFFFF, sent := false
      delivered := 0 }

/-- STREAM_SCAN (R274). -/
def Dev.runScan (d : Dev) (ctx : Nat) (bad : List (Nat × Nat)) : Dev :=
  d.withNs ctx 0x21 fun f _ =>
    let p := f.cmd.param
    let (tFrom, tTo) := (num p 8 8, num p 16 8)
    if tTo < tFrom then d.finish ctx stMalformed 0 2
    else
      let recs := d.streamRecs f.cmd.ns (num p 0 2) (num p 4 4) tFrom tTo
      if recs.isEmpty then d.finish ctx stNotFound 0 0
      else
        let out := takeScan (fun (x : Nat × Value) => x.2.valueLen) (num p 24 4) 0 recs
        let one := fun (x : Nat × Value) =>
          recordSegs x.1 x.2 (be 8 (recTime x.2) ++ be 4 (recSeq x.2) ++ be 4 x.2.valueLen)
        (d.reportScan bad (out.map Prod.fst)).beginScan ctx (scanSegs bad Prod.fst one out) (out.length < recs.length) ((out.map fun x => scannedLen x.2.valueLen).sum)

/-! ## Fathom windows (R276 to R280, R290) -/

/-- The largest time. -/
def timeTop : Nat := 0xFFFFFFFFFFFFFFFF

/-- A window opens: it pins, its table write is due, and FTH_OPENED is written (R276, R280). -/
def Dev.openWindow (d : Dev) (w source t before after tq : Nat) : Dev :=
  let x : Window := ⟨source, t, t - before * 1000000, min timeTop (t + after * 1000000), tq, 0⟩
  ((d.putWindow w x).raise (irqXt 0)).log evFthOpened
    (be 1 w ++ be 1 source ++ be 8 t ++ be 8 x.start ++ be 8 x.stop ++ be 1 tq)

/-- FATHOM_PIN (R276). -/
def Dev.runPin (d : Dev) (ctx : Nat) : Dev :=
  match d.fresh ctx 0x22 with
  | none => d
  | some f =>
    match d.freeWindow with
    | none => d.finish ctx stBusy 0 4
    | some w =>
      let p := f.cmd.param
      let t := if num p 0 8 = 0 then d.now else num p 0 8
      (d.openWindow w 0 t (num p 8 4) (num p 12 4) d.tq).modFlight ctx fun f => { f with job := .window w none }

/-- Whether a release of a window waits for the window table. -/
def Dev.releasing (d : Dev) (w : Nat) : Bool :=
  d.cqe.flights.any fun p => match p.2.job with
    | .window x (some _) => x == w
    | _ => false

/-- FATHOM_RELEASE (R279): the window is given up once the table's write has committed. -/
def Dev.runRelease (d : Dev) (ctx : Nat) : Dev :=
  match d.fresh ctx 0x23 with
  | none => d
  | some f =>
    let w := num f.cmd.param 0 1
    if !d.cap.windows.has w ∨ d.releasing w then d.finish ctx stNotFound 0 0
    else
      { d with cap := { d.cap with windowDirty := true } }.modFlight ctx fun f => { f with job := .window w (some 0) }

/-- The window table is on flash: releases take effect, and the commands that wait for it answer (R276, R279, R280). -/
def Dev.windowCommit (d : Dev) : Dev :=
  let d := d.cqe.flights.foldl (fun (d : Dev) (p : Nat × Flight) =>
    match p.2.job with
    | .window w (some _) =>
      let (n, d) := d.freeWindowPins w
      (d.log evFthReleased (be 1 w ++ be 4 n ++ be 2 p.2.cmd.session)).finishOk p.1 0 [] []
    | _ => d) d
  let d := { d with cap := { d.cap with windowsKept := d.cap.windows, windowDirty := false } }
  (d.cqe.flights.foldl (fun (d : Dev) (p : Nat × Flight) =>
    match p.2.job with
    | .window w none => d.finishOk p.1 0 (be 1 w ++ zeros 3) []
    | _ => d) d).nextColl

/-- BEFORE and AFTER of a trigger input, in ms, from its registers (R277, R385). -/
def Dev.trigSpan (d : Dev) (t : Nat) : Nat × Nat :=
  (1000 * d.regF (0x3014 + 0x10 * t) 25 16, 1000 * d.regF (0x3014 + 0x10 * t) 6 0)

/-- A firing of input `t` at time `at_`: it merges, opens a window or is missed (R277). -/
def Dev.firing (d : Dev) (t at_ tq : Nat) : Dev :=
  let (before, after) := d.trigSpan t
  let start := at_ - before * 1000000
  let stop := min timeTop (at_ + after * 1000000)
  let near := fun (_ : Nat) (x : Window) => x.source != 0 && start ≤ x.stop + 1 && x.start ≤ stop + 1
  match d.cap.windows.first near with
  | some (w, x) =>
    let x := { x with start := min x.start start, stop := max x.stop stop, merges := x.merges + 1 }
    ((d.putWindow w x).raise (irqXt 0)).log evFthMerged (be 1 w ++ be 1 t ++ be 8 x.start ++ be 8 x.stop)
  | none =>
    match d.freeWindow with
    | some w => d.openWindow w (t + 1) at_ before after tq
    | none =>
      (({ d with cap := { d.cap with missed := satAdd 255 d.cap.missed 1 } }).raise (irqXt 1)).log evFthMissed
        (be 1 t ++ be 8 at_)

/-- The firings held during a start are handled, in their order (R277). -/
def Dev.heldFirings (d : Dev) : Dev :=
  let l := d.cap.firings
  l.foldl (fun (d : Dev) (x : Nat × Nat × Nat) => d.firing x.1 x.2.1 x.2.2) { d with cap := { d.cap with firings := [] } }

/-! ## Chains (R281 to R289) -/

/-- What stops a Chain write before it begins: the Chain tag key or, for a seal, IK is not there (R282, R290). -/
def Dev.chainRefusal (d : Dev) (signs : Bool) : Option (Nat × Nat) :=
  if d.chainKey.isNone ∨ (signs ∧ d.sec.ik.isNone) then some (stKeyLost, d.chainSlot) else none

/-- CHAIN_APPEND (R282, R283, R289). -/
def Dev.runChainAppend (d : Dev) (ctx : Nat) : Dev :=
  d.withNs ctx 0x28 fun f n =>
    d.unlessRefused ctx ((d.writeRefusal f n).orElse fun _ => d.chainRefusal false) fun d =>
      let l := d.ledger f.cmd.ns
      if lastSeq ≤ l.next then
        let d := if l.ended then d else (d.setLedger f.cmd.ns { l with ended := true }).log evChnSeqEnd (be 2 f.cmd.ns)
        (d.raise (irqXt 4)).finish ctx stChainFull 0 0
      else
        d.startWrite ctx n false (WriteJob.start [{ d.ownOp f n 4 0 with key := [] }] false 0)

/-- The last record of a ledger. -/
def Ledger.lastRec (l : Ledger) : Option (Nat × ChainRec) := l.recs.getLast?

/-- The version of the record that a location holds. -/
def Dev.versionAt (d : Dev) (loc : Nat) : Nat :=
  match d.fmm.values.find loc with
  | some v => v.version
  | none => 0

/-- Begin the write of one seal at the next sequence (R283, R284). -/
def Dev.beginSeal (d : Dev) (ctx : Nat) (f : Flight) (n : Namespace) (l : Ledger) (cause : Nat) (param : Bytes) : Dev :=
  let bind := d.boundKey f n
  match d.chainKey.bind fun k => d.addSeal ⟨l.next, l.lastHash, []⟩ n.entry.nsId l.first n.entry.retention cause bind k.key with
  | none => d.finish ctx stNoSpace 0 1
  | some (r, d) =>
    (d.modFlight ctx fun f => { f with job := .write { WriteJob.start r.ops false 0 with param := param } }).assign

/-- CHAIN_SEAL (R283, R289, R290). -/
def Dev.runChainSeal (d : Dev) (ctx : Nat) : Dev :=
  d.withNs ctx 0x2A fun f n =>
    d.unlessRefused ctx ((d.writeRefusal f n).orElse fun _ => d.chainRefusal true) fun d =>
      let l := d.ledger f.cmd.ns
      match (if lastSeq < l.next then none else l.dueCause), l.lastRec with
      | some c, _ => d.beginSeal ctx f n l c (be 8 l.next)
      | none, some (k, r) =>
        if r.sealRec then d.finishOk ctx (d.versionAt r.loc) (be 8 k) []
        else d.beginSeal ctx f n l 2 (be 8 l.next)
      | none, none => d.beginSeal ctx f n l 2 (be 8 l.next)

/-- The segments that send one Chain record (R285). -/
def Dev.chainSegs (d : Dev) (x : Nat × ChainRec) : List ReadSeg :=
  let pre := be 8 x.1 ++ be 4 x.2.len ++ zeros 4
  match d.fmm.values.find x.2.loc with
  | some v => recordSegs x.2.loc v pre
  | none => [badRecord]

/-- CHAIN_READ (R285). -/
def Dev.runChainRead (d : Dev) (ctx : Nat) (bad : List (Nat × Nat)) : Dev :=
  d.withNs ctx 0x29 fun f _ =>
    let l := d.ledger f.cmd.ns
    let from_ := max (num f.cmd.param 0 8) l.first
    let recs := l.recs.filter fun p => from_ ≤ p.1
    if recs.isEmpty then d.finish ctx stNotFound 0 0
    else
      let out := takeScan (fun (x : Nat × ChainRec) => x.2.len) (num f.cmd.param 8 4) 0 recs
      let loc := fun (x : Nat × ChainRec) => x.2.loc
      (d.reportScan bad (out.map loc)).beginScan ctx (scanSegs bad loc d.chainSegs out) (out.length < recs.length) ((out.map fun x => scannedLen x.2.len).sum)

/-! ## Expiry (R286, R287) -/

/-- Whether a TQ shows SYNCED or HOLDOVER. -/
def tqTrusted (tq : Nat) : Bool := tq % 4 == 1 || tq % 4 == 2

/-- When a record's retention starts, from it and the later records (R286). -/
def retentionStart (l : Tab ChainRec) : Option Nat := (l.find? fun p => tqTrusted p.2.tq).map fun p => p.2.time

/-- Whether the first record of a list has passed its retention (R286). -/
def Dev.passedRetention (d : Dev) (days : Nat) (l : Tab ChainRec) : Bool :=
  tqTrusted d.tq &&
    match retentionStart l with
    | some s => s + days * 86400000000000 + 1000000000 ≤ d.now
    | none => false

/-- How many records at the front of a list CHAIN_EXPIRE removes (R287, R289). -/
def Dev.expirable (d : Dev) (days upTo : Nat) : Tab ChainRec → Nat
  | [] => 0
  | x :: r => if x.1 ≤ upTo ∧ x.1 ≠ lastSeq ∧ d.passedRetention days (x :: r) then 1 + d.expirable days upTo r else 0

/-- The first unexpired record, or the next sequence, once `n` records have left. -/
def Ledger.firstAfter (l : Ledger) (n : Nat) : Nat :=
  match (l.recs.drop n).head? with
  | some x => x.1
  | none => l.next

/-- CHAIN_EXPIRE (R199, R287): with an exhausted counter the records leave and the seal stays due. -/
def Dev.runChainExpire (d : Dev) (ctx : Nat) : Dev :=
  d.withNs ctx 0x2B fun f n =>
    d.unlessRefused ctx ((d.keyRefusal f n).orElse fun _ => d.chainRefusal true) fun d =>
      let l := d.ledger f.cmd.ns
      let upTo := num f.cmd.param 0 8
      let count := d.expirable n.entry.retention upTo l.recs
      if l.recs.isEmpty then d.finishOk ctx 0 (zeros 16) []
      else if upTo < l.first ∨ l.first = lastSeq then d.finishOk ctx 0 (zeros 8 ++ be 8 l.first) []
      else if count = 0 then d.finish ctx stRetentionLocked 0 l.first
      else if d.channelOff.isSome ∧ !d.fitsGroup 3 8 then d.finish ctx stResourceOff 0 (d.channelOff.getD 0)
      else
        let first := l.firstAfter count
        let gone := l.recs.take count
        let sealing := l.next ≤ lastSeq
        let l' := { l with first := first, recs := l.recs.drop count, expiryDue := l.expiryDue || sealing }
        let d := gone.foldl (fun (d : Dev) (x : Nat × ChainRec) => d.invalidateValue x.2.loc) (d.setLedger f.cmd.ns l')
        let d := d.chainLevel.log evChnExpired (be 2 f.cmd.ns ++ be 8 count ++ be 8 first ++ be 2 f.cmd.session)
        let param := be 8 count ++ be 8 first
        if sealing ∧ d.vpl.wctr ≤ wctrLast then d.beginSeal ctx f n l' 3 param
        else (if sealing then d.reportExhausted else d).finishOk ctx 0 param []

/-- Expiry seals that are due are written once the reserve has room (R287); such a seal is stored raw: DESIGN CHOICE (log
entry 31). -/
def Dev.writeDueSeals (d : Dev) : Dev :=
  d.cap.ledgers.foldl (fun (d : Dev) (p : Nat × Ledger) =>
    match d.ns p.1, d.chainKey with
    | some n, some k =>
      if !p.2.expiryDue then d
      else
        match d.addSeal ⟨p.2.next, p.2.lastHash, []⟩ p.1 p.2.first n.entry.retention 3 (d.nsKey n) k.key with
        | some (r, d') =>
          match r.ops with
          | [o] =>
            let put := fun (c : Nat) => { o with segs := o.segs.map fun (s : SegWork) =>
              { s with form := 0, body := s.plain, counter := c, stage := .placed } }
            let (o, d') : WOp × Dev :=
              if o.bind.isSome then
                match d'.drawCtr with
                | (some c, d') => (put c, d')
                | (none, d') => (put 0, d')
              else (put 0, d')
            match d'.commitChain ⟨0, 0xFFFF, 0⟩ o with
            | .ok (_, d') => d'
            | .error _ => d
          | _ => d
        | none => d
    | _, _ => d) d

end Sys2Proof.Machine
end

