-- ==== Sys2Proof/Machine/NsRowOps.lean ====
section
/-! DEFINITION. Namespaces: creation, deletion, queries, the policy register, and the purge (R146, R149 to R158, R181,
R182, R207). -/

set_option cleanup.letToHave false

namespace Sys2Proof.Machine

/-! ## Creation (R150 to R152, R155) -/

/-- Namespaces whose table entry is still being written. -/
def Dev.pendingNs (d : Dev) : List NsEntry :=
  d.cqe.flights.filterMap fun p =>
    match p.2.job with
    | .nsCreate e => some e
    | _ => none

/-- Whether an ID is taken: in use, in DELETING or about to be created. -/
def Dev.nsTaken (d : Dev) (n : Nat) : Bool := d.nss.has n || d.pendingNs.any fun e => e.nsId == n

/-- The lowest free ID. -/
def Dev.freeNs (d : Dev) : Option Nat := ((List.range 1023).map (· + 1)).find? fun n => !d.nsTaken n

/-- The Furlong reservations, those about to be made included. -/
def Dev.furlongPledged (d : Dev) : Nat :=
  d.furlongReserved + (d.pendingNs.map fun e => if e.type = 2 then e.capacity else 0).sum

/-- Bushels of the user pool that are neither reserved nor holding valid Hash and Extent data (R155). -/
def Dev.poolUncommitted (d : Dev) : Nat :=
  d.userPool - d.furlongPledged - d.fmm.bushels.count fun _ x => x.held && x.area == 0 && x.ns == 0 && 0 < x.valid

/-- The DEPTH that a namespace holds: with COMP 0 a value outside 4 to 256 is held as 0 (R149). -/
def heldDepth (comp depth : Nat) : Nat := if comp = 0 ∧ (depth < 4 ∨ 256 < depth) then 0 else depth

/-- The entry that NS_CREATE carries, none where a field breaks its range or a reserved byte is not zero. NS_ID 0 is
in range here (R149, R151). -/
def createEntry (p : Bytes) : Option NsEntry :=
  let e := nsEntryOf p
  if nsEntryBytes e ≠ p ∨ !nsEntryOk { e with nsId := max 1 e.nsId } then none
  else some { e with depth := heldDepth e.comp e.depth }

/-- The checks of NS_CREATE after the first: status and DETAIL (R151). -/
def Dev.createRefusal (d : Dev) (e : NsEntry) : Option (Nat × Nat) :=
  let beyond := d.furlongPledged + e.capacity - 8192
  let short := 48 + e.capacity - d.poolUncommitted
  if e.nsId ≠ 0 ∧ d.nsTaken e.nsId then some (stExists, e.nsId)
  else if e.nsId = 0 ∧ d.freeNs.isNone then some (stBusy, 5)
  else if e.enc = 1 ∧ d.aeMask = 0 then some (stNotAuthorised, 0)
  else if e.enc = 1 ∧ (d.bindKey e.keySlot 1).isNone then some (stNotAuthorised, e.keySlot)
  else if e.type ≤ 2 ∧ (d.fmm.exhausted ∨ d.sparesLeft = 0) then some (stMediaExhausted, 0)
  else if e.type = 2 ∧ 0 < max beyond short then some (stNoSpace, max beyond short)
  else if e.type = 3 ∧ d.chainQuota = 0 then some (stNoSpace, 0)
  else if wctrLast < d.vpl.wctr then some (stNoSpace, 0)
  else none

/-- NS_CREATE (R151, R152): its checks, then the table write. -/
def Dev.runNsCreate (d : Dev) (ctx : Nat) : Dev :=
  match d.fresh ctx 0x40 with
  | none => d
  | some f =>
    match createEntry f.cmd.param with
    | none => d.finish ctx stMalformed 0 2
    | some e =>
      match d.createRefusal e with
      | some (status, detail) => (d.reportRefusal status).finish ctx status 0 detail
      | none =>
        let id := if e.nsId = 0 then d.freeNs.getD 0 else e.nsId
        d.modFlight ctx fun f => { f with job := .nsCreate { e with nsId := id } }

/-- A fresh salt from SEC: the first value from a drawn one on that no namespace has had (R150). That SEC passes over the
others so: DESIGN CHOICE (log entry 83). -/
def Dev.drawSalt (d : Dev) : Bytes × Dev :=
  let (b, d) := d.draw 4
  let salts := (List.range (d.vpl.salts.length + 1)).map fun i => be 4 ((beVal b + i) % 2 ^ 32)
  let salt := (salts.find? fun s => !d.vpl.salts.contains s).getD b
  (salt, { d with vpl := { d.vpl with salts := salt :: d.vpl.salts } })

/-- A namespace of an entry, as it is created: its creation version is drawn, and its salt where ENC is 1; none once the
write counter is exhausted (R139, R150, R199). -/
def Dev.newNamespace (d : Dev) (e : NsEntry) : Option Namespace × Dev :=
  match d.drawCtr with
  | (none, d) => (none, d)
  | (some ver, d) =>
    let (salt, d) := if e.enc = 1 then d.drawSalt else ([], d)
    let depth := heldDepth e.comp e.depth
    (some { entry := { e with depth := depth }, comp := e.comp, depth := depth, noGain := e.noGain, cls := e.cls
            createVer := ver, salt := salt, state := .active, order := 0, sweepStart := none, lastVersion := 0, keyGen := 0 }, d)

/-- The table write of an NS_CREATE has committed (R152); with the counter exhausted since its checks it ends (R199). -/
def Dev.created (d : Dev) (ctx session : Nat) (e : NsEntry) : Dev :=
  match d.newNamespace e with
  | (none, d) => d.finish ctx stNoSpace 0 0
  | (some n, d) =>
    let d := { d with nss := d.nss.put e.nsId n }
    let size := if e.type = 3 then e.retention else e.capacity
    (d.log evNsCreated (be 2 e.nsId ++ be 1 e.type ++ be 1 e.comp ++ be 1 e.enc ++ be 4 size ++ be 2 session)).finishOk ctx 0
      (be 2 e.nsId ++ zeros 2) []

/-! ## What a namespace holds (R157) -/

/-- The values of a namespace that are held: those its index, ring or ledger reaches. -/
def Dev.nsValues (d : Dev) (n type : Nat) : List (Nat × Value) :=
  let l := d.fmm.values.filter fun p => p.2.ns == n && d.validValue p.1 p.2
  if type = 2 then distinctRecs l else l

/-- KEYS of a namespace (R157). -/
def Dev.nsKeys (d : Dev) (n type : Nat) : Nat :=
  if type ≤ 1 then d.idx.keys.getD n 0
  else if type = 2 then (d.nsValues n 2).length
  else (d.ledger n).recs.length

/-- Index entries that still point at values of a namespace. -/
def Dev.nsEntries (d : Dev) (n : Nat) : Nat :=
  d.idx.slots.count fun _ e => match d.fmm.values.find e.loc with
    | some v => v.ns == n
    | none => false

/-- Bytes of a value that count as written: of an Extent segment up to its object's size (R157). -/
def Dev.logicalOf (d : Dev) (v : Value) : Nat :=
  if v.kind = 1 then 0
  else if v.kind = 2 then
    match d.root v.ns v.key with
    | some (_, _, r) => min 65536 (r.valueLen - 65536 * v.segNo)
    | none => 0
  else v.valueLen

/-- The namespace record (R157). -/
def Dev.nsRecord (d : Dev) (id : Nat) (n : Namespace) : Bytes :=
  let type := n.entry.type
  let vals := d.nsValues id type
  let deleting := n.state = .deleting
  let entry := nsEntryBytes { n.entry with comp := n.comp, depth := n.depth, noGain := n.noGain, cls := n.cls }
  let pending := if type ≤ 1 then (if deleting then d.nsEntries id else d.keysPending id) else 0
  let mine := d.fmm.bushels.filter fun p => p.2.ns == id && p.2.held
  let times := vals.map fun p => recTime p.2
  let first := if type = 3 then (d.ledger id).first
    else if type = 2 then (match times with
      | [] => 0
      | t :: r => r.foldl min t)
    else 0
  let state := if deleting then 2 else if d.fmm.exhausted ∧ type ≠ 3 then 1 else 0
  entry ++ be 8 (d.nsKeys id type) ++ be 8 pending ++ be 8 ((vals.map fun p => d.logicalOf p.2).sum) ++
    be 8 (64 * (vals.map fun p => p.2.grains).sum) ++ be 4 (if type = 2 then (d.ring id).length else 0) ++
    be 4 (if type = 2 then (mine.filter fun p => p.2.pin != 0).length else 0) ++ be 8 first ++ be 8 n.lastVersion ++
    be 4 (if n.entry.enc = 1 then n.keyGen else 0) ++ be 1 state ++ zeros 3

/-- The IN_USE bitmap of the summary (R158). -/
def Dev.nsBitmap (d : Dev) : Bytes :=
  (List.range 128).map fun i =>
    byte (((List.range 8).map fun k => if 8 * i + k = 0 ∨ d.nss.has (8 * i + k) then 2 ^ k else 0).sum)

/-- The device namespace summary (R158). -/
def Dev.nsSummary (d : Dev) : Bytes :=
  d.nsBitmap ++ be 2 (d.nss.count fun _ n => n.state == .active) ++ be 2 (d.nss.count fun _ n => n.state == .deleting) ++
    be 4 d.furlongReserved ++ be 8 d.idx.used ++ be 8 idxLimit ++
    be 4 (match d.image with
      | some im => im.chainMib
      | none => 16384) ++
    be 4 (ceilDiv d.chainUsed 16384) ++ be 4 d.freeF ++ be 4 d.poolUncommitted ++ zeros 24

/-- NS_QUERY (R157, R158). -/
def Dev.runNsQuery (d : Dev) (ctx : Nat) : Dev :=
  match d.fresh ctx 0x42 with
  | none => d
  | some f =>
    if f.cmd.ns = 0 then d.finishOk ctx 0 [] d.nsSummary
    else
      match d.ns f.cmd.ns with
      | some n => d.finishOk ctx 0 [] (d.nsRecord f.cmd.ns n)
      | none => d.finish ctx stNsUnknown 0 0

/-! ## Deletion (R153) -/

/-- The sequence of the first Chain record whose retention has not passed (R153, R286). -/
def Dev.firstRetained (d : Dev) (days : Nat) : Tab ChainRec → Option Nat
  | [] => none
  | x :: r => if d.passedRetention days (x :: r) then d.firstRetained days r else some x.1

/-- The lowest window that pins a Bushel of a namespace. -/
def Dev.pinnedBy (d : Dev) (n : Nat) : Option Nat :=
  (List.range 16).find? fun w => d.fmm.bushels.any fun p => p.2.ns == n && p.2.held && bit p.2.pin w

/-- What refuses NS_DELETE: the DETAIL of RETENTION_LOCKED (R153). -/
def Dev.deleteRefusal (d : Dev) (id : Nat) (n : Namespace) : Option Nat :=
  if n.entry.type = 3 then d.firstRetained n.entry.retention (d.ledger id).recs
  else if n.entry.type = 2 then d.pinnedBy id
  else none

/-- NS_DELETE (R153): its refusals, then the table write. -/
def Dev.runNsDelete (d : Dev) (ctx : Nat) : Dev :=
  d.withNs ctx 0x41 fun f n =>
    match d.deleteRefusal f.cmd.ns n with
    | some detail => d.finish ctx stRetentionLocked 0 detail
    | none => d.modFlight ctx fun f => { f with job := .nsDelete }

/-- The table write of an NS_DELETE has committed (R153, R154). -/
def Dev.deleted (d : Dev) (ctx : Nat) (c : Cmd) (n : Namespace) : Dev :=
  let order := (d.nss.map fun p => p.2.order).foldl max 0 + 1
  let d := d.log evNsDeleted (be 2 c.ns ++ be 1 n.entry.type ++ be 8 (d.nsKeys c.ns n.entry.type) ++ be 2 c.session)
  let d := { d with nss := d.nss.put c.ns { n with state := .deleting, order := order } }
  (d.finishOk ctx 0 [] []).startSweep

/-- NS_TABLE_COMMIT (R152, R153). -/
def Dev.nsTableCommit (d : Dev) (ctx : Nat) : Dev :=
  match d.flight ctx with
  | none => d
  | some f =>
    if d.life.coresDown then d
    else
    match f.job with
    | .nsCreate e => d.created ctx f.cmd.session e
    | .nsDelete =>
      match d.activeNs f.cmd.ns with
      | some n => d.deleted ctx f.cmd n
      | none => d.finish ctx stNsUnknown 0 0
    | _ => d

/-! ## The policy register (R149, R207) -/

/-- The namespace that VPL_NS_SEL names. -/
def Dev.policyNs (d : Dev) : Nat := d.regF 0x50004 9 0

/-- What VPL_NS_POLICY reads (R207). -/
def Dev.nsPolicyWord (d : Dev) : Nat :=
  match d.ns d.policyNs with
  | some n => n.entry.enc * 2 ^ 31 + n.depth * 2 ^ 16 + n.noGain * 2 ^ 8 + n.cls * 2 ^ 5 + n.comp
  | none => 0

/-- Record one changed field (R207). -/
def Dev.policyRecord (d : Dev) (id field old new session : Nat) : Dev :=
  if old = new then d
  else d.log evNsPolicySet (be 2 id ++ be 1 field ++ be 4 old ++ be 4 new ++ be 2 session)

/-- A write of VPL_NS_POLICY (R149, R207). -/
def Dev.nsPolicyWrite (d : Dev) (w session : Nat) : Dev :=
  let id := d.policyNs
  match d.ns id with
  | none => d
  | some n =>
    let (depth, noGain, cls, comp) := (bits w 24 16, bits w 15 8, bits w 7 5, bits w 1 0)
    if 2 < comp ∨ noGain < 2 ∨ 5 < cls ∨ (comp ≠ 0 ∧ (depth < 4 ∨ 256 < depth)) then d
    else
      let depth := if comp = 0 then 0 else depth
      let d := { d with nss := d.nss.put id { n with comp := comp, depth := depth, noGain := noGain, cls := cls } }
      (((d.policyRecord id 0 n.comp comp session).policyRecord id 1 n.depth depth session).policyRecord id 2 n.noGain
        noGain session).policyRecord id 3 n.cls cls session

/-! ## The purge (R146, R154, R181, R182) -/

/-- One unit past the end of the bucket array. -/
def unitEnd : Nat := 67108864

/-- The sweep examines its next unit (R181). -/
def Dev.purgeStep (d : Dev) : Dev :=
  match d.idx.sweep with
  | none => d
  | some s => if d.mayPurge && s.next < unitEnd then d.sweepUnits s.ns s.next (s.next + 1) else d

/-- The Bushels of a Furlong namespace return to the free pool whole (R154). Answers how many. -/
def Dev.dropRing (d : Dev) (ns : Nat) : Nat × Dev :=
  let mine := d.fmm.bushels.filter fun p => p.2.ns == ns && p.2.held
  let d := mine.foldl (fun (d : Dev) p => d.release p.1) d
  let heads := d.fmm.heads.map fun (h : Head) => if h.ns = ns then { h with ns := 0, bushel := none } else h
  (mine.length, { d with fmm := { d.fmm with heads := heads } })

/-- What is left of a purged namespace leaves (R154). -/
def Dev.forget (d : Dev) (ns : Nat) : Dev :=
  let d := (d.ledger ns).recs.foldl (fun (d : Dev) p => d.invalidateValue p.2.loc) d
  let other := fun (k : Nat) => k / 2 ^ 16 != ns
  let d := { d with
    nss := d.nss.del ns
    idx := { d.idx with sweep := none, keys := d.idx.keys.del ns, removals := d.idx.removals.filter fun r => r.ns != ns }
    cap := { d.cap with
      streams := d.cap.streams.keep fun k _ => other k, streamsKept := d.cap.streamsKept.keep fun k _ => other k,
      extents := d.cap.extents.keep fun k _ => k / 2 ^ 16 % 1024 != ns, noRefill := d.cap.noRefill.erase ns,
      ledgers := d.cap.ledgers.del ns } }
  d.chainLevel

/-- The sweep of the namespace in DELETING ends, once every entry could be removed (R154, R175). -/
def Dev.purgeDone (d : Dev) : Dev :=
  match d.idx.sweep with
  | none => d
  | some s =>
    let d := d.sweepUnits s.ns s.next unitEnd
    match d.idx.sweep with
    | none => d
    | some x =>
      if !d.mayPurge ∨ x.next < unitEnd then d
      else
        let began := ((d.ns s.ns).bind fun n => n.sweepStart).getD d.now
        let (back, d) := d.dropRing s.ns
        let d := d.forget s.ns
        (d.log evNsPurged (be 2 s.ns ++ be 4 x.removed ++ be 4 back ++ be 4 ((d.now - began) / 1000000000))).startSweep

/-- The first stale segment entry of a removal from a segment number on, among `fuel` of them, each looked up (R182). -/
def Dev.staleSegment (r : Removal) : Nat → Nat → Dev → Option (Nat × Nat × IdxEntry) × Dev
  | _, 0, d => (none, d)
  | seg, fuel + 1, d =>
    match d.lookFor ⟨r.ns, r.key, some seg, some r.createVer⟩ with
    | (some (k, e, _), d) => (some (seg, k, e), d)
    | (none, d) => Dev.staleSegment r (seg + 1) fuel d

/-- Whether the object of a removal is present again, as an unclean start that lost its DELETE leaves it (R159, E3). -/
def Dev.revived (d : Dev) (r : Removal) : Bool :=
  match d.root r.ns r.key with
  | some (_, _, v) => v.createVer == r.createVer
  | none => false

/-- One stale entry of the purge list is removed; a removal with none left leaves the list, as one whose object is present
does (R146, R159, R182). -/
def Dev.segmentRemoval (d : Dev) : Dev :=
  match d.idx.removals with
  | [] => d
  | r :: rest =>
    let drop := fun (d : Dev) => { d with idx := { d.idx with removals := rest } }
    if !d.mayPurge then d
    else if d.revived r then drop d
    else
      match Dev.staleSegment r r.next (r.limit - r.next) d with
      | (none, d) => drop d
      | (some (seg, k, e), d) =>
        { d with idx := { d.idx with removals := { r with next := seg + 1 } :: rest } }.purgeEntry k r.ns e

end Sys2Proof.Machine
end

