-- ==== Sys2Proof/Machine/MediaRowOps.lean ====
section
/-! DEFINITION. What happens in the media and in the index without a command: groups, erases, collections, folds, wear,
patrol, lost dies, checkpoints and rebuilds; and HEALTH_READ (R175 to R180, R238, R244, R247 to R268). -/

set_option cleanup.letToHave false

namespace Sys2Proof.Machine

/-! ## Groups and heads (R238, R247, R248) -/

/-- Whether programs and erases may run: every channel ON and no thermal suspension (R262, R263). -/
def Dev.mayProgram (d : Dev) : Bool := d.channelOff.isNone && !d.fmm.suspended

/-- A program group of a Bushel has been programmed on every die (R238). -/
def Dev.groupCommit (d : Dev) (b : Nat) : Dev := if d.groupReady b then (d.groupDone b).leaguePump else d

/-- The oldest staged data of a head's group has waited 1 s: the group is committed with a filler (R247). -/
def Dev.stagingAge (d : Dev) (h : Nat) : Dev :=
  match (d.head h).bushel with
  | none => d
  | some b =>
    if d.mayProgram && decide ((d.bushel b).committed < (d.bushel b).written) then (d.groupDone b).leaguePump else d

/-- A Bushel has been PARKED for 60 s: its group is completed with a filler and it is closed (R248, R252). -/
def Dev.parkTimeout (d : Dev) (b : Nat) : Dev :=
  let x := d.bushel b
  if x.state = .parked ∧ d.mayProgram then
    let d := d.fill b (min x.capacity (x.group * ceilDiv x.written x.group))
    (((d.closeBushel b).maybeRelease b).nextColl).leaguePump
  else d

/-- Writes that wait under a floor end with MEDIA_EXHAUSTED once media is exhausted (R268); Chain records go on. -/
def Dev.exhaustWaits (d : Dev) : Dev :=
  if !d.fmm.exhausted then d
  else
    d.fmm.waits.foldl (fun (d : Dev) (p : Nat × Nat) =>
      match (d.flight p.1).bind Flight.write with
      | some w => if w.ops.all (fun o => o.kind == 4) then d else d.failWrite p.1 stMediaExhausted 0 0
      | none => d) d

/-- A program failed on a die of an open Bushel (R260, R261). While index changes are held it waits where values that the index
points at must be placed afresh (R175; log entry 84). -/
def Dev.progFailed (d : Dev) (b die : Nat) : Dev :=
  let x := d.bushel b
  let torn := d.fmm.values.any fun p =>
    locBushel p.1 == b && p.2.kind ≤ 2 && x.committed < locGrain p.1 + p.2.grains && (d.slotAt p.1).isSome
  if d.idx.held && torn then d.holdIndex
  else if (x.state = .opened ∨ x.state = .parked) ∧ d.mayProgram ∧ (x.dataDies b).contains die then
    ((d.programFail b die).exhaustWaits).leaguePump
  else d

/-! ## Erases (R252, R257) -/

/-- The last value of an erase counter (R257). -/
def eraseLast : Nat := 0xFFFFF

/-- Every block of a Bushel is erased (R252). -/
def Dev.eraseDone (d : Dev) (b : Nat) : Dev :=
  let x := d.bushel b
  if x.state ≠ .erasing ∨ !d.mayProgram then d
  else
    let tlc := if x.mode = 0 then satAdd eraseLast x.tlcErases 1 else x.tlcErases
    let pslc := if x.mode = 1 then satAdd eraseLast x.pslcErases 1 else x.pslcErases
    let worn := tlc = eraseLast ∨ pslc = eraseLast
    let d := d.setBushel b { x with
      state := if worn then .retired else .free, tlcErases := tlc, pslcErases := pslc, flags := x.flags &&& 2, area := 0,
      head := 0xFF, ns := 0, failedDie := 0xFF, valid := 0, written := 0, committed := 0, rdCount := 0, firstTime := 0,
      pin := 0, maxCorr := 0, suspect := [] }
    let d := if worn then (d.log evRetired (be 2 b ++ be 1 1)).checkExhausted.exhaustWaits else d
    { d.floors with pins := { d.pins with act1 := true } }.nextColl

/-- The erase of a die's block fails (R252, R260). -/
def Dev.eraseFailed (d : Dev) (b die : Nat) : Dev :=
  let x := d.bushel b
  if x.state ≠ .erasing ∨ !d.mayProgram ∨ 63 < die ∨ (x.narrow ∧ x.absentDie = die) then d
  else
    let d := (((d.count (0x71024 + 0x100 * (die / 4))).health 132 1).raise (irqFmm 3)).log evEraseFail
      (be 2 b ++ be 1 die ++ be 6 (d.blockMap b die))
    ((d.retireBlock b die).exhaustWaits).nextColl

/-! ## Collections, folds and wear (R250, R254, R255, R258) -/

/-- Every item of a victim is copied and committed; `bad` is the grain of an item that cannot be read (R255). Moves of values
that the index points at wait while its changes are held (R175). -/
def Dev.collectionDone (d : Dev) (b : Nat) (bad : Option Nat) : Dev :=
  match d.fmm.colls.find b with
  | none => d
  | some k =>
    let x := d.bushel b
    if x.state ≠ .victim ∨ !d.copiesRun then d
    else if d.idx.held && !(d.pointedIn b).isEmpty then d.holdIndex
    else
      let d := d.collect b k bad
      (if x.area = 2 then d.writeDueSeals else d).leaguePump

/-- The NOTICE record of a firmware choice that a safety limit discards, naming both (R22). Its code is not stated: the open
value 7, its parameters the Bushel asked for and the hardware's: DESIGN CHOICE (log entry 85). -/
def Dev.logOverruled (d : Dev) (asked chosen : Nat) : Dev :=
  d.log ⟨(Config.openValue 7 0).toNat % 65536, 2⟩ (be 2 asked ++ be 2 chosen)

/-- The victim that the hardware has under a floor: the one that it collects, or the one that it would choose (R254). -/
def Dev.floorVictim (d : Dev) : Option Nat :=
  match d.fmm.colls.find? fun p => p.2 == .gc with
  | some (b, _) => some b
  | none => d.gcLeast.map fun p => p.1

/-- Firmware asks for the collection of a Bushel; 0x3FFF takes the best score (R254, R269). Under a floor the choice is
discarded, and a record names it beside the hardware's unless both are one (R22). -/
def Dev.gcReq (d : Dev) (b : Nat) : Dev :=
  let pick := if b = 0x3FFF then d.gcBest.map fun p => p.1 else if (d.bushel b).eligible then some b else none
  match pick with
  | none => d
  | some v =>
    if 1 ≤ d.fmm.floor then
      match d.floorVictim with
      | some h => if h = v then d else d.logOverruled v h
      | none => d
    else if d.gcRuns || !d.copiesRun then d
    else d.startColl v .gc

/-- FMM_CTL.FOLD_GO (R250). -/
def Dev.foldGo (d : Dev) : Dev :=
  if d.fmm.fold.isSome then d
  else ({ d with fmm := { d.fmm with fold := some ⟨0, 0, d.cycles⟩ } }).nextColl

/-- FMM_CTL.FOLD_STOP: a commanded fold halts; its victim is CLOSED again (R250). -/
def Dev.foldStop (d : Dev) : Dev :=
  if d.fmm.fold.isNone then d
  else
    let mine := d.fmm.colls.filter fun p => p.2 == .fold
    let d := mine.foldl (fun (d : Dev) p => d.modBushel p.1 fun x => { x with state := .closed }) d
    let left := fun (loc : Nat) => !(mine.any fun p => p.1 == locBushel loc)
    { d with fmm := { d.fmm with fold := none, moving := d.fmm.moving.filter left, colls := d.fmm.colls.keep fun _ k => k != .fold } }

/-- In-service Bushels outside the system area that have ever changed. -/
def Dev.inService (d : Dev) : List (Nat × Bushel) :=
  d.fmm.bushels.filter fun p => 16 ≤ p.1 && p.2.state != .retired

/-- The greatest effective erase count in service. -/
def Dev.eMax (d : Dev) : Nat := (d.inService.map fun p => p.2.erases).foldl max 0

/-- The least effective erase count in service. -/
def Dev.eMin (d : Dev) : Nat :=
  if d.untouched.isSome then 0
  else
    match d.inService.map fun p => p.2.erases with
    | [] => 0
    | e :: r => r.foldl min e

/-- Whether a wear move is under way. -/
def Dev.wearRuns (d : Dev) : Bool :=
  d.fmm.colls.any fun p => match p.2 with
    | .wear _ => true
    | _ => false

/-- The source of a wear move: the least effective erase count, then the oldest, then the lowest number (R258). -/
def Dev.wearSource (d : Dev) : Option (Nat × Bushel) :=
  let l := d.fmm.bushels.filter fun p =>
    p.2.state == .closed && p.2.pin == 0 && p.2.ns == 0 && p.2.area ≤ 2 && 16 ≤ p.1
  bestBy l fun a b =>
    if a.erases = b.erases then decide (a.closeTime < b.closeTime) else decide (a.erases < b.erases)

/-- Firmware calls a wear step (R258). -/
def Dev.wearStep (d : Dev) : Dev :=
  match d.wearSource, d.freeBushel true with
  | some (b, x), some t =>
    if d.wearRuns || !d.copiesRun || d.life.coresDown || d.eMax - x.erases ≤ d.regF 0xB0024 31 16 then d
    else d.startColl b (.wear t)
  | _, _ => d

/-! ## Patrol and dies (R251, R259, R260, R264) -/

/-- Report a page set that patrol could not read (R259). -/
def Dev.patrolLost (d : Dev) (b set die row cw : Nat) : Dev :=
  let loc := locOf b (set * 1024)
  (((d.count (0x7101C + 0x100 * (die / 4))).health 120 1).raise (irqFmm 1)).logLimited evUncorr 64 fun _ =>
    be 2 b ++ be 1 die ++ be 2 row ++ be 2 cw ++ be 6 loc

/-- Patrol reads the next page set, or ends its sweep (R264): its most corrected bits, how many codewords were
corrected and how it was read. -/
def Dev.patrolStep (d : Dev) (corr cws : Nat) (r : MediaRead) : Dev :=
  if d.life.coresDown || d.channelOff.isSome then d
  else
    match d.patrolNext d.fmm.patrol with
    | none => d.patrolEnd.nextColl
    | some (b, set) =>
      let x := d.bushel b
      let die := (x.dataDies b).getD (set % 64) (x.parityDie b)
      let d := (d.countN (0x71010 + 0x100 * (die / 4)) cws).health 96 cws
      let d := d.patrolRead b set corr r
      let d := match r with
        | .lost die row cw => d.patrolLost b set die row cw
        | _ => d
      d.nextColl

/-- A die stops answering (R260). -/
def Dev.dieLost (d : Dev) (die : Nat) : Dev :=
  if 63 < die ∨ d.fmm.lostDies.contains die then d
  else
    let hit := d.fmm.bushels.filter fun p => p.2.held && !(p.2.narrow && p.2.absentDie == die)
    let mark := fun (x : Bushel) => { x with flags := x.flags ||| 17, failedDie := die }
    let d := hit.foldl (fun (d : Dev) p => d.modBushel p.1 mark) d
    let d := { d with fmm := { d.fmm with
      lostDies := d.fmm.lostDies ++ [die], spareUsed := d.fmm.spareUsed.put die 384 } }
    ((d.log evDieLost (be 1 die ++ be 4 hit.length)).checkExhausted.exhaustWaits).nextColl

/-- The walk of a STALE Bushel's items ends (R251). -/
def Dev.staleWalkDone (d : Dev) (b : Nat) : Dev :=
  if !bit (d.bushel b).flags 2 then d
  else
    let valid := d.walkValid b
    ((d.modBushel b fun x => { x with valid := valid, flags := x.flags - 4 }).maybeRelease b).nextColl

/-! ## Checkpoints and rebuilds (R174 to R180) -/

/-- An automatic checkpoint generation begins, once the one before it has committed (R175). -/
def Dev.checkpointBegin (d : Dev) : Dev :=
  if d.idxOff.isSome ∨ d.idx.run.isSome ∨ !d.idx.cpDue then d else d.cpBegin

/-- IDX_CP_CTL.FORCE (R175). -/
def Dev.checkpointForce (d : Dev) : Dev := if d.idxOff.isSome ∨ d.idx.run.isSome then d else d.cpBegin

/-- The commit page of the generation is programmed and read back (R175). -/
def Dev.checkpointCommit (d : Dev) : Dev :=
  match d.idx.run with
  | none => d
  | some r => if d.mayProgram then ((d.cpCommit r).getD d).programsDone.flushesDone.leaguePump else d

/-- IDX_CTL.RESCAN (R179). -/
def Dev.rescanBegin (d : Dev) : Dev := if d.idxOff.isSome then d else d.idxBegin .rescan 255

/-- A rebuild or rescan completes (R179, R180). -/
def Dev.rebuildDone (d : Dev) (pages blocks : MediaReads) : Dev :=
  let domsOn := ([53, 54, 55, 56, 63] : List Nat).all fun n => d.domOn n
  if !domsOn then d
  else
    match d.idx.state with
    | .rebuild => (d.idxLoad pages blocks).2.idxRebuilt
    | .rescan => (d.rescan.map Dev.idxRebuilt).getD d
    | _ => d

/-! ## The health page (R244, R267) -/

/-- A signed number in 2 or 4 bytes. -/
def signedBe (n : Nat) (v : Int) : Bytes := be n (v % (256 ^ n : Nat)).toNat

/-- The hottest NAND site that has not failed, in °C (R378). -/
def Dev.hottestNand (d : Dev) : Int :=
  match ((d.sup.sites.drop 4).filter fun s => !s.failed).map fun s => s.now with
  | [] => 0
  | t :: r => r.foldl max t

/-- The rated capacity in bytes (R244): narrow Bushels count as 62/63. -/
def Dev.ratedBytes (d : Dev) : Nat := (d.userPool63 - 63 * ceilDiv (16 * d.userPool63) 6300) * 25165824

/-- A count of the health page. -/
def Dev.healthOf (d : Dev) (off : Nat) : Nat := d.fmm.health.getD off 0

/-- TEMP_MAX; it is held with 1,000 added, so that it is never below 0. -/
def Dev.tempMax (d : Dev) : Int :=
  match d.fmm.health.find 166 with
  | some t => (t : Int) - 1000
  | none => 0

/-- The health page (R267). -/
def Dev.healthPage (d : Dev) : Bytes :=
  let sat4 := fun (off : Nat) => be 4 (min 0xFFFFFFFF (d.healthOf off))
  let full := fun (off : Nat) => be 8 (d.healthOf off)
  let inUse := 10736 - d.fmm.bushels.count fun b x => 16 ≤ b && x.state == .retired
  let mean := (d.inService.map fun p => p.2.erases).sum * 1000 / (3000 * max 1 inUse)
  let susp := d.healthOf 160 + if d.fmm.suspended then (d.cycles - d.fmm.suspendedSince) / cyclesPerSecond else 0
  be 4 0x48500001 ++ be 4 d.sparesLeft ++ be 2 (d.sparesLeft * 1000 / 24576) ++ be 2 d.diesNoSpare ++
    be 2 (d.fmm.bushels.count fun b x => 16 ≤ b && x.narrow && x.state != .retired) ++ be 2 (10736 - inUse) ++
    be 2 (min 0xFFFF mean) ++ be 2 (min 0xFFFF (d.eMax * 1000 / 3000)) ++ be 4 d.eMin ++ be 4 d.eMax ++ be 4 d.freeF ++
    be 4 d.userPool ++ zeros 4 ++ be 8 d.ratedBytes ++
    full 48 ++ full 56 ++ full 64 ++ full 72 ++ full 80 ++ full 88 ++ full 96 ++ full 104 ++ full 112 ++ full 120 ++
    sat4 128 ++ sat4 132 ++ sat4 136 ++ sat4 140 ++ sat4 144 ++ sat4 148 ++ sat4 152 ++ sat4 156 ++
    be 4 (min 0xFFFFFFFF susp) ++ be 1 (b2n d.fmm.exhausted) ++ be 1 d.fmm.floor ++ signedBe 2 d.tempMax ++
    signedBe 2 d.hottestNand ++ zeros 2 ++ be 4 (d.fmm.upMs / 3600000) ++
    ((List.range 36).flatMap fun i => be 4 (d.fmm.binMs.getD i 0 / 60000)) ++
    ((List.range 64).flatMap fun die => be 2 (d.spares die)) ++ zeros 64

/-- HEALTH_READ (R267). -/
def Dev.runHealth (d : Dev) (ctx : Nat) : Dev :=
  match d.fresh ctx 0x59 with
  | some _ => d.finishOk ctx 0 [] d.healthPage
  | none => d

end Sys2Proof.Machine
end

