-- ==== Sys2Proof/Machine/JrnOps.lean ====
section
/-! DEFINITION. The event journal: the drain into the ring, the store and its full policies, and reading (R332 to R341). -/

set_option cleanup.letToHave false

namespace Sys2Proof.Machine

/-! ## Parts and records (R332, R333) -/

/-- The 32 bytes of a part (R332). -/
def JPart.bytes (p : JPart) (seq : Nat) : Bytes :=
  let b := be 5 seq ++ be 1 (p.sev * 32 + p.tq * 8 + b2n p.more * 4 + p.part) ++ be 2 p.code ++ be 8 p.time ++ padTo 12 p.param
  b ++ be 4 (crc32c b)

/-- The last sequence of the journal (R336). -/
def jrnLast : Nat := 0xFFFFFFFFFF

/-- Parts that the ring, the store and a page hold (R337, R338). -/
def ringSize : Nat := 32768
def storeSize : Nat := 2097152
def pageSize : Nat := 512

/-- How many parts the record at the front of a list of parts has. -/
def partCount : List JPart → Nat
  | [] => 0
  | p :: r => if p.more then 1 + partCount r else 1

/-- The records of a list of ring parts; a record whose last part has not drained is left out. -/
def ringRecs (pending : List RingPart) : List RingPart → List (List RingPart)
  | [] => []
  | p :: r => if p.p.more then ringRecs (pending ++ [p]) r else (pending ++ [p]) :: ringRecs [] r

/-- PERSIST_SEV and FULL_POLICY (R341). -/
def Dev.persistSev (d : Dev) : Nat := d.regF 0xA0000 6 4
def Dev.fullPolicy (d : Dev) : Nat := d.regF 0xA0000 0 0

/-- Whether a ring part awaits persistence (R337). -/
def Dev.awaits (d : Dev) (r : RingPart) : Bool := !r.kept && !r.refused && d.persistSev ≤ r.p.sev

/-- Parts in the store. -/
def Journal.stored (j : Journal) : Nat := (j.store.map fun r => r.length).sum

/-- The records held, in SEQ order: those of the store and those of the ring that the store does not hold (R339). -/
def Journal.held (j : Journal) : List (List (Nat × JPart)) :=
  let firsts := j.store.map fun r => (r.head?.map (·.1)).getD 0
  let ring := ((ringRecs [] j.ring).map fun r => r.map fun p => (p.seq, p.p)).filter fun r =>
    r.any (fun p => p.2.part == 0) && !firsts.contains ((r.head?.map (·.1)).getD 0)
  sortBy (fun a b => (a.head?.map (·.1)).getD 0 ≤ (b.head?.map (·.1)).getD 0) (j.store ++ ring)

/-- The oldest SEQ held, or the next to assign while nothing is held (R341). -/
def Journal.firstSeq (j : Journal) : Nat :=
  match j.held with
  | ((s, _) :: _) :: _ => s
  | _ => j.nextSeq

/-- Whether the ring waits for persistence (R337). -/
def Dev.ringStalled (d : Dev) : Bool :=
  ringSize ≤ d.evj.ring.length &&
    match d.evj.ring with
    | p :: _ => d.awaits p
    | [] => false

/-! ## The drain (R335, R336) -/

/-- JRN_LOST enters ahead of any other record once the FIFO has room for five parts (R335). -/
def Dev.lostRecord (d : Dev) : Dev :=
  let j := d.evj
  if j.lost = 0 ∨ 251 < j.fifo.length ∨ j.ended then d
  else
    let ps := partsOf ⟨0x0F01, j.lostSev⟩ d.tq d.now (be 4 j.lost ++ be 8 j.lostTime)
    ({ d with evj := { j with fifo := j.fifo ++ ps, lost := 0, lostSev := 0, lostTime := 0 } }).raiseIf
      (5 ≤ j.lostSev) (irqEvj 0)

/-- A part enters the ring and takes its SEQ; the oldest part leaves where the ring is full (R336, R337). -/
def Journal.push (j : Journal) (p : JPart) (seq : Nat) : Journal :=
  let ring := if ringSize ≤ j.ring.length then j.ring.drop 1 else j.ring
  { j with ring := ring ++ [⟨seq, false, false, p⟩], nextSeq := seq + 1,
           reserved := if seq < j.reserved then j.reserved else seq / 65536 * 65536 + 65536 }

/-- The sequence has run out: JRN_SEQ_END is the last record (R336). -/
def Dev.seqEnd (d : Dev) : Dev :=
  let lost := (d.evj.fifo.filter fun p => p.part = 0).length
  let held := d.evj.held.length
  let d := ((d.countN (evjCnt 3) lost).raise (irqEvj 3)).raise (irqEvj 0)
  let p : JPart := { sev := 5, tq := d.tq, more := false, part := 0, code := evJrnSeqEnd.code, time := d.now,
                     param := padTo 12 (be 4 held) }
  ({ d with evj := { (d.evj.push p jrnLast) with fifo := [], ended := true, nextSeq := jrnLast } }).count (evjCnt 0)

/-- One part drains from the FIFO into the ring (R335 to R337). -/
def Dev.drain (d : Dev) : Dev :=
  match d.evj.fifo with
  | [] => d
  | p :: r =>
    if d.ringStalled ∨ d.evj.ended then d
    else if p.part = 0 ∧ jrnLast < d.evj.nextSeq + partCount (p :: r) then d.seqEnd
    else (({ d with evj := { (d.evj.push p d.evj.nextSeq) with fifo := r } }).count (evjCnt 0)).lostRecord

/-! ## The store (R337, R338) -/

/-- The severity of a record. -/
def recSev (r : List (Nat × JPart)) : Nat := (r.head?.map fun p => p.2.sev).getD 0

/-- Remove the oldest stored records of a severity below `sev` until `need` parts are free. Answers how many parts
left. -/
def removeLower (sev : Nat) : Nat → List (List (Nat × JPart)) → Nat × List (List (Nat × JPart))
  | _, [] => (0, [])
  | need, r :: rest =>
    if need = 0 then (0, r :: rest)
    else if recSev r < sev then
      let (n, l) := removeLower sev (need - r.length) rest
      (n + r.length, l)
    else
      let (n, l) := removeLower sev need rest
      (n, r :: l)

/-- Mark the ring parts of a record. -/
def Journal.mark (j : Journal) (rec_ : List RingPart) (f : RingPart → RingPart) : Journal :=
  { j with ring := j.ring.map fun p => if rec_.any fun q => q.seq == p.seq then f p else p }

/-- A record stays in the ring only, counted in REFUSED_STOP (R338). -/
def Dev.refuseRec (d : Dev) (rec_ : List RingPart) : Dev :=
  ({ d with evj := d.evj.mark rec_ fun p => { p with refused := true } }).count (evjCnt 4)

/-- A record enters the store (R338). -/
def Dev.storeRec (d : Dev) (rec_ : List RingPart) (store : List (List (Nat × JPart))) : Dev :=
  let j := (d.evj.mark rec_ fun p => { p with kept := true })
  let store := store ++ [rec_.map fun p => (p.seq, p.p)]
  let full := storeSize ≤ (store.map fun r => r.length).sum
  ({ d with evj := { j with store := store, fullLatch := j.fullLatch && full } }).countN (evjCnt 1) rec_.length

/-- Write JRN_FULL (R338). -/
def Dev.jrnFull (d : Dev) : Dev :=
  (d.raise (irqEvj 2)).log evJrnFull (be 1 d.fullPolicy ++ be 8 d.evj.firstSeq)

/-- Persist one record under the full policy (R338). -/
def Dev.persistRec (d : Dev) (rec_ : List RingPart) : Dev :=
  let n := rec_.length
  let sev := (rec_.head?.map fun p => p.p.sev).getD 0
  let isFull := (rec_.head?.map fun p => p.p.code) == some evJrnFull.code
  let used := d.evj.stored
  if d.fullPolicy = 1 then
    if used + n + b2n (!isFull) ≤ storeSize then d.storeRec rec_ d.evj.store
    else
      let d := d.refuseRec rec_
      if d.evj.stopLatch then d else ({ d with evj := { d.evj with stopLatch := true } }).jrnFull
  else if used + n ≤ storeSize then d.storeRec rec_ d.evj.store
  else
    let lower := ((d.evj.store.filter fun r => recSev r < sev).map fun r => r.length).sum
    if lower < n then d.refuseRec rec_
    else
      let (gone, store) := removeLower sev (used + n - storeSize) d.evj.store
      let first := !d.evj.fullLatch
      let d := (({ d with evj := { d.evj with fullLatch := true } }).storeRec rec_ store).countN (evjCnt 2) gone
      if first then d.jrnFull else d

/-- Take whole records up to the size of a page. -/
def pageOf : Nat → List (List RingPart) → List (List RingPart)
  | _, [] => []
  | room, r :: rest => if r.length ≤ room then r :: pageOf (room - r.length) rest else []

/-- The records that await persistence. -/
def Dev.awaiting (d : Dev) : List (List RingPart) :=
  (ringRecs [] d.evj.ring).filter fun r => match r with
    | p :: _ => d.awaits p
    | [] => false

/-- Program one page of the records that await persistence (R337, R338). -/
def Dev.programPage (d : Dev) : Dev :=
  let page := pageOf pageSize d.awaiting
  if page.isEmpty then d
  else
    let d := page.foldl Dev.persistRec d
    let d := if (page.map fun r => r.length).sum < pageSize then d.count (evjCnt 5) else d
    { d.health 64 16384 with pins := { d.pins with act1 := true } }

/-- Whether the flash is there and may be programmed: from phase MEDIA on. -/
def Dev.mediaUp (d : Dev) : Bool :=
  match d.life.phase with
  | .reset => false
  | .aon => false
  | .rom => false
  | .fw => false
  | .mem => false
  | .test => false
  | .halt => false
  | _ => true

/-- The journal head programs a page: 512 parts await persistence, or one of severity CRITICAL or above does (R337). -/
def Dev.pageProgram (d : Dev) : Dev :=
  let parts := (d.awaiting.map fun r => r.length).sum
  let urgent := d.awaiting.any fun r => r.any fun p => 5 ≤ p.p.sev
  if d.mediaUp && d.mayProgram && (pageSize ≤ parts || urgent) then d.programPage else d

/-- EVJ_CTL.PERSIST (R337). -/
def Dev.persistNow (d : Dev) : Dev := if d.mediaUp && d.mayProgram then d.programPage else d

/-- Drain the FIFO and program every page that awaits, as a flush does (R56, R337); `fuel` bounds the parts. -/
def Dev.drainAll : Nat → Dev → Dev
  | 0, d => d
  | n + 1, d => if d.evj.fifo.isEmpty ∨ d.evj.ended ∨ d.ringStalled then d else Dev.drainAll n d.drain

/-- Persist everything that awaits; `fuel` bounds the pages. -/
def Dev.persistAll : Nat → Dev → Dev
  | 0, d => d
  | n + 1, d => if d.awaiting.isEmpty then d else Dev.persistAll n d.programPage

/-- The ring is rebuilt in phase META: the newest parts of the store stand before what this start has recorded (R46, R337). -/
def Journal.rebuild (j : Journal) : Journal :=
  let first := (j.ring.head?.map RingPart.seq).getD j.nextSeq
  let back := ((j.store.flatMap id).filter fun p => p.1 < first).map fun p => (⟨p.1, true, false, p.2⟩ : RingPart)
  { j with ring := back.drop (back.length + j.ring.length - ringSize) ++ j.ring }

/-- The journal's part of a flush (R56, event 8). -/
def Dev.flushJournal (d : Dev) : Dev := Dev.persistAll 128 (Dev.drainAll 512 d)

/-! ## Policy and reading (R332, R336, R338 to R340) -/

/-- The slots whose CRC fails, by SEQ, as a reader of the journal finds them (R332). -/
def Dev.findBad (d : Dev) (bad : List Nat) : Dev := { d with evj := { d.evj with badSlots := bad } }

/-- A write of EVJ_CTL's policy fields (R338). -/
def Dev.jrnPolicy (d : Dev) (sev policy session : Nat) : Dev :=
  let (oldSev, oldPol) := (d.persistSev, d.fullPolicy)
  let d := (d.setRegF 0xA0000 6 4 sev).setRegF 0xA0000 0 0 policy
  if sev = oldSev ∧ policy = oldPol then d
  else
    let d := if policy = oldPol then d else { d with evj := { d.evj with stopLatch := false } }
    d.log evJrnPolicySet (be 4 oldPol ++ be 4 policy ++ be 4 oldSev ++ be 4 sev ++ be 2 session)

/-- Take whole records up to a count of parts; the first always fits (R339). -/
def takeRecs : Nat → Bool → List (List (Nat × JPart)) → List (List (Nat × JPart))
  | _, _, [] => []
  | room, first, r :: rest =>
    if first ∨ r.length ≤ room then r :: takeRecs (room - r.length) false rest else []

/-- JOURNAL_READ: MORE is set where COUNT cut it short (R110, R339); its data is charged once it is assembled (R117). The
slots whose CRC fails are skipped, each with its record, and counted (R332). -/
def Dev.runJournalRead (d : Dev) (ctx : Nat) : Dev :=
  match d.fresh ctx 0x5A with
  | none => d
  | some f =>
    let from_ := num f.cmd.param 0 8
    let later := d.evj.held.filter fun r => from_ ≤ (r.head?.map (·.1)).getD 0
    let bad := d.evj.badSlots
    let good := later.filter fun r => !(r.any fun p => bad.contains p.1)
    let recs := takeRecs (num f.cmd.param 8 4) true good
    let parts := recs.flatMap id
    let next := match parts.getLast? with
      | some p => p.1 + 1
      | none => from_
    let cut := recs.length < good.length
    let skipped := (later.flatMap id).countP fun p => bad.contains p.1 && (!cut || p.1 < next)
    ((d.countN (evjCnt 6) skipped).chargeLate ctx (32 * parts.length)).finishData ctx (if cut then 4 else 0) 0 (be 8 next)
      (parts.flatMap fun p => p.2.bytes p.1)

/-- SEQ that EVJ_RD_SEQ names. -/
def Dev.rdSeq (d : Dev) : Nat := d.regN 0xA0020 + 2 ^ 32 * d.regF 0xA0024 7 0

/-- EVJ_RD_CTL.GO (R340); a slot whose CRC fails is skipped and counted (R332). -/
def Dev.journalRd (d : Dev) : Dev :=
  let s := d.rdSeq
  let bad := d.evj.badSlots
  let all := (d.evj.store.flatMap id) ++ d.evj.ring.map fun p => (p.seq, p.p)
  let parts := all.filter fun p => !bad.contains p.1
  let d := (d.setRegF 0xA0028 1 1 1).countN (evjCnt 6) (b2n (all.any fun p => p.1 == s && bad.contains s))
  match parts.find? fun p => p.1 == s with
  | some p => { d with evj := { d.evj with rdHit := true, rdData := p.2.bytes s } }
  | none =>
    let later := (parts.filter fun p => s < p.1).map fun p => p.1
    let next := match later with
      | [] => d.evj.nextSeq
      | x :: r => r.foldl min x
    ({ d with evj := { d.evj with rdHit := false } }.setRegN 0xA0020 next).setRegN 0xA0024 (bits next 39 32)

end Sys2Proof.Machine
end

