-- ==== Sys2Proof/Machine/LifeOps.lean ====
section
/-! DEFINITION. What resets, shutdowns and power loss do to commands and sessions, and how each begins (R51 to R56, R59,
R62, R104, R334). -/

set_option cleanup.letToHave false

namespace Sys2Proof.Machine

/-! ## The fate of commands (R53, R104) -/

/-- A window change whose table write has not committed is not made (R53, R280). -/
def Dev.undoWindow (d : Dev) (w : Nat) : Dev :=
  let d := { d with cap := { d.cap with windows := d.cap.windows.del w } }
  let hit := d.fmm.bushels.filter fun p => bit p.2.pin w
  hit.foldl (fun (d : Dev) p => d.modBushel p.1 fun x => { x with pin := x.pin &&& (65535 - 2 ^ w) }) d

/-- A value written through that is not on flash is dropped; its stream stands as before (R53, R272). -/
def Dev.dropThrough (d : Dev) (o : WOp) : Dev :=
  let d := d.invalidateValue o.loc
  let d := { d with fmm := { d.fmm with
    values := d.fmm.values.del o.loc, staged := d.fmm.staged.filter fun (s : Staged) => s.loc != o.loc } }
  if o.kind ≠ 3 then d
  else
    let k := streamKey o.ns (beVal (o.key.take 2))
    let st := d.cap.streams.getD k ⟨0, 0⟩
    let back : Stream := ⟨o.before, (st.next + 2 ^ 32 - 1) % 2 ^ 32⟩
    { d with cap := { d.cap with
        streams := if o.before = 0 ∧ back.next = 0 then d.cap.streams.del k else d.cap.streams.put k back } }

/-- A write that a reset meets: durable and answered OK where its staging is complete, else dropped (R53). -/
def Dev.abortWrite (d : Dev) (ctx : Nat) (f : Flight) (w : WriteJob) : Dev :=
  let drop := fun (d : Dev) => d.failWrite ctx stAbortedReset 0 0
  match w.phase with
  | .mirroring => d.mirrorFail ctx (num f.cmd.mirror 0 1 % 64) stAbortedReset
  | .programming =>
    if w.through then drop (w.ops.foldl Dev.dropThrough d) else d.ackWrite ctx w
  | .building =>
    if w.through ∨ !w.complete f.cmd ∨ d.idxOff.isSome then drop d
    else
      let d := d.commit ctx f w
      match (d.flight ctx).bind Flight.write with
      | none => d
      | some w' =>
        match w'.phase with
        | .programming => d.ackWrite ctx w'
        | .mirroring => d.mirrorFail ctx (num f.cmd.mirror 0 1 % 64) stAbortedReset
        | .building => drop d

/-- A dispatched command that a reset meets (R53). -/
def Dev.abortFlight (d : Dev) (ctx : Nat) : Dev :=
  match d.flight ctx with
  | none => d
  | some f =>
    match f.job with
    | .write w => d.abortWrite ctx f w
    | .read _ => d.failRead ctx stAbortedReset 0
    | .window w none => (d.undoWindow w).finish ctx stAbortedReset 0 0
    | .keyErase _ => d.finishOk ctx 0 [] []
    | .fwStage => ({ d with fw := { d.fw with stage := none, staging := .empty, stagedImage := none } }).finish ctx stAbortedReset 0 0
    | _ => d.finish ctx stAbortedReset 0 0

/-- A queued command ends with ABORTED_RESET (R53). -/
def Dev.abortQueued (d : Dev) (n : Nat) (c : Cmd) : Dev :=
  ({ d with cqe := { d.cqe with queued := d.cqe.queued.del n } }.freeCells c.cells).answerStatus
    c.session c.queue c.tag c.op stAbortedReset 0 0

/-- Every command meets its fate under a pin, device or datapath reset or an ordered shutdown, and its response is sent
once (R53). Requests that hold a domain sequence stay without their command. -/
def Dev.abortCommands (d : Dev) : Dev :=
  let d := d.cqe.flights.foldl (fun (d : Dev) p => d.abortFlight p.1) d
  let d := d.cqe.queued.foldl (fun (d : Dev) p => d.abortQueued p.1 p.2) d
  let plain := fun (r : DomReq) => { r with ctx := none }
  { d with
    sec := { d.sec with loads := d.sec.loads.filter fun (l : KeyLoad) => l.ctx.isNone }
    lge := { d.lge with calls := [], queued := [] }
    fw := { d.fw with act := none, heldAct := none }
    cqe := { d.cqe with paused := false }
    power := { d.power with doms := d.power.doms.map fun (x : Domain) =>
      { x with running := x.running.map plain, held := x.held.bind fun r => if r.ctx.isSome then none else some r } } }

/-- Every session is freed (R104). -/
def Dev.freeSessions (d : Dev) : Dev := d.sess.foldl (fun (d : Dev) p => d.endSession p.1) d

/-! ## READY and FAULT_N (R42, R44, R51, R220, R380) -/

/-- Drive FAULT_N from the faults that stand. -/
def Dev.faultPin (d : Dev) : Dev := { d with pins := { d.pins with faultLow := d.life.faults != 0 } }

/-- Set or clear one of the faults. -/
def Dev.setFault (d : Dev) (i : Nat) (on : Bool) : Dev :=
  { d with life := { d.life with faults := putBits d.life.faults i i (b2n on) } }.faultPin

/-- READY goes low. -/
def Dev.readyLow (d : Dev) : Dev := { d with pins := { d.pins with ready := false } }

/-- Set a bit of CHIP_RST_CAUSE (R62). -/
def Dev.cause (d : Dev) (i : Nat) : Dev := d.setRegF 0x44 i i 1

/-! ## Quiesce and flush (R51, R53, R56) -/

/-- Whether the device is in a state that a new reset or shutdown may begin from: powered, no flush and no HALT. -/
def Dev.mayReset (d : Dev) : Bool :=
  d.life.flush == .none && d.life.phase != .halt && d.life.phase != .reset

/-- Whether phase META has read the power-fail area back and erased it (R46, R48). -/
def Dev.metaDone (d : Dev) : Bool := d.life.phase == .run || d.life.phase == .ports

/-- A flush begins to write the power-fail area, which a start before phase META leaves as it was (R48, R49). -/
def Dev.pfBegin (d : Dev) : Dev :=
  if d.metaDone then { d with fmm := { d.fmm with pf := some ⟨[], false, 0, []⟩ } } else d

/-- The quiesce of a reset or shutdown: READY falls, commands meet their fate, sessions are freed, and the flush is under
way (R51, R53). -/
def Dev.quiesce (d : Dev) (kind : FlushKind) : Dev :=
  let d := d.readyLow.abortCommands.freeSessions.pfBegin
  { d with life := { d.life with flush := kind, flushStep := 0, flushCycle := d.cycles, edges := 0, retries := 0 } }

/-- An ordered shutdown begins: `bit` is its cause in CHIP_RST_CAUSE, `cause` and `what` are its record's parameters
(R51, R334). While PWR_FAIL_N is recognised none is ordered (R377); a flush already running for a reset or a shutdown
goes on, and the cause is added (R384). It then ends in HALT, but for a pin reset's, whose pulse of RESET_N is what HALT
waits for. -/
def Dev.orderedShutdown (d : Dev) (bit cause what : Nat) : Dev :=
  if d.life.phase = .reset ∨ d.life.phase = .halt ∨ d.life.flush = .powerFail then d
  else
    let d := (d.cause bit).log evOrderedShutdown (be 1 cause ++ be 1 what)
    match d.life.flush with
    | .none => d.quiesce .shutdown
    | .pin => d
    | _ => { d with life := { d.life with flush := .shutdown } }

/-! ## Cores resets (R51, R52, R353) -/

/-- The control cores are reset: hardware goes on, firmware has to run again. An activation is held (R52, R353). -/
def Dev.coresDown (d : Dev) : Dev :=
  let d := match d.fw.act with
    | some (ctx, _, run, img) =>
      { d with fw := { d.fw with act := none, heldAct := some ctx, running := run, runImage := img } }.resumeDispatch
    | none => d
  { d with life := { d.life with coresDown := true } }

/-! ## Resets through CHIP_RST_CTL (R51, R62) -/

/-- Record a reset: its kind and its source. -/
def Dev.logReset (d : Dev) (kind source : Nat) : Dev := d.log evReset (be 1 kind ++ be 1 source)

/-- A cores reset is written (R52). -/
def Dev.coresReset (d : Dev) (i : Iface) : Dev :=
  if d.mayReset then ((d.cause 3).logReset 4 i.code).coresDown else d

/-- A device reset is written: quiesce and flush come first (R51). -/
def Dev.deviceReset (d : Dev) (i : Iface) : Dev :=
  if d.mayReset then ((d.cause 3).logReset 2 i.code).quiesce .device else d

/-- A port as a datapath reset leaves it: DOWN and silent, its counters kept, CT_CUR at CT_START (R51, R66, R81). -/
def Dev.portReset (d : Dev) (n : Nat) : Dev :=
  let d := d.portDown n 5 false
  let ct := d.regF (epReg n 4) 13 0
  d.modPort n fun p => { Port.fresh with counters := p.counters, half := p.half, stomped := p.stomped, ctCur := ct }

/-- A datapath reset is written: commands and sessions end, the ports go to DOWN at once, and the datapath is down until
the reset completes (R51, R53, R66, R75, R81). The responses of R53 are handed to the ports first. -/
def Dev.datapathReset (d : Dev) (i : Iface) : Dev :=
  if !d.mayReset ∨ d.life.datapathDown then d
  else
    let d := (((d.cause 3).logReset 3 i.code).readyLow.abortCommands.freeSessions).rodOff
    let d := (List.range 4).foldl Dev.portReset d
    { d with
      lanes := d.lanes.map fun (l : Lane) => { l with kept := false, sigDet := false, cdrLock := false, locked := false }
      rx := [], cellsHeld := 0, belowXoff := false
      sec := { d.sec with sas := [], scis := [] }
      life := { d.life with datapathDown := true } }

/-- CHIP_RST_CTL: the widest of the bits written acts (R62). -/
def Dev.rstCtl (d : Dev) (w : Nat) (i : Iface) : Dev :=
  if bits w 31 16 ≠ 0xD1A1 then d
  else if bit w 2 then d.deviceReset i
  else if bit w 1 then d.datapathReset i
  else if bit w 0 then d.coresReset i
  else d


end Sys2Proof.Machine
end

