-- ==== Sys2Proof/Machine/FwOps.lean ====
section
/-! DEFINITION. Firmware: checking and staging images, live activation, the watchdog, the slots at a start, loads over SPI
and the policy registers (R342 to R353). -/

set_option cleanup.letToHave false

namespace Sys2Proof.Machine

/-! ## Images (R343, R344, R346) -/

/-- An image's header fields of interest. -/
def FwImage.ofBytes (b : Bytes) : FwImage := ⟨num b 16 4, num b 20 2, b⟩

/-- The layout that check 2 of R346 asks for. -/
def fwLayoutOk (b : Bytes) : Bool :=
  192 ≤ b.length && b.length % 4 == 0 && num b 0 4 == 0x46574431 && num b 4 2 == 1 && num b 6 2 == 64 &&
    num b 8 4 == b.length && num b 24 4 + 192 == b.length && num b 28 4 < num b 24 4 && num b 32 4 < num b 24 4 &&
    num b 36 4 ≤ 4194304 && num b 22 2 == 0 && allZero (slice b 48 16)

/-- The verification of R343 and R344: the order number of the check of R346 that fails, none where all pass. -/
def fwVerify (nv : Secure) (b : Bytes) : Option Nat :=
  let block := b.drop (b.length - 128)
  let key := block.take 64
  if !nv.fwAuthority.contains (sha256 key) then some 4
  else if !ecdsaVerify (num key 0 32, num key 32 32) (sha256 (b.take (b.length - 128))) (num block 64 32) (num block 96 32) then
    some 5
  else if num b 20 2 < nv.svnFloor then some 6
  else none

/-- Status and DETAIL of a failed check of R346. -/
def fwStatus (check : Nat) : Nat × Nat :=
  match check with
  | 1 => (stBusy, 5)
  | 2 => (stMalformed, 2)
  | 3 => (stMalformed, 2)
  | 4 => (stIntegrity, 0)
  | 5 => (stIntegrity, 0)
  | _ => (stNotAuthorised, 0)

/-- The checks of R346 in their order: the first that fails. -/
def fwCheck (nv : Secure) (busy : Bool) (b : Bytes) : Option Nat :=
  if busy then some 1
  else if !fwLayoutOk b then some 2
  else if num b 12 4 ≠ 0x1664 then some 3
  else fwVerify nv b

/-- Whether a staging write or an activation is in progress. -/
def Dev.fwBusy (d : Dev) : Bool := d.fw.stage.isSome || d.fw.act.isSome || d.fw.heldAct.isSome

/-! ## Staging (R346, R347) -/

/-- A refused stage: the record, the interrupt and the counter (R346, R354). -/
def Dev.stageRefused (d : Dev) (check : Nat) (b : Bytes) : Dev :=
  ((d.log evFwStageRefused (be 1 check ++ be 8 (num b 16 4))).raise (irqFwc 1)).count (fwcCnt 1)

/-- The staging slot goes to WRITING (R347). -/
def Dev.stageBegin (d : Dev) (ctx : Option Nat) (b : Bytes) : Dev :=
  { d with fw := { d.fw with staging := .writing, stagedImage := none, stage := some (ctx, FwImage.ofBytes b) } }

/-- FW_STAGE (R346). -/
def Dev.runFwStage (d : Dev) (nv : Secure) (ctx : Nat) : Dev :=
  match d.fresh ctx 0x50 with
  | none => d
  | some f =>
    match fwCheck nv (d.fwBusy || d.fw.loadOpen) f.cmd.value with
    | some check =>
      let (status, detail) := fwStatus check
      (d.stageRefused check f.cmd.value).finish ctx status 0 detail
    | none => (d.stageBegin (some ctx) f.cmd.value).modFlight ctx fun f => { f with job := .fwStage }

/-- The outcome of a load over SPI (R352). -/
def Dev.loadDone (d : Dev) (status : Nat) : Dev :=
  ({ d with fw := { d.fw with loadCode := status } }).setRegF 0xB004C 8 8 1

/-- The staging write and its read-back have finished (R347); while the cores are down it is held (R53). -/
def Dev.stageDone (d : Dev) (ok : Bool) : Dev :=
  match d.fw.stage with
  | none => d
  | some (ctx, img) =>
    if d.life.coresDown then d
    else
    let iface := match ctx.bind d.flight with
      | some f => Iface.inBand f.cmd.session
      | none => Iface.spi
    let d :=
      if ok then
        let d := { d with fw := { d.fw with stage := none, staging := .staged, stagedImage := some img } }
        ((d.log evFwStaged (be 8 img.version ++ be 2 img.svn ++ be 1 iface.code)).raise (irqFwc 0)).count (fwcCnt 0)
      else { d with fw := { d.fw with stage := none, staging := .empty, stagedImage := none } }.count (fwcCnt 1)
    match ctx with
    | none => d.loadDone (if ok then stOk else stInternal)
    | some c => if ok then d.finishOk c 0 [] [] else d.finishInternal c 1

/-! ## Loading over SPI (R352) -/

/-- FWC_LOAD_CTL.OPEN. -/
def Dev.loadOpen (d : Dev) : Dev :=
  let inBand : Bool := match d.fw.stage with
    | some (some _, _) => true
    | _ => false
  if inBand = true ∨ d.fw.act.isSome ∨ d.fw.heldAct.isSome then d.setRegF 0xB004C 9 9 1
  else { d with fw := { d.fw with loadOpen := true, loadBytes := [] } }

/-- FWC_LOAD_DATA: the next four bytes. -/
def Dev.loadData (d : Dev) (w : Nat) : Dev :=
  if d.fw.loadOpen ∧ d.fw.loadBytes.length < 8388608 then
    { d with fw := { d.fw with loadBytes := d.fw.loadBytes ++ be 4 w } }
  else d

/-- FWC_LOAD_CTL.GO: the received bytes are checked as an FW_STAGE; FWC_LOAD_LEN has to name their length. -/
def Dev.loadGo (d : Dev) (nv : Secure) : Dev :=
  if !d.fw.loadOpen then d
  else
    let b := d.fw.loadBytes
    let len := d.regN 0xB0044
    let d := { d with fw := { d.fw with loadOpen := false, loadBytes := [] } }
    if !d.domOn 66 then d.loadDone stResourceOff
    else if 8388608 < len then ((d.raise (irqFwc 1)).count (fwcCnt 1)).loadDone stTooLarge
    else
      let check := match fwCheck nv d.fwBusy b with
        | some 1 => some 1
        | c => if len = b.length then c else some 2
      match check with
      | some check => (d.stageRefused check b).loadDone (fwStatus check).1
      | none => d.stageBegin none b

/-- FWC_LOAD_CTL.ABORT. -/
def Dev.loadAbort (d : Dev) : Dev := { d with fw := { d.fw with loadOpen := false, loadBytes := [] } }

/-- FWC_LOAD_CTL: OPEN, then GO, then ABORT. -/
def Dev.loadCtl (d : Dev) (nv : Secure) (w : Nat) : Dev :=
  let d := if bit w 0 then d.loadOpen else d
  let d := if bit w 1 then d.loadGo nv else d
  if bit w 2 then d.loadAbort else d

/-! ## Live activation (R349, R350) -/

/-- The version of what runs; CHIP_REV.ROM is that of the ROM firmware (R354). -/
def Dev.runVersion (d : Dev) : Nat :=
  match d.fw.running with
  | .none => 0
  | .rom => 1
  | _ => (d.fw.runImage.map (·.version)).getD 0

/-- Run an activation from event 1 (R349): the checks, then the pause. -/
def Dev.activate (d : Dev) (nv : Secure) (ctx : Nat) : Dev :=
  match d.fw.staging, d.fw.stagedImage with
  | .staged, some img =>
    if (fwVerify nv img.bytes).isSome then
      { d with fw := { d.fw with staging := .empty, stagedImage := none } }.finish ctx stIntegrity 0 0
    else
      let act := (ctx, d.cycles, d.fw.running, d.fw.runImage)
      ({ d with fw := { d.fw with act := some act } }.modFlight ctx fun f => { f with job := .fwActivate }).pauseDispatch
  | _, _ => d.finish ctx stNotFound 0 0

/-- FW_ACTIVATE (R349). -/
def Dev.runFwActivate (d : Dev) (nv : Secure) (ctx : Nat) : Dev :=
  match d.fresh ctx 0x51 with
  | none => d
  | some _ =>
    if d.fw.staging = .writing ∨ d.fwBusy ∨ d.fw.loadOpen then d.finish ctx stBusy 0 5 else d.activate nv ctx

/-- The new firmware reports ready (R349). -/
def Dev.fwReady (d : Dev) : Dev :=
  match d.fw.act with
  | none => d
  | some (ctx, since, _, _) =>
    if d.ccOff.isSome then d else
    let us := (d.cycles - since) / 1250
    let new := (d.fw.stagedImage.map (·.version)).getD 0
    let old := d.runVersion
    let d := { d with fw := { d.fw with
      act := none, running := .live, runImage := d.fw.stagedImage, wdogTimes := [] } }
    let d := (d.setRegN 0xB0018 (max (d.regN 0xB0018) (min 0xFFFFFFFF us))).resumeDispatch
    let d := (d.log evFwActivated (be 8 old ++ be 8 new ++ be 4 us)).raise (irqFwc 2)
    (d.count (fwcCnt 2)).finishOk ctx 0 [] []

/-- The new firmware is not ready in time: the cores are reset and the old firmware runs again (R350). -/
def Dev.fwReadyTimeout (d : Dev) : Dev :=
  match d.fw.act with
  | none => d
  | some (ctx, _, run, img) =>
    let v := (d.fw.stagedImage.map (·.version)).getD 0
    let d := { d with fw := { d.fw with
      act := none, running := run, runImage := img, staging := .empty, stagedImage := none } }
    let d := d.resumeDispatch
    let d := (d.log evFwActivateFail (be 8 v ++ be 1 0)).raise (irqFwc 3)
    (d.count (fwcCnt 3)).finishInternal ctx 2

/-- Firmware runs after a cores reset; an activation that was held runs again from event 1 (R51 to R53, R353). -/
def Dev.coresResetDone (d : Dev) (nv : Secure) : Dev :=
  if !d.life.coresDown ∨ d.ccOff.isSome then d
  else
    let d := { d with life := { d.life with coresDown := false } }
    match d.fw.heldAct with
    | none => d
    | some ctx => { d with fw := { d.fw with heldAct := none } }.activate nv ctx

/-! ## ROM fallback and the watchdog (R348, R351) -/

/-- The ROM firmware runs: cause 0 verify, 1 watchdog. -/
def Dev.romFallback (d : Dev) (cause : Nat) : Dev :=
  let v := (d.fw.activeImage.map (·.version)).getD 0
  let d := { d with fw := { d.fw with active := .bad, running := .rom, runImage := none, wdogTimes := [] } }
  (d.log evFwRomFallback (be 1 cause ++ be 8 v)).raise (irqFwc 4)

/-- The fallback after three watchdog resets of one firmware within 600 s. -/
def Dev.wdogFallback (d : Dev) : Dev :=
  match d.fw.running with
  | .live =>
    let v := d.runVersion
    let d := { d with fw := { d.fw with staging := .empty, stagedImage := none, wdogTimes := [] } }
    let d := ((d.log evFwActivateFail (be 8 v ++ be 1 1)).raise (irqFwc 3)).count (fwcCnt 3)
    if d.fw.active = .valid then { d with fw := { d.fw with running := .slot, runImage := d.fw.activeImage } }
    else d.romFallback 0
  | .slot => d.romFallback 1
  | .rom => ({ d with fw := { d.fw with wdogTimes := [] } }).orderedShutdown 4 3 0
  | .none => d

/-- Watchdog resets of the running firmware in the last 600 s. -/
def Dev.wdogRecent (d : Dev) : List Nat := d.fw.wdogTimes.filter fun t => d.cycles < t + 600 * cyclesPerSecond

/-- A cluster is served (R351): the cycle is kept, since a period that ends in it is served too (R15, R353). -/
def Dev.wdogKick (d : Dev) (cluster : Nat) : Dev :=
  { d with fw := { d.fw with kicked := d.fw.kicked.put cluster d.cycles } }

/-- A cluster misses its watchdog period (R351). It does not run while no firmware does: in a start before phase FW, in a
flush, in a cores reset, in an activation, or with a control-core domain not ON (R363). -/
def Dev.wdogExpiry (d : Dev) (cluster : Nat) : Dev :=
  if d.fw.kicked.find (cluster % 2) = some d.cycles ∨ d.fw.running = .none ∨ d.life.flush ≠ .none ∨ d.life.phase = .halt ∨ d.life.coresDown ∨ d.fw.act.isSome ∨
      d.ccOff.isSome then d
  else
    let times := d.wdogRecent ++ [d.cycles]
    let d := ({ d with fw := { d.fw with wdogTimes := times } }.cause 4).coresDown
    let d := (d.log evWdogReset (be 1 (cluster % 2) ++ be 4 times.length)).count (fwcCnt 5)
    if 3 ≤ times.length then d.wdogFallback else d

/-! ## Phase FW of a start (R348) -/

/-- Run the active slot's firmware where it verifies, else the ROM firmware. -/
def Dev.runActive (d : Dev) (nv : Secure) : Dev :=
  match d.fw.active, d.fw.activeImage with
  | .valid, some img =>
    if (fwVerify nv img.bytes).isNone then
      { d with fw := { d.fw with running := .slot, runImage := some img, wdogTimes := [] } }
    else d.romFallback 0
  | _, _ => d.romFallback 0

/-- fw_phase of R348. `copyOk` is whether the copy verifies, `ms` how long it took. -/
def Dev.fwPhase (d : Dev) (nv : Secure) (copyOk : Bool) (ms : Nat) : Secure × Dev :=
  if d.life.bootSrc = 2 then
    (nv, { d with fw := { d.fw with running := .rom, runImage := none, wdogTimes := [] } })
  else
    match d.fw.staging, d.fw.stagedImage with
    | .staged, some img =>
      match fwVerify nv img.bytes with
      | some check =>
        let d := { d with fw := { d.fw with staging := .empty, stagedImage := none } }
        (nv, (d.stageRefused check img.bytes).runActive nv)
      | none =>
        let old := (d.fw.activeImage.map (·.version)).getD 0
        if !copyOk then (nv, { d with fw := { d.fw with active := .copying } }.romFallback 0)
        else
          let nv := { nv with svnFloor := max nv.svnFloor img.svn }
          let d := { d with
            fw := { d.fw with active := .valid, activeImage := some img, staging := .empty, stagedImage := none }
            life := { d.life with fwCopied := true } }
          let d := (d.log evFwCopied (be 8 old ++ be 8 img.version ++ be 4 ms)).count (fwcCnt 4)
          (nv, d.runActive nv)
    | _, _ =>
      let d := if d.fw.active = .copying then { d with fw := { d.fw with active := .bad } } else d
      (nv, d.runActive nv)

/-! ## Policy registers (R21, R342) -/

/-- Whether a policy word's fields all lie in their POLI ranges. -/
def fwPolicyOk (addr w : Nat) : Bool :=
  match addr with
  | 0xB0020 => true
  | 0xB0024 => poliOk { poliDefault with wearSpread := bits w 31 16 }
  | 0xB0028 => poliOk { poliDefault with aRef := w }
  | _ => poliOk { poliDefault with patrolDays := bits w 7 0 }

/-- A write of a firmware policy register (R342). -/
def Dev.fwPolicy (d : Dev) (addr w session : Nat) : Dev :=
  if !fwPolicyOk addr w then d
  else
    let old := d.regN addr
    let new := if addr = 0xB002C then bits w 7 0 else w
    (d.setRegN addr new).log evFwPolicySet (be 4 addr ++ be 4 old ++ be 4 new ++ be 2 session)

end Sys2Proof.Machine
end

