-- ==== Sys2Proof/Machine/SecOps.lean ====
section
/-! DEFINITION. SEC: derived keys and the key store, loads and erases of key slots, alarms and unlock, MACsec
associations, and the device's time (R208 to R236). -/

set_option cleanup.letToHave false

namespace Sys2Proof.Machine

/-! ## Derived keys and the key store (R217, R218) -/

/-- ASCII of a four-letter label. -/
def label (n : Nat) : Bytes := be 4 n

/-- The first valid scalar from counter `i` on (R217); `fuel` bounds the tries. -/
def deriveScalar (root lab : Bytes) : Nat → Nat → Nat
  | 0, _ => 0
  | n + 1, i =>
    let v := beVal (hmac256 root (lab ++ be 4 i))
    if 1 ≤ v ∧ v < p256N then v else deriveScalar root lab n (i + 1)

/-- KSK, IK and LK (R217). -/
def Secure.kskOf (nv : Secure) : Bytes := hmac256 nv.rootKey (label 0x444B5331 ++ be 4 nv.eraseEpoch)
def Secure.ikOf (nv : Secure) : Nat := deriveScalar nv.rootKey (label 0x444B4931) 16 0
def Secure.lkOf (nv : Secure) : Nat := deriveScalar nv.rootKey (label 0x444B4C31) 16 0

/-- IK and LK are derived where HSE is ON (R217, R355). -/
def Dev.deriveHse (d : Dev) (nv : Secure) : Dev :=
  if d.domOn 66 ∧ !d.sec.locked then { d with sec := { d.sec with ik := some nv.ikOf, lk := some nv.lkOf } } else d

/-- Write every slot to both copies of the key store. -/
def Dev.storeSlots (d : Dev) (nv : Secure) (slots : Tab KeySlot) : Dev :=
  { d with keyStore := ⟨some (nv.eraseEpoch, slots), some (nv.eraseEpoch, slots)⟩ }

/-- The slots of a copy that unwraps under the present KSK; `bad` is a copy that fails its tag. -/
def copySlots (nv : Secure) (bad : Bool) (c : Option (Nat × Tab KeySlot)) : Option (Tab KeySlot) :=
  match c with
  | some (epoch, slots) => if bad ∨ epoch ≠ nv.eraseEpoch then none else some slots
  | none => none

/-- Unwrap the key store into the slots; a copy that fails is rebuilt from the other (R218). After a crypto-erase
there is nothing to unwrap; a slot whose erase is under way stays empty (R215). -/
def Dev.unwrapStore (d : Dev) (nv : Secure) (badA badB : Bool) : Dev :=
  if nv.erased then d
  else
    match (copySlots nv badA d.keyStore.copyA).orElse fun _ => copySlots nv badB d.keyStore.copyB with
    | some slots =>
      let held := slots.keep fun k _ => !(d.sec.erases.any fun e => e.1 == k)
      { d with sec := { d.sec with slots := held } }.storeSlots nv slots
    | none => (d.storeSlots nv []).log evKeystoreLost (be 4 2)

/-- Delete a slot from both copies of the key store (R215). -/
def Dev.unstore (d : Dev) (slot : Nat) : Dev :=
  let f := fun (c : Option (Nat × Tab KeySlot)) => c.map fun x => (x.1, x.2.del slot)
  { d with keyStore := ⟨f d.keyStore.copyA, f d.keyStore.copyB⟩ }

/-- The slots whose erase marks are set are deleted from both copies, and the marks cleared (R215). -/
def Dev.clearMarks (d : Dev) (nv : Secure) : Secure × Dev :=
  ({ nv with eraseMarks := [] }, nv.eraseMarks.foldl (fun (d : Dev) p => d.unstore p.1) d)

/-! ## Loading a key (R209 to R212) -/

/-- The loads of a slot that have not committed. -/
def Dev.loadsOf (d : Dev) (slot : Nat) : List KeyLoad := d.sec.loads.filter fun l => l.slot == slot

/-- The policy of a slot, of a load that has not committed where there is one. -/
def Dev.slotPolicy (d : Dev) (slot : Nat) : Option Nat :=
  match (d.loadsOf slot).getLast? with
  | some l => some l.entry.policy
  | none => (d.sec.slots.find slot).map (·.policy)

/-- The credential entries of the applied image (R93, R216). -/
def Dev.creds (d : Dev) : List (Nat × Nat) := (d.image.map (·.creds)).getD []

/-- The policies that namespaces, the League section and SECP name a slot for (R211). -/
def Dev.slotUses (d : Dev) (slot : Nat) : List Nat :=
  (if d.nss.any fun p => p.2.entry.enc == 1 && p.2.entry.keySlot == slot then [1] else []) ++
    (if d.league.ticketSlot = slot then [3] else []) ++ (if d.creds.any fun c => c.1 == slot then [4] else [])

/-- The key that a wrapped key carries (R210): none where EPUB is no point of the curve, then none where the tag fails. -/
def unwrapKey (lk serial slot policy priv : Nat) (b : Bytes) : Option (Option Bytes) :=
  let epub := (num b 0 32, num b 32 32)
  if !onCurve epub then none
  else
    match ecdh lk epub with
    | none => none
    | some z =>
      let w := label 0x444B5731 ++ be 8 serial ++ be 2 slot ++ be 1 policy ++ be 1 priv
      some (gcmOpen (hmac256 (be 32 z) w) (slice b 64 12) w (slice b 76 32) (slice b 108 16))

/-- The checks of R211 in their order: status and DETAIL of the first that fails, or the generation and the key. `len` is
the VAL_LEN. -/
def Dev.checkLoad (d : Dev) (nv : Secure) (slot policy priv len : Nat) (b : Bytes) : Except (Nat × Nat) KeyGen :=
  let gen := nv.slotGen.getD slot 0 + (d.loadsOf slot).length
  if len ≠ 124 ∨ 511 < slot ∨ policy = 0 ∨ 4 < policy ∨ (priv ≠ 0 ∧ policy ≠ 4) then .error (stMalformed, 2)
  else if d.sec.locked then .error (stNotAuthorised, 0)
  else if (d.slotPolicy slot).any fun p => p != policy then .error (stNotAuthorised, 0)
  else if (d.slotUses slot).any fun p => p != policy then .error (stNotAuthorised, 0)
  else if policy = 4 ∧ (priv = 0 ∨ !(d.creds.any fun c => c.1 == slot && (priv &&& c.2) == priv)) then
    .error (stNotAuthorised, 0)
  else if !d.domOn 66 then .error (stResourceOff, 66)
  else
    match unwrapKey nv.lkOf nv.serial slot policy priv b with
    | none => .error (stMalformed, 2)
    | some none => .error (stIntegrity, 0)
    | some (some key) => if 0xFFFFFFFF ≤ gen then .error (stNoSpace, 0) else .ok ⟨gen + 1, key⟩

/-- The outcome of a load over SPI (R211). -/
def Dev.kloadDone (d : Dev) (status : Nat) : Dev :=
  (d.setRegN 0x60088 (putBits (putBits (d.regN 0x60088) 7 0 status) 8 8 1)).raise (irqSec 2)

/-- A load waits for both key-store copies (R212). -/
def Dev.beginLoad (d : Dev) (slot policy priv : Nat) (g : KeyGen) (ctx : Option Nat) (iface : Iface) : Dev :=
  { d with sec := { d.sec with loads := d.sec.loads ++ [⟨slot, ⟨policy, priv, [g]⟩, g.gen, ctx, iface⟩] } }

/-- KEYSLOT_LOAD (R211). -/
def Dev.runKeyLoad (d : Dev) (nv : Secure) (ctx : Nat) : Dev :=
  match d.fresh ctx 0x48 with
  | none => d
  | some f =>
    let p := f.cmd.param
    let (slot, policy, priv) := (num p 0 2, num p 2 1, num p 3 1)
    match d.checkLoad nv slot policy priv (if num p 4 4 = 0 then f.cmd.valLen else 0) f.cmd.value with
    | .error (status, detail) => (d.count (secCnt 1)).finish ctx status 0 detail
    | .ok g => (d.beginLoad slot policy priv g (some ctx) (.inBand f.cmd.session)).modFlight ctx fun f =>
        { f with job := .keyCommit }

/-- SEC_KLOAD_DATA over SPI: four more bytes of the wrapped key (R211). -/
def Dev.kloadData (d : Dev) (w : Nat) : Dev :=
  { d with sec := { d.sec with kload := (d.sec.kload ++ be 4 w).take 124, kloadCount := d.sec.kloadCount + 4 } }

/-- SEC_KLOAD_CTL over SPI: its fields are written, and GO loads what was written (R211). -/
def Dev.kloadCtl (d : Dev) (nv : Secure) (w : Nat) : Dev :=
  let d := d.setRegN 0x60080 (w &&& 0x07FF01FF)
  if !bit w 31 then d
  else
    let (slot, policy, priv) := (bits w 8 0, bits w 26 24, bits w 23 16)
    let r := d.checkLoad nv slot policy priv d.sec.kloadCount d.sec.kload
    let d := { d with sec := { d.sec with kload := [], kloadCount := 0 } }
    match r with
    | .error (status, _) => (d.count (secCnt 1)).kloadDone status
    | .ok g => d.beginLoad slot policy priv g none .spi

/-- Generations that a slot keeps (R208). -/
def keptGens (policy : Nat) : Nat := if policy = 1 then 16 else 1

/-- Both key-store copies have committed the oldest load: the key is the slot's new generation (R212, R214). A load whose
slot is being erased waits for the erase. -/
def Dev.keystoreCommit (d : Dev) (nv : Secure) : Secure × Dev :=
  match d.sec.loads with
  | [] => (nv, d)
  | l :: rest =>
    if d.sec.erases.any fun e => e.1 == l.slot then (nv, d)
    else
      let gens := l.entry.gens ++ ((d.sec.slots.find l.slot).map (·.gens)).getD []
      let keep := keptGens l.entry.policy
      let slots := d.sec.slots.put l.slot { l.entry with gens := gens.take keep }
      let nv := { nv with slotGen := nv.slotGen.put l.slot l.gen, erased := false }
      let d := ({ d with sec := { d.sec with loads := rest, slots := slots } }.storeSlots nv slots).count (secCnt 0)
      let d := match l.entry.policy, gens.drop keep with
        | 1, g :: _ => d.log evKeyGenDropped (be 2 l.slot ++ be 4 g.gen)
        | _, _ => d
      let d := d.log evKeyLoaded (be 2 l.slot ++ be 1 l.entry.policy ++ be 4 l.gen ++ be 1 l.iface.code)
      match l.ctx with
      | none => (nv, d.kloadDone stOk)
      | some ctx => (nv, d.finishOk ctx 0 (be 4 l.gen) [])

/-! ## Associations (R225 to R229) -/

/-- Clear an association at once (R229): the frame on the wire that it protects is stomped, and where it was the active
one the port stops data. -/
def Dev.saDrop (d : Dev) (i : Nat) : Dev :=
  match d.sec.sas.find i with
  | none => d
  | some s =>
    let n := i / 32
    let d := { d with sec := { d.sec with sas := d.sec.sas.del i } }
    let mine := (d.onWire n).any fun t => t.sa.any fun x => x.1 == i
    let d := if mine then d.stomp n 41 else d
    if bit i 4 ∨ s.state ≠ .active then d else (d.raise (irqSec 4)).log evTxStop (be 1 n ++ be 4 (i % 4))

/-- The selected association (SEC_MSA_SEL); a transmit association has no SC. -/
def Dev.saSel (d : Dev) : Nat :=
  let s := d.regF 0x60100 6 0
  if bit s 4 then s else s / 16 * 16 + s % 4

/-- Set SEC_MSA_STATUS.ERR. -/
def Dev.saErr (d : Dev) (e : Nat) : Dev := { d with sec := { d.sec with msaErr := e } }

/-- The associations of a port's SC and direction: those that share all but the AN. -/
def Dev.saPeers (d : Dev) (i : Nat) : Nat := d.sec.sas.count fun j _ => j / 4 == i / 4 && j != i

/-- SEC_MSA_CTL.INSTALL (R225, R226): ERR where it is refused; a third association of a transmit SC or receive SC is
discarded. -/
def Dev.saInstall (d : Dev) (nv : Secure) : Secure × Dev :=
  let i := d.saSel
  let rx := bit i 4
  let n := i / 32
  let slot := d.regF 0x60104 8 0
  let xpn := d.regF 0x60104 28 28 == 1
  match d.bindKey slot 2 with
  | none => (nv, d.saErr 1)
  | some g =>
    if !rx ∧ g.gen ≤ nv.txGen.getD slot 0 then (nv, d.saErr 2)
    else if d.sec.sas.any fun p => p.1 / 32 == n && p.1 != i && p.2.xpn != xpn then (nv, d.saErr 3)
    else if !d.macsecOn n then (nv, d.saErr 4)
    else if 2 ≤ d.saPeers i then (nv, d)
    else
      let pn := d.regN 0x60110 + (if xpn then d.regN 0x60114 * 2 ^ 32 else 0)
      let next := d.regF 0x60104 25 24
      let salt := d.regN 0x6011C * 2 ^ 64 + d.regN 0x60120 * 2 ^ 32 + d.regN 0x60124
      let s : Sa :=
        { state := if rx then .active else .ready, slot := slot, key := g, xpn := xpn
          pn := if rx then max 1 pn else 1, next := next, nextEn := d.regF 0x60104 23 23 == 1 && !rx
          win := d.regN 0x60128, ssci := d.regN 0x60118, salt := salt }
      let scis := if rx then d.sec.scis.put (n * 4 + i / 4 % 4) (d.regN 0x60108 * 2 ^ 32 + d.regN 0x6010C) else d.sec.scis
      let nv := if rx then nv else { nv with txGen := nv.txGen.put slot g.gen }
      (nv, { d with sec := { d.sec with sas := d.sec.sas.put i s, scis := scis } })

/-- SEC_MSA_CTL.CLEAR (R229). -/
def Dev.saClear (d : Dev) : Dev := d.saDrop d.saSel

/-- An association becomes active in the core cycle in which the port's last one was exhausted without a successor: it
carries the next frame (R235). -/
def Dev.saRelieve (d : Dev) (i : Nat) : Dev :=
  match d.sec.stops.find (i / 32) with
  | none => d
  | some an =>
    ({ d with sec := { d.sec with stops := d.sec.stops.del (i / 32) } }).log evSaSwitch
      (be 1 (i / 32) ++ be 4 an ++ be 4 (i % 4))

/-- SEC_MSA_CTL.ACTIVATE (R227): the association that was active is READY again. -/
def Dev.saActivate (d : Dev) : Dev :=
  let i := d.saSel
  if bit i 4 then d.saErr 6
  else
    match d.sec.sas.find i with
    | some s =>
      if s.state ≠ .ready then d.saErr 6
      else
        let d := match d.activeSa (i / 32) with
          | some (j, _) => d.modSa j fun s => { s with state := .ready }
          | none => d
        (d.modSa i fun s => { s with state := .active }).saRelieve i
    | none => d.saErr 6

/-- SEC_MSA_CTL: the fields are written, to a selected transmit association too, and the action bits act, from the
highest down; ERR is that of this write (R226, R227, R229, R236). -/
def Dev.saCtl (d : Dev) (nv : Secure) (w : Nat) : Secure × Dev :=
  let i := d.saSel
  if !bit i 4 ∧ bit w 23 ∧ bits w 25 24 = i % 4 then (nv, d.saErr 5)
  else
    let d := (d.setRegN 0x60104 (w &&& 0x138001FF)).saErr 0
    let d := if bit i 4 then d else d.modSa i fun s => { s with next := bits w 25 24, nextEn := bit w 23 }
    let (nv, d) := if bit w 31 then d.saInstall nv else (nv, d)
    let d := if bit w 30 then d.saClear else d
    (nv, if bit w 29 then d.saActivate else d)

/-! ## Operations that lose their key (R160, R202, R213 to R215, R220) -/

/-- The storage slot that a stored value is sealed under. -/
def Dev.valueSlot (d : Dev) (v : Value) : Option Nat := if v.enc then (d.ns v.ns).map (·.entry.keySlot) else none

/-- The storage slot that an operation of a write has bound. -/
def Dev.opSlot (d : Dev) (o : WOp) : Option Nat := if o.bind.isSome then (d.ns o.ns).map (·.entry.keySlot) else none

/-- The first operation of a list that holds a lost slot: its place and the slot. -/
def Dev.lostOp (d : Dev) (hit : Nat → Bool) : Nat → List WOp → Option (Nat × Nat)
  | _, [] => none
  | i, o :: r =>
    match d.opSlot o with
    | some s => if hit s then some (i, s) else Dev.lostOp d hit (i + 1) r
    | none => Dev.lostOp d hit (i + 1) r

/-- The first segment of a read that is neither ready nor stopped and needs a lost slot: its place and the slot. -/
def Dev.lostSeg (d : Dev) (hit : Nat → Bool) : Nat → List ReadSeg → Option (Nat × Nat)
  | _, [] => none
  | i, s :: r =>
    match (if s.ready.isSome ∨ s.stop.isSome then none else s.src.bind d.valueSlot) with
    | some k => if hit k then some (i, k) else Dev.lostSeg d hit (i + 1) r
    | none => Dev.lostSeg d hit (i + 1) r

/-- A command that holds a lost slot ends with KEY_LOST: a write that has not committed applies nothing, a read delivers
what completed before. Answers how many ended. -/
def Dev.loseFlight (hit : Nat → Bool) (ctx : Nat) (x : Nat × Dev) : Nat × Dev :=
  let (n, d) := x
  match d.flight ctx with
  | none => x
  | some f =>
    match f.job with
    | .write w =>
      match d.lostOp hit 0 w.ops with
      | none => x
      | some (i, slot) =>
        if w.phase = .building ∨ (w.phase = .programming ∧ w.through) then
          let d := if w.phase = .building then d else w.ops.foldl Dev.dropThrough d
          (n + 1, (d.mergeFailed ctx i (f.cmd.op == 0x30) stKeyLost slot))
        else x
    | .read r =>
      match d.lostSeg hit 0 r.segs with
      | none => x
      | some (i, slot) =>
        let cut := r.segs.take i ++ ((r.segs[i]?).map fun s => { s with stop := some (stKeyLost, slot) }).toList
        (n + 1, (d.modFlight ctx fun f => { f with job := .read { r with segs := cut } }).releaseRead ctx)
    | _ => x

/-- An open that holds a lost credential or League key: a host's ends with REFUSE KEY_LOST, this device's own ends (R94,
R104). -/
def Dev.loseOpen (hit : Nat → Bool) (sid : Nat) (x : Nat × Dev) : Nat × Dev :=
  let (n, d) := x
  match d.session sid with
  | some s =>
    if s.bound.isSome ∧ hit s.slot then
      (n + 1, if s.opener then d.endSession sid else d.refuseProof sid stKeyLost)
    else x
  | none => x

/-- Every operation that holds one of the lost slots ends. Answers how many. -/
def Dev.loseKeys (d : Dev) (hit : Nat → Bool) : Nat × Dev :=
  let x := d.cqe.flights.foldl (fun x p => Dev.loseFlight hit p.1 x) (0, d)
  let x := d.sess.foldl (fun x p => Dev.loseOpen hit p.1 x) x
  d.sec.sas.foldl (fun x p => if hit p.2.slot then (x.1 + 1, x.2.saDrop p.1) else x) x

/-! ## Erasing a key (R215) -/

/-- Whether a slot holds a key, in SEC or in the key store. -/
def Dev.slotHeld (d : Dev) (slot : Nat) : Bool :=
  let has := fun (c : Option (Nat × Tab KeySlot)) => c.any fun x => x.2.has slot
  d.sec.slots.has slot || has d.keyStore.copyA || has d.keyStore.copyB

/-- KEYSLOT_ERASE: the slot is zeroized and its holders end; the erase mark is due (R215). It waits for a load of the slot
that arrived before it. -/
def Dev.runKeyErase (d : Dev) (ctx : Nat) : Dev :=
  match d.fresh ctx 0x49 with
  | none => d
  | some f =>
    let slot := num f.cmd.param 0 2
    if !(d.loadsOf slot).isEmpty ∨ (d.sec.erases.any fun e => e.1 == slot) then d
    else if !d.slotHeld slot then d.finish ctx stNotFound 0 0
    else
      let d := { d with sec := { d.sec with slots := d.sec.slots.del slot } }
      let (n, d) := d.loseKeys (· == slot)
      { d with sec := { d.sec with erases := d.sec.erases ++ [(slot, some ctx, n)] } }.modFlight ctx fun f =>
        { f with job := .keyErase slot }

/-- The erase mark of the oldest erase is written and the slot deleted from both copies (R215). -/
def Dev.keyEraseCommit (d : Dev) (nv : Secure) : Secure × Dev :=
  match d.sec.erases with
  | [] => (nv, d)
  | (slot, ctx, n) :: rest =>
    let d := ({ d with sec := { d.sec with erases := rest, slots := d.sec.slots.del slot } }.unstore slot).count (secCnt 2)
    let d := d.log evKeyErased (be 2 slot ++ be 4 n)
    ({ nv with eraseMarks := nv.eraseMarks.del slot }, match ctx with
      | some c => d.finishOk c 0 [] []
      | none => d)

/-- Erase marks that are still due are written to the non-volatile store (R53, R215). -/
def Secure.markErases (nv : Secure) (d : Dev) : Secure :=
  { nv with eraseMarks := d.sec.erases.foldl (fun (t : Tab Bool) e => t.put e.1 true) nv.eraseMarks }

/-! ## Alarms (R219 to R222) -/

/-- SEC's volatile keys are zeroized and every operation that held one ends (R220). -/
def Dev.zeroize (d : Dev) : Dev :=
  let loads := d.sec.loads
  let d := { d with sec := { d.sec with slots := [], ksk := none, ik := none, lk := none, loads := [], locked := true } }
  let d := loads.foldl (fun (d : Dev) (l : KeyLoad) =>
    match l.ctx with
    | some ctx => d.finish ctx stKeyLost 0 l.slot
    | none => (d.count (secCnt 3)).kloadDone stKeyLost) d
  (d.loseKeys fun _ => true).2

/-- HARD_ALARM as the applied image set it. -/
def Dev.hardAlarm (d : Dev) : Bool := d.regF 0x60000 4 4 == 1

/-- Whether the journal can take the alarm's record: not in a flush whose journal is written, nor in HALT or reset (R59). -/
def Dev.recordsAlarm (d : Dev) : Bool :=
  !(d.life.flush != .none && 7 ≤ d.life.flushStep) && d.life.phase != .halt && d.life.phase != .reset

/-- The SEC_ALARM record (R220). -/
def Dev.logAlarm (d : Dev) (nv : Secure) (src : Nat) (hard : Bool) : Dev :=
  d.log evSecAlarm (be 1 src ++ be 4 nv.alarms ++ be 1 (b2n hard))

/-- Sources trip (R219 to R222): `src` the sources, `active` those whose condition holds at the present sample. -/
def Dev.alarm (d : Dev) (nv : Secure) (src active : Nat) : Secure × Dev :=
  let src := src % 16
  let d := { d with sec := { d.sec with sources := active % 16 } }
  if src = 0 ∨ d.life.bootSrc = 3 then (nv, d)
  else
    let hard := d.hardAlarm && (!d.sec.locked || !nv.erased)
    let nv := { nv with alarmLatch := nv.alarmLatch ||| src, alarms := satAdd 0xFFFF nv.alarms 1 }
    let nv :=
      if !hard then nv
      else if nv.eraseEpoch = 0xFFFFFFFF then { nv with epochDead := true, erased := true }
      else { nv with eraseEpoch := nv.eraseEpoch + 1, erased := true }
    let d := d.zeroize
    let (nonce, d) := d.draw 16
    let d := { d with sec := { d.sec with nonce := nonce } }
    let d := (d.setFault 1 true).raise (irqSec 0)
    if d.recordsAlarm then (nv, d.logAlarm nv src hard) else ({ nv with alarmDue := true }, d)

/-- Both key-store copies have been erased (R222). -/
def Dev.cryptoErased (d : Dev) (nv : Secure) : Dev :=
  if nv.erased ∧ d.sec.locked then { d with keyStore := ⟨none, none⟩ } else d

/-! ## Unlock (R223, R224) -/

/-- The image-signing key that an unlock is verified against: of the applied image, or in recovery of the valid copy
with the higher GEN. -/
def Dev.unlockKey (d : Dev) (nv : Secure) : Option (Nat × Nat) :=
  match d.image with
  | some im => some (im.keyX, im.keyY)
  | none =>
    if d.life.phase ≠ .recovery then none
    else
      let read := fun (c : Option Bytes) => c.bind fun b =>
        match checkImage b b.length false nv.authority false nv.floor with
        | .ok im => some im
        | .error _ => none
      match read d.copyA, read d.copyB with
      | some a, some b => if a.gen < b.gen then some (b.keyX, b.keyY) else some (a.keyX, a.keyY)
      | some a, none => some (a.keyX, a.keyY)
      | none, some b => some (b.keyX, b.keyY)
      | none, none => none

/-- Whether SEC_UNLOCK_SIG verifies (R223). -/
def Dev.unlockOk (d : Dev) (nv : Secure) : Bool :=
  let m := label 0x444B5531 ++ be 8 nv.serial ++ padTo 16 d.sec.nonce ++ be 4 nv.alarms
  let word := fun (k : Nat) => (d.sec.sig.getD k 0).toNat
  let r := (List.range 8).foldl (fun a k => a * 2 ^ 32 + word k) 0
  let s := (List.range 8).foldl (fun a k => a * 2 ^ 32 + word (8 + k)) 0
  match d.unlockKey nv with
  | some q => nv.authority.isSome && !nv.epochDead && ecdsaVerify q (sha256 m) r s
  | none => false

/-- A failed unlock: cause 0 signature, 1 source active, 2 blocked (R223). -/
def Dev.unlockFail (d : Dev) (nv : Secure) (cause : Nat) : Secure × Dev :=
  let (nonce, d) := d.draw 16
  let d := { d with sec := { d.sec with nonce := nonce, blocked := true } }
  ({ nv with unlockFails := satAdd 0xFFFF nv.unlockFails 1 }, (d.raise (irqSec 1)).log evSecUnlockFail (be 1 cause))

/-- SEC_UNLOCK_CTL.GO over SPI (R223, R224). -/
def Dev.unlock (d : Dev) (nv : Secure) : Secure × Dev :=
  if !d.sec.locked then (nv, d)
  else if d.sec.blocked then d.unlockFail nv 2
  else if d.sec.sources ≠ 0 then d.unlockFail nv 1
  else if !d.unlockOk nv then d.unlockFail nv 0
  else
    let nv := { nv with alarmLatch := 0 }
    let d := { d with sec := { d.sec with locked := false, ksk := some nv.kskOf } }
    let d := ((d.deriveHse nv).unwrapStore nv false false).setFault 1 false
    (nv, (d.raise (irqSec 1)).log evSecUnlocked (be 4 nv.alarms ++ be 1 (b2n nv.erased)))

/-- 1 s after a failed unlock attempts are accepted again (R223). -/
def Dev.unlockBlockEnd (d : Dev) : Dev := { d with sec := { d.sec with blocked := false } }

/-! ## Time (R230, R231) -/

/-- Change the time. -/
def Dev.modTime (d : Dev) (f : DevTime → DevTime) : Dev := { d with sec := { d.sec with time := f d.sec.time } }

/-- The time state changes (R231). -/
def Dev.timeState (d : Dev) (s : TimeState) : Dev :=
  if d.sec.time.state = s then d
  else (d.modTime fun t => { t with state := s }).raise (irqSec 5)

/-- SEC_TOD_NEXT_HI is written: the time is armed (R230). -/
def Dev.todArm (d : Dev) (w : Nat) : Dev :=
  let d := d.setRegN 0x6009C w
  d.modTime fun t => { t with armed := true, armedAt := d.regN 0x6009C * 2 ^ 32 + d.regN 0x60098 }

/-- An armed edge has set the time; the state follows the table of R231. -/
def Dev.timeSync (d : Dev) (off : Int) : Dev :=
  if d.sec.time.srcLost then d
  else
    match d.sec.time.state with
    | .free => d.timeState .synced
    | .synced => d
    | _ => (d.timeState .synced).log evTimeSynced (signedBe 8 off)

/-- The rate after an armed edge that marks time `at_`: that of the time between it and the last one (R230). How the rate
follows the edges is not given: DESIGN CHOICE (log entry 76). -/
def DevTime.disciplined (t : DevTime) (cycle at_ : Nat) : DevTime :=
  let rate := match t.edge with
    | some (c, w) => if c < cycle ∧ w < at_ then (at_ - w) * 10 ^ 12 / (cycle - c) else t.rate
    | none => t.rate
  { t with rate := rate, edge := some (cycle, at_) }

/-- A rising edge of PPS_IN (R230). -/
def Dev.ppsEdge (d : Dev) : Dev :=
  let t := d.sec.time
  if !t.armed then d.count (secCnt 10)
  else
    let off : Int := (t.armedAt : Int) - (d.now : Int)
    let d :=
      if off.natAbs ≤ 1000000 then
        d.modTime fun t =>
          { t with armed := false, slew := (t.armedAt * 1000000 : Nat) - (t.fs : Int) }.disciplined d.cycles t.armedAt
      else
        let d := d.modTime fun t =>
          { t with armed := false, slew := 0, fs := t.armedAt * 1000000, frac := 0, edge := some (d.cycles, t.armedAt)
                   stepped := t.stepped || decide (off < 0) }
        (d.count (secCnt 9)).log evTimeStep (signedBe 8 off)
    d.timeSync off

/-- SYNCED time enters HOLDOVER: cause 0 edges missing, 1 SRC_LOST (R231). -/
def Dev.holdover (d : Dev) (cause : Nat) : Dev :=
  if d.sec.time.state = .synced then
    ((d.modTime fun t => { t with holdSince := d.cycles }).timeState .holdover).log evTimeHoldover (be 1 cause)
  else d

/-- SEC_TOD_CTL: a HOLD_LIMIT out of range is discarded; SRC_LOST takes effect (R231, R236). -/
def Dev.todCtl (d : Dev) (w : Nat) : Dev :=
  let limit := bits w 16 0
  let d := if 10 ≤ limit ∧ limit ≤ 86400 then d.setRegF 0x600A0 16 0 limit else d
  let d := (d.setRegF 0x600A0 31 31 (bits w 31 31)).modTime fun t => { t with srcLost := bit w 31 }
  if bit w 31 then d.holdover 1 else d

/-- Holdover reaches HOLD_LIMIT (R231). -/
def Dev.untrust (d : Dev) : Dev :=
  if d.sec.time.state = .holdover then (d.timeState .untrusted).log evTimeUntrusted (be 4 (d.regF 0x600A0 16 0)) else d

/-- Seconds in HOLDOVER or UNTRUSTED since the last sync (R236). -/
def Dev.holdSeconds (d : Dev) : Nat :=
  match d.sec.time.state with
  | .holdover => min 0xFFFFFFFF ((d.cycles - d.sec.time.holdSince) / cyclesPerSecond)
  | .untrusted => min 0xFFFFFFFF ((d.cycles - d.sec.time.holdSince) / cyclesPerSecond)
  | _ => 0

/-- One core cycle of the time: at the device's rate, changed by at most 0.1 % while an offset is slewed (R230). -/
def DevTime.cycle (t : DevTime) : DevTime :=
  let s : Int := max (-800) (min 800 t.slew)
  let sum := t.frac + t.rate
  { t with fs := ((t.fs : Int) + (sum / 1000000 : Nat) + s).toNat, frac := sum % 1000000, slew := t.slew - s }

/-- PPS_OUT rises at each whole second of device time and falls 100 ms later (R230). -/
def Dev.ppsOut (d : Dev) (high : Bool) : Dev := { d with pins := { d.pins with ppsOut := high } }

/-! ## Public items (R217, R236) -/

/-- The bytes of a SEC_PUB item; zero while the key it needs is not held. -/
def Dev.pubItem (d : Dev) (item : Nat) : Bytes :=
  let pub := fun (k : Nat) => let q := p256Public k; be 32 q.1 ++ be 32 q.2
  match item, d.sec.ik, d.sec.lk with
  | 0, some ik, _ => pub ik
  | 1, _, some lk => pub lk
  | 2, some ik, some lk =>
    let m := label 0x444B4C31 ++ be 8 d.ident.serial ++ pub lk
    let (r, s) := ecdsaSign ik (sha256 m) ((Config.openValue 2 0).toNat + 1)
    be 32 r ++ be 32 s
  | _, _, _ => zeros 64

end Sys2Proof.Machine
end

