-- ==== Sys2Proof/Machine/PwrOps.lean ====
section
/-! DEFINITION. Power domains and clocks (R355 to R373). -/

set_option cleanup.letToHave false

namespace Sys2Proof.Machine

/-! ## Domains -/

/-- The code of a domain state (R356). -/
def DomState.code : DomState → Nat
  | .on => 0
  | .gated => 1
  | .retain => 2
  | .off => 3

/-- The state of a code. -/
def domStateOf (n : Nat) : DomState :=
  match n % 4 with
  | 0 => .on
  | 1 => .gated
  | 2 => .retain
  | _ => .off

/-- A domain in a state with nothing running. -/
def Domain.at_ (s : DomState) : Domain := { state := s, running := none, drained := false, prev := s, held := none }

/-- Domain `n`. -/
def Dev.dom (d : Dev) (n : Nat) : Domain := d.power.doms.getD n (Domain.at_ .on)

/-- Change domain `n`. -/
def Dev.modDom (d : Dev) (n : Nat) (f : Domain → Domain) : Dev :=
  if n < 67 then { d with power := { d.power with doms := setAt (Domain.at_ .on) d.power.doms n (f (d.dom n)) } } else d

/-! ## Refusals (R362) -/

/-- Whether any port, or one with MACsec enabled, is in UP or RFAULT. -/
def Dev.linkedPort (d : Dev) (secOnly : Bool) : Bool :=
  (List.range 4).any fun n => (d.port n).link.linked && (!secOnly || d.macsecOn n)

/-- Whether a domain is an AE lane of the MACsec mask (R24). -/
def Dev.macsecLane (d : Dev) (n : Nat) : Bool := 37 ≤ n && n ≤ 44 && bit (d.regF 0x50000 23 16) (n - 37)

/-- Whether the request comes in band, and the port of its session. -/
def Dev.reqPort (d : Dev) (i : Iface) : Option Nat :=
  match i with
  | .inBand s => (d.session s).map (·.key.port)
  | _ => none

/-- Whether a request comes in band. -/
def Iface.isInBand (i : Iface) : Bool :=
  match i with
  | .inBand _ => true
  | _ => false

/-- The CODE that refuses a request for a domain to leave ON or to stay off (R362), the lowest that applies. -/
def Dev.domRefusal (d : Dev) (n : Nat) (target : DomState) (i : Iface) : Option Nat :=
  let leaves := target != .on
  let mem := (57 ≤ n && n ≤ 60) || (53 ≤ n && n ≤ 56)
  let channels := ((List.range 16).filter fun c => c != n && d.domOn c).length
  if leaves && n < 16 && channels < 4 then some 2
  else if (target == .off && (n == 58 || n == 60)) || (leaves && mem &&
      (d.linkedPort false || 0 < d.stagedBytes || i.isInBand)) then some 3
  else if leaves && i.isInBand && (n == 20 || n == 45 || (match d.reqPort i with
      | some p => n == 16 + p || (d.macsecOn p && d.macsecLane n)
      | none => false)) then some 4
  else if leaves && d.macsecLane n && d.linkedPort true then some 5
  else if leaves && n == 64 && 0 < d.fmm.floor then some 6
  else if d.life.flush == .powerFail || d.life.flush == .shutdown || d.life.phase == .halt then some 7
  else none

/-! ## Sequences (R358 to R361) -/

/-- What happens in the core cycle in which a domain leaves ON (R355, R357, R363). -/
def Dev.domLeaves (d : Dev) (n : Nat) (target : DomState) : Dev :=
  if 16 ≤ n ∧ n ≤ 19 then d.portDown (n - 16) 4 true
  else if n = 20 then (List.range 4).foldl (fun (d : Dev) p => if (d.port p).link = .down then d else d.portDown p 4 true) d
  else if 21 ≤ n ∧ n ≤ 44 then d.assign
  else if (53 ≤ n ∧ n ≤ 56) ∨ n = 63 then { d with idx := { d.idx with state := .off, run := none } }
  else if n = 61 ∨ n = 62 then
    if target = .gated then { d with life := { d.life with coresDown := true } } else d.coresDown
  else if n = 65 then d.rodOff
  else d

/-- A request begins its sequence in a domain where none runs. -/
def Dev.domBegin (d : Dev) (n : Nat) (r : DomReq) : Dev :=
  let was := (d.dom n).state
  let d := d.modDom n fun x => { x with running := some r, drained := was != .on, prev := was }
  let d := match r.ctx with
    | some ctx => d.modFlight ctx fun f => { f with job := .power was.code }
    | none => d
  if was = .on then d.domLeaves n r.target else d

/-- The outcome of a request through PWR_REQ (R361, R372). -/
def Dev.pwrResult (d : Dev) (n code prev state : Nat) : Dev :=
  { d with power := { d.power with resultDomain := n, resultCode := code, resultPrev := prev, resultState := state } }

/-- A request ends with OK. -/
def Dev.domAnswer (d : Dev) (n : Nat) (r : DomReq) (prev : DomState) : Dev :=
  match r.ctx with
  | some ctx => d.finishOk ctx 0 (be 1 prev.code ++ zeros 3) []
  | none => (d.pwrResult n 0 prev.code r.target.code).raise (irqPwr 0)

/-- A held request is replaced by a later one (R359). -/
def Dev.domReplaced (d : Dev) (n : Nat) (r : DomReq) : Dev :=
  match r.ctx with
  | some ctx => d.finish ctx stBusy 0 5
  | none => (d.pwrResult n 8 (d.dom n).state.code (d.dom n).state.code).raise (irqPwr 0)

/-- A request takes its course: it is held while a sequence runs, answered where the domain already holds the state, and
begun otherwise (R359, R361). -/
def Dev.domCourse (d : Dev) (n : Nat) (r : DomReq) : Dev :=
  let x := d.dom n
  if x.running.isSome then
    let d := match x.held with
      | some old => d.domReplaced n old
      | none => d
    (d.modDom n fun x => { x with held := some r }).count (pwrCnt 2)
  else if x.state = r.target then d.domAnswer n r x.state
  else d.domBegin n r

/-- Write PWR_REFUSED, and report the refusal (R362). -/
def Dev.domRefused (d : Dev) (n state code : Nat) : Dev :=
  ((d.raise (irqPwr 1)).count (pwrCnt 1)).log evPwrRefused (be 1 n ++ be 1 state ++ be 1 code)

/-- POWER_SET (R358 to R362). -/
def Dev.runPowerSet (d : Dev) (ctx : Nat) : Dev :=
  match d.fresh ctx 0x58 with
  | none => d
  | some f =>
    let (n, state) := (num f.cmd.param 0 1, num f.cmd.param 1 1)
    let iface := Iface.inBand f.cmd.session
    if 66 < n ∨ 3 < state then d.finish ctx stMalformed 0 2
    else
      match d.domRefusal n (domStateOf state) iface with
      | some code => (d.domRefused n state code).finish ctx stNotAuthorised 0 0
      | none =>
        (d.modFlight ctx fun f => { f with job := .power (d.dom n).state.code }).domCourse n
          ⟨domStateOf state, some ctx, iface⟩

/-- PWR_REQ: its fields are written, and GO makes the request (R361, R362). -/
def Dev.pwrReq (d : Dev) (w : Nat) (i : Iface) : Dev :=
  let d := d.setRegN 0x1000 (w &&& 0x007F0003)
  let (n, state) := (bits w 22 16, bits w 1 0)
  if !bit w 31 then d
  else
    let now := (d.dom n).state.code
    if 66 < n then (d.domRefused n state 1).pwrResult n 1 0 0
    else
      match d.domRefusal n (domStateOf state) i with
      | some code => (d.domRefused n state code).pwrResult n code now now
      | none => d.domCourse n ⟨domStateOf state, none, i⟩

/-- Whether an engine of a domain still holds a segment. -/
def Dev.domBusy (d : Dev) (n : Nat) : Bool :=
  (21 ≤ n && n ≤ 28 && d.vpl.cz.has (n - 21)) || (29 ≤ n && n ≤ 36 && d.vpl.dz.has (n - 29)) ||
    (37 ≤ n && n ≤ 44 && d.vpl.ae.has (n - 37))

/-- The work inside a domain that is leaving ON has completed (R358). While PWR_FAIL_N is recognised no sequence moves on
(R360). -/
def Dev.domDrained (d : Dev) (n : Nat) : Dev :=
  if (d.dom n).running.isNone ∨ d.domBusy n ∨ d.life.flush ≠ .none then d
  else d.modDom n fun x => { x with drained := true }

/-- What a domain loses in OFF (R355). The spec states of a DRAM channel's share only what is rebuilt (R180, R357); responses that
await acknowledgement and segments at work are kept: DESIGN CHOICE (log entry 86). -/
def Dev.domLoses (d : Dev) (n : Nat) : Dev :=
  if 16 ≤ n ∧ n ≤ 19 then
    let p := n - 16
    (d.modPort p fun x => { x with counters := [] }) |> fun d =>
      { d with sec := { d.sec with sas := d.sec.sas.keep fun i _ => i / 32 != p, scis := d.sec.scis.keep fun i _ => i / 4 != p } }
  else if n = 20 then
    (List.range 4).foldl (fun (d : Dev) l => { d with regs := d.regs.del (0x18010 + 0x10 * l) }) d
  else if n = 66 then { d with sec := { d.sec with ik := none, lk := none } }
  else d

/-- Whether every domain of the index is ON. -/
def Dev.idxPowered (d : Dev) : Bool := ([53, 54, 55, 56, 63] : List Nat).all d.domOn

/-- What a domain's return to ON begins (R180, R217, R355, R357, R362). `from_` is the state it left. -/
def Dev.domWakes (d : Dev) (nv : Secure) (n : Nat) (from_ : DomState) : Dev :=
  if 21 ≤ n ∧ n ≤ 44 then d.assign
  else if (53 ≤ n ∧ n ≤ 56) ∨ n = 63 then
    if d.idxPowered ∧ d.idx.state = .off then d.idxBegin .rebuild n else d
  else if (n = 57 ∨ n = 59) ∧ from_ = .off then
    let d := d.freeSessions
    if n = 57 then ({ d with rx := [] }).freeCells d.cellsHeld else d
  else if (n = 61 ∨ n = 62) ∧ from_ = .gated ∧ d.ccOff.isNone then { d with life := { d.life with coresDown := false } }
  else if n = 64 then d.nextColl
  else if n = 65 then d.rodStart
  else if n = 66 then d.deriveHse nv
  else d

/-- A domain reaches its requested state: the request answers, and a held one begins (R358, R359, R361). -/
def Dev.domDone (d : Dev) (nv : Secure) (n : Nat) : Dev :=
  let x := d.dom n
  match x.running with
  | none => d
  | some r =>
    if !x.drained ∨ d.life.flush ≠ .none then d
    else
      let d := (d.modDom n fun x => { x with state := r.target, running := none, drained := false, held := none }).count (pwrCnt 0)
      let d := d.log evPwrSet (be 1 n ++ be 1 x.prev.code ++ be 1 r.target.code ++ be 1 r.iface.code)
      let d := if r.target = .off then d.domLoses n else if r.target = .on then d.domWakes nv n x.prev else d
      let d := d.domAnswer n r x.prev
      match x.held with
      | some h => d.domCourse n h
      | none => d

/-- PWR_FAIL_N is recognised: a domain that was draining stays ON and its request is dropped; the others stand where they
are (R360). -/
def Dev.domFreeze (d : Dev) : Dev :=
  { d with power := { d.power with doms := d.power.doms.map fun (x : Domain) =>
      if x.running.isSome ∧ !x.drained then { x with running := none, held := none } else { x with held := none } } }

/-- An ordered shutdown or a reset discards held requests (R371). -/
def Dev.domAllOff (d : Dev) : Dev :=
  { d with power := { d.power with doms := List.replicate 67 (Domain.at_ .off) } }

/-- The word of PWR_STATEk (R372). -/
def Dev.pwrState (d : Dev) (k : Nat) : Nat :=
  ((List.range 8).map fun i =>
    let n := 8 * k + i
    if 66 < n then 0
    else
      let x := d.dom n
      (8 * b2n x.running.isSome + 4 * b2n x.held.isSome + x.state.code) * 16 ^ i).sum

/-! ## Clocks (R365 to R368, R373) -/

/-- A clock or PLL is lost: CLK_STATUS's bit number (R368, R373). SYSCLK is bit 0; its loss is an alarm besides, which the
caller raises. -/
def Dev.clkLost (d : Dev) (c : Nat) : Dev :=
  if 6 < c ∨ !bit d.clocks.status c then d
  else
    let d := { d with clocks := ⟨putBits d.clocks.status c c 0, d.clocks.lostAt.put c d.cycles⟩ }
    let d := d.raise (irqClk c)
    match c with
    | 0 => d
    | 1 => (d.log evClkPllFatal (be 1 c)).orderedShutdown 7 2 0
    | 2 => (d.log evClkPllFatal (be 1 c)).orderedShutdown 7 2 0
    | 3 => d
    | 4 =>
      let d := (List.range 4).foldl (fun (d : Dev) p => if (d.port p).link = .down then d else d.portDown p 0 true) d
      d.log evClkLost (be 1 c)
    | 5 => d.rodClkLost
    | _ => d.log evClkLost (be 1 c)

/-- A lost clock returns or a PLL locks again (R368). -/
def Dev.clkBack (d : Dev) (c : Nat) : Dev :=
  if 6 < c ∨ bit d.clocks.status c then d
  else
    let since := d.clocks.lostAt.getD c d.cycles
    let d := { d with clocks := ⟨putBits d.clocks.status c c 1, d.clocks.lostAt.del c⟩ }
    let d := if c = 5 then d.modRod fun r => { r with clkOk := true } else d
    if c = 4 ∨ c = 6 then d.log evClkRestored (be 1 c ++ be 4 ((d.cycles - since) / 1250000)) else d

end Sys2Proof.Machine
end

