-- ==== Sys2Proof/Machine/SupOps.lean ====
section
/-! DEFINITION. Supervision: trigger inputs, rails, temperature, a stuck PWR_FAIL_N, and the activity balls (R374 to R382,
R400). -/

set_option cleanup.letToHave false

namespace Sys2Proof.Machine

/-! ## Trigger inputs (R277, R374, R375) -/

/-- The band of a state as SUP_TRIGn_STATUS codes it, from the lowest voltage up: SHORT_GND, ACTIVE, IDLE, OPEN,
SHORT_SUPPLY. -/
def bandOf (state : Nat) : Nat :=
  match state with
  | 1 => 2
  | 2 => 1
  | s => s

/-- The state of a band. -/
def stateOf (band : Nat) : Nat := bandOf band

/-- The lower boundary of bands 1 to 4, in mV. -/
def bandFrom (band : Nat) : Nat :=
  match band with
  | 1 => 150
  | 2 => 600
  | 3 => 1200
  | _ => 1650

/-- The band of a reading, once the present band is `cur`: it changes only past a boundary by 20 mV (R374). -/
def classify (cur mv : Nat) : Nat :=
  let up := (([4, 3, 2, 1] : List Nat).find? fun b => bandFrom b + 20 ≤ mv).getD 0
  let down := (([1, 2, 3, 4] : List Nat).find? fun b => mv + 20 ≤ bandFrom b).map (· - 1)
  if cur < up then up
  else match down with
    | some b => if b < cur then b else cur
    | none => cur

/-- A trigger input as a start finds it. -/
def Trigger.fresh : Trigger :=
  { level := 0, state := 1, activeFor := 0, activeAt := (0, 0), idleFor := 0, fired := false, fault := false, faultSince := 0 }

/-- Input `t`. -/
def Dev.trigger (d : Dev) (t : Nat) : Trigger := d.sup.triggers.getD t Trigger.fresh

/-- Change input `t`. -/
def Dev.modTrig (d : Dev) (t : Nat) (f : Trigger → Trigger) : Dev :=
  if t < 4 then { d with sup := { d.sup with triggers := setAt Trigger.fresh d.sup.triggers t (f (d.trigger t)) } } else d

/-- Whether an input is enabled, and its debounce in samples (R385). -/
def Dev.trigOn (d : Dev) (t : Nat) : Bool := d.regF (0x3010 + 0x10 * t) 31 31 == 1
def Dev.debounce (d : Dev) (t : Nat) : Nat := d.regF (0x3010 + 0x10 * t) 13 0

/-- A sample of an input of `mv` millivolts (R374). An input that has fired may fire again once it has read IDLE for its
debounce (R277). -/
def Dev.trigSample (d : Dev) (t mv : Nat) : Dev :=
  let now := (d.now, d.tq)
  let n := d.debounce t
  d.modTrig t fun x =>
    let state := stateOf (classify (bandOf x.state) mv)
    let active := state == 2
    let idleFor := if state = 1 then x.idleFor + 1 else 0
    { x with level := min 0xFFF mv, state := state, activeFor := if active then x.activeFor + 1 else 0
             activeAt := if active && x.activeFor == 0 then now else x.activeAt, idleFor := idleFor
             fired := x.fired && idleFor < n }

/-- A firing where it finds the device: handled at once in service; held during a start; kept with the window table
before event 7 of a flush, and in the non-volatile store after it (R59, R277). -/
def Dev.fireAt (d : Dev) (nv : Secure) (t at_ tq : Nat) : Secure × Dev :=
  if d.life.flush = .powerFail ∧ 7 ≤ d.life.flushStep ∨ d.life.phase = .halt then
    ({ nv with lateTriggers := nv.lateTriggers ++ [(t, at_, tq)] }, d)
  else if d.life.phase = .run ∨ d.life.phase = .ports then (nv, d.firing t at_ tq)
  else (nv, { d with cap := { d.cap with firings := d.cap.firings ++ [(t, at_, tq)] } })

/-- An enabled input has read ACTIVE for its debounce (R277, R375). -/
def Dev.trigFire (d : Dev) (nv : Secure) (t : Nat) : Secure × Dev :=
  let x := d.trigger t
  if d.trigOn t ∧ x.state = 2 ∧ !x.fired ∧ d.debounce t ≤ x.activeFor ∧ t < 4 then
    (d.modTrig t fun x => { x with fired := true }).fireAt nv t x.activeAt.1 x.activeAt.2
  else (nv, d)

/-- A fault state of an enabled input has held for 10 ms (R375). -/
def Dev.trigFault (d : Dev) (t : Nat) : Dev :=
  let x := d.trigger t
  if d.trigOn t ∧ !x.fault ∧ (x.state = 0 ∨ x.state = 3 ∨ x.state = 4) ∧ t < 4 then
    let d := (d.modTrig t fun x => { x with fault := true, faultSince := d.cycles }).raise (irqSup 0)
    (d.count (supCnt 0)).log evTrigFault (be 1 t ++ be 1 x.state ++ be 4 x.level)
  else d

/-- A faulted input has read IDLE for 100 ms (R375). -/
def Dev.trigClear (d : Dev) (t : Nat) : Dev :=
  let x := d.trigger t
  if x.fault ∧ x.state = 1 then
    let d := d.modTrig t fun x => { x with fault := false }
    if d.trigOn t then d.log evTrigClear (be 1 t ++ be 4 ((d.cycles - x.faultSince) / cyclesPerSecond)) else d
  else d

/-! ## Rails (R376, R377) -/

/-- A rail has been beyond a threshold for 10 µs. -/
def Dev.railTrip (d : Dev) (rail : Nat) (beyond : Bool) : Dev :=
  if 8 < rail then d
  else
    let d := { d with sup :=
      if beyond then { d.sup with ov := putBits d.sup.ov rail rail 1 } else { d.sup with uv := putBits d.sup.uv rail rail 1 } }
    d.orderedShutdown 5 0 rail

/-! ## Temperature (R262, R378, R379) -/

/-- A thermal site as a start finds it. -/
def Site.fresh : Site := { sampled := false, now := 0, peak := -128, failed := false, hot := 0 }

/-- Site `i`. -/
def Dev.site (d : Dev) (i : Nat) : Site := d.sup.sites.getD i Site.fresh

/-- Change site `i`. -/
def Dev.modSite (d : Dev) (i : Nat) (f : Site → Site) : Dev :=
  if i < 12 then { d with sup := { d.sup with sites := setAt Site.fresh d.sup.sites i (f (d.site i)) } } else d

/-- A site has failed: cause 0 silent, 1 out of range (R379). -/
def Dev.siteFailed (d : Dev) (i cause : Nat) : Dev :=
  if 11 < i ∨ (d.site i).failed then d
  else
    let d := (d.modSite i fun s => { s with failed := true, hot := 0 }).raise (irqSup 2)
    let d := (d.count (supCnt 2)).log evSiteFail (be 1 i ++ be 1 cause)
    if (List.range 4).all fun k => (d.site k).failed then d.orderedShutdown 6 1 0 else d

/-- One site's sample. -/
def Dev.siteSample (d : Dev) (i : Nat) (t : Int) : Dev :=
  if t < -60 ∨ 160 < t then (d.modSite i fun s => { s with sampled := true, now := t }).siteFailed i 1
  else
    d.modSite i fun s =>
      { s with sampled := true, now := t, peak := max s.peak t, failed := false, hot := if i < 4 ∧ 125 < t then s.hot + 1 else 0 }

/-- The NAND sites that hold a suspension: above 100 °C, or failed, which leaves their channels' dies uncovered (R262,
R379). -/
def Dev.hotNand (d : Dev) : Option Nat :=
  ((List.range 8).map (· + 4)).find? fun i => (d.site i).failed || decide (100 < (d.site i).now)

/-- Whether every NAND site lets a suspension end. -/
def Dev.coolNand (d : Dev) : Bool :=
  ((List.range 8).map (· + 4)).all fun i => !(d.site i).failed && decide ((d.site i).now ≤ 95)

/-- Suspend or resume programs and erases (R262). -/
def Dev.suspension (d : Dev) : Dev :=
  match d.fmm.suspended, d.hotNand with
  | false, some i =>
    let d := { d with fmm := { d.fmm with suspended := true, suspendedSince := d.cycles } }
    ((d.raise (irqFmm 5)).health 156 1).log evThermal (be 1 1 ++ be 1 i ++ signedBe 4 (d.site i).now)
  | true, _ =>
    if d.coolNand then
      let d := d.health 160 ((d.cycles - d.fmm.suspendedSince) / cyclesPerSecond)
      let d := { d with fmm := { d.fmm with suspended := false } }
      let i := (((List.range 8).map (· + 4)).find? fun i => (d.site i).now == d.hottestNand).getD 4
      ((d.raise (irqFmm 5)).log evThermal (be 1 0 ++ be 1 i ++ signedBe 4 d.hottestNand)).nextColl
    else d
  | false, none => d

/-- The warning level of a site (R378). -/
def Dev.warnLevel (d : Dev) (i : Nat) : Int := if i < 4 then d.regF 0x3050 7 0 else d.regF 0x3050 23 16

/-- Drive or release THERM_N (R378). -/
def Dev.thermPin (d : Dev) : Dev :=
  let live := (List.range 12).filter fun i => !(d.site i).failed
  if d.pins.thermLow then
    if live.all fun i => (d.site i).now + 5 ≤ d.warnLevel i then { d with pins := { d.pins with thermLow := false } } else d
  else
    match live.find? fun i => d.warnLevel i < (d.site i).now with
    | some i =>
      let d := ({ d with pins := { d.pins with thermLow := true } }.raise (irqSup 1)).count (supCnt 1)
      d.log evThermWarn (be 1 i ++ signedBe 4 (d.site i).now)
    | none => d

/-- The temperature bin of the health page (R267). -/
def tempBin (t : Int) : Nat := if t < -40 then 0 else if 130 ≤ t then 35 else ((t + 45) / 5).toNat

/-- What a millisecond adds to the health page. -/
def Dev.healthMs (d : Dev) : Dev :=
  let t := d.hottestNand
  let live := (d.sup.sites.drop 4).any fun s => !s.failed
  let d := if d.pins.ready then { d with fmm := { d.fmm with upMs := d.fmm.upMs + 1 } } else d
  if !live then d
  else
    let b := tempBin t
    let top := max (1000 + t).toNat (d.fmm.health.getD 166 0)
    { d with fmm := { d.fmm with binMs := d.fmm.binMs.put b (d.fmm.binMs.getD b 0 + 1), health := d.fmm.health.put 166 top } }

/-- The sites are sampled; a site that gives no sample keeps its reading (R378). -/
def Dev.thermalSample (d : Dev) (temps : List (Option Int)) : Dev :=
  let d := (List.range 12).foldl (fun (d : Dev) i =>
    match temps.getD i none with
    | some t => d.siteSample i t
    | none => d) d
  let d := d.healthMs.suspension.thermPin
  match (List.range 4).find? fun i => 3 ≤ (d.site i).hot with
  | some i =>
    if d.life.flush = .shutdown ∧ d.sup.aonHot then d
    else { d with sup := { d.sup with aonHot := true } }.orderedShutdown 6 1 i
  | none => d

/-- Whether a start has to wait for the die to cool after a thermal shutdown (R378). -/
def Dev.tooHot (d : Dev) : Bool := d.sup.aonHot && (List.range 4).any fun i => decide (115 < (d.site i).now)

/-! ## PWR_FAIL_N stuck (R380) -/

/-- The code of a phase (R62). -/
def Phase.code : Phase → Nat
  | .reset => 0
  | .aon => 1
  | .rom => 2
  | .fw => 3
  | .mem => 4
  | .media => 5
  | .image => 6
  | .index => 7
  | .metadata => 8
  | .ports => 9
  | .run => 10
  | .recovery => 12
  | .test => 13
  | .waitImage => 14
  | .halt => 15

/-- PWR_FAIL_N has been low for 5 s with every rail good (R380). -/
def Dev.pfStuckNow (d : Dev) : Dev :=
  let waits := (d.life.phase == .aon && d.life.pfWait) || (d.life.phase == .halt && d.life.flush == .powerFail)
  if waits ∧ d.pins.pfLow ∧ d.sup.uv = 0 ∧ d.sup.ov = 0 ∧ !d.sup.pfStuck then
    let d := ({ d with sup := { d.sup with pfStuck := true } }.raise (irqSup 3)).setFault 2 true
    d.log evPfStuck (be 1 d.life.phase.code)
  else d

/-- PWR_FAIL_N is high again: it is not stuck (R380). -/
def Dev.pfHigh (d : Dev) : Dev :=
  ({ d with sup := { d.sup with pfStuck := false }, pins := { d.pins with pfLow := false } }).setFault 2 false

/-! ## Activity balls (R400) -/

/-- 50 ms have passed since the last frame or program: ACT0 or ACT1 is released. -/
def Dev.actTimeout (d : Dev) (n : Nat) : Dev :=
  if n = 0 then { d with pins := { d.pins with act0 := false } } else { d with pins := { d.pins with act1 := false } }

end Sys2Proof.Machine
end

