-- ==== Sys2Proof/Machine/ImgOps.lean ====
section
/-! DEFINITION. The Aeduc image: the image window, checking, applying and storing (R30, R31, R33 to R42). -/

set_option cleanup.letToHave false

namespace Sys2Proof.Machine

/-! ## The window (R37 to R39) -/

/-- Note an access by an interface that does not own the window (R37, R38). -/
def Dev.imgConflict (d : Dev) : Dev := d.setReg 0x410C (d.reg 0x410C ||| (1#32 <<< 9))

/-- APPLY or STORE has completed (R39). -/
def Dev.imgDone (d : Dev) : Dev :=
  ({ d with imgWin := d.imgWin.free }).setReg 0x410C (d.reg 0x410C ||| (1#32 <<< 10))

/-- Whether an interface owns the window. -/
def Dev.imgOwns (d : Dev) (i : Iface) : Bool := d.imgWin.owner == some i

/-- Lengths that an image may have (R29, R39). -/
def imgLenOk (len : Nat) : Bool := 256 ≤ len && len ≤ 4194304 && len % 4 == 0

/-- OPEN (R37, R39). -/
def Dev.imgOpen (d : Dev) (i : Iface) : Dev :=
  let len := d.regF 0x4104 22 0
  if d.imgWin.state ≠ .home then (if d.imgOwns i then d else d.imgConflict)
  else if !imgLenOk len then d.imgFail 0 1 1
  else
    { d with imgWin := { d.imgWin with
        state := .recv, owner := some i, bytes := [], rcvd := 0, len := len, overrun := false
        errSection := 0, errStage := 0, errCode := 0 } }

/-- Whether an OPEN in band completes with BUSY: the window is owned by another (R37). -/
def Dev.imgOpenBusy (d : Dev) (i : Iface) : Bool := d.imgWin.state != .home && !d.imgOwns i

/-- A write of MGMT_IMG_DATA (R39). -/
def Dev.imgData (d : Dev) (w : Nat) (i : Iface) : Dev :=
  let x := d.imgWin
  if !d.imgOwns i then d.imgConflict
  else if x.state ≠ .recv then d
  else if x.rcvd < x.len then { d with imgWin := { x with bytes := x.bytes ++ be 4 w, rcvd := x.rcvd + 4 } }
  else { d with imgWin := { x with overrun := true } }

/-- MGMT_IMG_CTL's RW fields. -/
def Dev.imgTarget (d : Dev) : Nat := d.regF 0x4100 7 6
def Dev.imgEnrol (d : Dev) : Bool := d.regF 0x4100 5 5 == 1
def Dev.imgPersist (d : Dev) : Bool := d.regF 0x4100 4 4 == 1

/-- Stages 1 to 7 begin: task 0 for APPLY, 1 for STORE into copy A or B. -/
def Dev.imgCheck (d : Dev) (task : Nat) (a : Bool) : Dev :=
  let spi := d.imgOwns .spi
  { d with imgWin := { d.imgWin with
      state := .check, task := task, copyA := a, enrol := spi && d.imgEnrol, persist := spi && d.imgPersist } }

/-- APPLY (R39). In a recovery start, which applies no image, it is refused as while one is applied (R44): DEDUCED (log
entry 77). -/
def Dev.imgApply (d : Dev) (i : Iface) : Dev :=
  let x := d.imgWin
  if !d.imgOwns i then d.imgConflict
  else if x.state ≠ .recv then d
  else if x.rcvd < x.len then d.imgFail 0 1 1
  else if d.image.isSome ∨ d.life.bootSrc = 2 then d.imgFail 0 0 0x0F
  else d.imgCheck 0 false

/-- STORE (R39, R40). -/
def Dev.imgStore (d : Dev) (i : Iface) : Dev :=
  let x := d.imgWin
  let t := d.imgTarget
  if !d.imgOwns i then d.imgConflict
  else if x.state ≠ .recv then d
  else if x.rcvd < x.len then d.imgFail 0 1 1
  else if t = 3 ∨ (t ≠ 0 ∧ (i ≠ .spi ∨ x.copyApplied.isSome)) then d.imgFail 0 0 0x0F
  else d.imgCheck 1 (if t = 0 then x.inactiveA else t == 1)

/-- ABORT (R38, R39). -/
def Dev.imgAbort (d : Dev) (i : Iface) : Dev :=
  if i ≠ .spi ∧ !d.imgOwns i then d.imgConflict
  else if d.imgWin.state = .recv then d.imgFail 0 0 0x0E
  else d

/-- A write of MGMT_IMG_CTL: the RW fields over SPI, then the actions from bit 0 up (R37). -/
def Dev.imgCtl (d : Dev) (w : Nat) (i : Iface) : Dev :=
  let d := if i = .spi then d.setRegF 0x4100 7 4 (bits w 7 4) else d
  let d := if bit w 0 then d.imgOpen i else d
  let d := if bit w 1 then d.imgApply i else d
  let d := if bit w 2 then d.imgStore i else d
  if bit w 3 then d.imgAbort i else d

/-! ## Checking (R33, R35) -/

/-- Stage 7: the Chain data stored and the directory's entries fit the image (R35). -/
def Dev.stateCheck (d : Dev) (im : Image) : Option ImgErr :=
  let drops := fun (p : Nat × MatEntry) =>
    let bank := p.1 % 2 ^ 17 / 4096
    p.1 / 2 ^ 17 == im.league.rodPos && im.widths.getD bank 0 != d.lge.dirWidths.getD bank 0
  if im.chainMib * 1048576 < 64 * d.chainUsed then some { stage := 7, code := 0x0D, section_ := 4 }
  else if d.lge.dir.any drops then some { stage := 7, code := 0x0D, section_ := 5 }
  else none

/-- All seven stages. -/
def Dev.checkAll (d : Dev) (nv : Secure) (b : Bytes) (rcvd : Nat) (overrun enrol : Bool) : Except ImgErr Image :=
  match checkImage b rcvd overrun nv.authority enrol nv.floor with
  | .error e => .error e
  | .ok im =>
    match d.stateCheck im with
    | some e => .error e
    | none => .ok im

/-- The check of a flash copy. An empty copy fails stage 1. -/
def Dev.checkCopy (d : Dev) (nv : Secure) (b : Option Bytes) : Except ImgErr Image :=
  let b := b.getD []
  d.checkAll nv b b.length false false

/-! ## Applying (R23, R30, R31, R35, R36) -/

/-- The port registers that mirror PORT (R82, R83). -/
def Dev.applyPorts (d : Dev) (p : PortSection) : Dev :=
  let one := fun (d : Dev) (n : Nat) =>
    match p.ports[n]? with
    | none => d
    | some c =>
      let d := (d.setRegF (epReg n 0) 27 16 c.vlan).setRegF (epReg n 0) 13 0 p.maxLen
      let d := (d.setRegF (epReg n 0xC) 8 8 c.pauseEn).setRegF (epReg n 0xC) 7 0 c.pfcEn
      (d.setRegN (epReg n 0x2C) (c.mac / 2 ^ 32)).setRegN (epReg n 0x30) (c.mac % 2 ^ 32)
  let d := (List.range 4).foldl one d
  let d := (d.setRegF (epReg 0 4) 16 16 p.txMode).setRegF (epReg 0 4) 13 0 p.ctStart
  let d := d.modPort 0 fun x => { x with ctCur := p.ctStart }
  let d := (d.setRegF 0x18000 9 2 p.laneMap).setRegF 0x18000 1 0 p.mode
  d.setRegF 0x20000 31 16 p.dktPort

/-- The registers that mirror PART, and the values that the arbiter starts with (R108, R134). -/
def Dev.applyPart (d : Dev) (p : PartSection) : Dev :=
  let d := (d.setRegF 0x20000 12 0 p.sessions).setRegF 0x20004 6 0 p.adminSess
  let d := (List.range 8).foldl (fun (d : Dev) q => d.setRegF (0x30010 + 4 * q) 12 0 (p.depths.getD q 1)) d
  let d := (List.range 4).foldl (fun (d : Dev) q => d.setRegF 0x30000 (8 * q + 7) (8 * q) (p.weights.getD q 1)) d
  let d := (d.setRegF 0x30004 31 16 p.mRate).setRegF 0x30004 6 0 p.urgentPct
  { d with cqe := { d.cqe with weights := p.weights, urgentPct := p.urgentPct, mRate := p.mRate } }

/-- Banks whose width changes lose their entries (R293). -/
def Dev.setWidths (d : Dev) (widths : List Nat) : Dev :=
  let same := fun (a : Nat) (_ : MatEntry) => d.mat.width (a / 4096) == widths.getD (a / 4096) 0
  { d with mat := { d.mat with widths := widths, entries := d.mat.entries.keep same } }

/-- MATI: the widths, and the initial entries (R293, R300). -/
def Dev.applyMati (d : Dev) (im : Image) : Dev :=
  let d := d.setWidths im.widths
  let d := im.mati.foldl (fun (d : Dev) e =>
    d.entryPut (d.mat.addr e.bank e.index) ⟨e.value, e.mask, e.result⟩) d
  { d with lge := { d.lge with dirWidths := im.widths } }

/-- The registers that mirror LANE, EVJP, LGUE, POLI, SECP, RSRV and TRIG. -/
def Dev.applyRegs (d : Dev) (im : Image) : Dev :=
  let d := (d.setRegF 0x50000 23 16 im.aeMacsec).setRegF 0x50000 15 8 im.czFurlong
  let d := (d.setRegF 0x50000 7 0 im.czOther).setRegF 0xA0000 6 4 im.persistSev
  let d := (d.setRegF 0xA0000 0 0 im.fullPolicy).setRegF 0x70000 1 0 im.ingest
  let l := im.league
  let d := (d.setRegF 0x90200 15 14 l.role).setRegF 0x90200 13 13 l.mode
  let d := (d.setRegF 0x90200 5 0 l.memberId).setRegF 0x90000 5 4 l.rodPos
  let d := d.setRegF 0x90000 7 6 (if l.role = 3 then 0 else l.role)
  let p := im.poli
  let d := (d.setRegN 0xB0020 (p.gcA * 65536 + p.gcB)).setRegN 0xB0024 (p.wearSpread * 65536 + p.gcC)
  let d := (d.setRegN 0xB0028 p.aRef).setRegN 0xB002C p.patrolDays
  let d := (d.setRegF 0x60000 4 4 im.hardAlarm).setRegN 0x600B0 im.pnThresh
  (List.range 4).foldl (fun (d : Dev) t =>
    match im.trig[t]? with
    | none => d
    | some x =>
      let d := (d.setRegF (0x3010 + 0x10 * t) 31 31 x.enable).setRegF (0x3010 + 0x10 * t) 13 0 x.debounce
      (d.setRegF (0x3014 + 0x10 * t) 25 16 x.before).setRegF (0x3014 + 0x10 * t) 6 0 x.after) d

/-- NSTB: an existing namespace is kept, a free ID is created while a creation version can be drawn (R35). -/
def Dev.applyNs (d : Dev) (e : NsEntry) : Dev :=
  if d.nss.has e.nsId then d.log evImgNsConflict (be 2 e.nsId)
  else
    match d.newNamespace e with
    | (none, d) => d.log evImgNsSkipped (be 2 e.nsId)
    | (some n, d) => { d with nss := d.nss.put e.nsId n }

/-- PWRI: every domain takes its initial state (R34, R355). -/
def Dev.applyPower (d : Dev) (states : List Nat) : Dev :=
  let d := { d with power := { d.power with doms := (List.range 67).map fun n => Domain.at_ (domStateOf (states.getD n 0)) } }
  (List.range 67).foldl (fun (d : Dev) n => if (d.dom n).state = .off then d.domLoses n else d) d

/-- Apply an image: every section at once, the floor, the record (R31, R36, R42). Source 0 copy A, 1 copy B, 2 SPI. -/
def Dev.applyImage (d : Dev) (nv : Secure) (im : Image) (src : Nat) : Secure × Dev :=
  let nv := { nv with floor := max nv.floor im.floor }
  let d := (((d.applyPorts im.port).applyPart im.part).applyMati im).applyRegs im
  let d := im.nstb.foldl Dev.applyNs d
  let d := d.applyPower im.pwri
  let d := { d with image := some im, imgWin := { d.imgWin with src := src } }
  (nv, (d.setFault 0 false).log evImgApplied (be 4 im.gen ++ be 1 src))

/-- Enrol the authority that signed a passing image while none is fused; SEC draws the index hash key (R30, R161). -/
def Dev.enrol (d : Dev) (nv : Secure) (b : Bytes) : Secure × Dev :=
  if nv.authority.isSome then (nv, d)
  else
    let h := sha256 (slice b (b.length - 132) 64)
    let (key, d) := match nv.indexKey with
      | some k => (k, d)
      | none => d.draw 16
    ({ nv with authority := some h, indexKey := some key },
      { d with ident := { d.ident with indexKey := key } }.log evImgEnrolled (h.take 8))

/-! ## The ends of checks and copy writes (R33, R39, R42) -/

/-- An image that fails its checks: FAIL; one received over SPI while none is applied is a fault (R42), but not in recovery,
where FAULT_N stays released (R44). -/
def Dev.imgRejected (d : Dev) (e : ImgErr) : Dev :=
  let spi := d.imgOwns .spi
  let d := d.imgFail e.section_ e.stage e.code
  if spi ∧ d.image.isNone ∧ d.life.bootSrc ≠ 2 then
    let x := d.imgWin
    (d.setFault 0 true).log evImgNone (be 1 x.copyErrA.1 ++ be 1 x.copyErrA.2 ++ be 1 x.copyErrB.1 ++ be 1 x.copyErrB.2)
  else d

/-- The staged checks end (R33, R39): the image is applied, its copy write begins, or FAIL is set. A start that waited goes
on with phase INDEX. -/
def Dev.imgChecked (d : Dev) (nv : Secure) : Secure × Dev :=
  let x := d.imgWin
  if x.state ≠ .check then (nv, d)
  else
    match d.checkAll nv x.bytes x.rcvd x.overrun x.enrol with
    | .error e => (nv, d.imgRejected e)
    | .ok im =>
      let (nv, d) := d.enrol nv x.bytes
      if x.task = 1 then (nv, { d with imgWin := { d.imgWin with state := .store, checked := some im } })
      else
        let (nv, d) := d.applyImage nv im 2
        let d := if x.persist then { d with copyA := some x.bytes, copyB := some x.bytes } else d
        let d := d.imgDone
        if d.life.phase = .waitImage then
          (nv, { d with life := { d.life with phase := .index }, idx := { d.idx with state := .loading, began := d.cycles } })
        else (nv, d)

/-- The copy has been written and read back (R39). -/
def Dev.imgStored (d : Dev) : Dev :=
  let x := d.imgWin
  match x.state, x.checked with
  | .store, some im =>
    let d := if x.copyA then { d with copyA := some x.bytes } else { d with copyB := some x.bytes }
    (d.log evImgStored (be 4 im.gen ++ be 1 (b2n (!x.copyA)))).imgDone
  | _, _ => d

/-- A reset or PWR_FAIL_N meets the window: received bytes are discarded, and a copy write stops where it stands, a free
number of bytes written into the erased copy (R39). -/
def Dev.imgStop (d : Dev) : Dev :=
  let x := d.imgWin
  let d :=
    if x.state = .store then
      let (r, d) := d.draw 4
      let n := beVal r % max 1 x.bytes.length
      let torn := some (x.bytes.take n ++ List.replicate (x.bytes.length - n) 0xFF)
      if x.copyA then { d with copyA := torn } else { d with copyB := torn }
    else d
  { d with imgWin := d.imgWin.free }

/-! ## Phase IMAGE of a start (R40 to R42) -/

/-- Report the copy that failed beside an applied one (R41). -/
def Dev.copyBad (d : Dev) (b : Bytes) (copy gen : Nat) (e : ImgErr) : Dev :=
  let g := num b 16 4
  let d := { d with imgWin := { d.imgWin with errSection := e.section_, errStage := e.stage, errCode := e.code } }
  if 3 < e.stage ∧ gen < g then
    { d with imgWin := { d.imgWin with fallback := true } }.log evImgFallback
      (be 4 g ++ be 1 e.stage ++ be 1 e.code ++ be 2 e.section_)
  else d.log evImgCopyBad (be 1 copy ++ be 1 e.stage ++ be 1 e.code)

/-- STAGE and CODE of a check, 0 where it passed. -/
def errPair : Except ImgErr Image → Nat × Nat
  | .error e => (e.stage, e.code)
  | .ok _ => (0, 0)

/-- Check both copies and fix the inactive one for a start that applies none of them (R40). -/
def Dev.weighCopies (d : Dev) (nv : Secure) : Dev :=
  let (ra, rb) := (d.checkCopy nv d.copyA, d.checkCopy nv d.copyB)
  let inactiveA : Bool := match ra, rb with
    | .ok a, .ok b => a.gen < b.gen
    | .error _, _ => true
    | .ok _, .error _ => false
  { d with imgWin := { d.imgWin with
      copyErrA := errPair ra, copyErrB := errPair rb, copyApplied := none, inactiveA := inactiveA } }

/-- Apply a copy; `other` is what the other copy failed with (R41). -/
def Dev.applyCopy (d : Dev) (nv : Secure) (im : Image) (a : Bool) (other : Option ImgErr) : Secure × Dev :=
  let mine := if a then d.copyA else d.copyB
  let d := match other with
    | some e => d.copyBad ((if a then d.copyB else d.copyA).getD []) (b2n a) im.gen e
    | none => d
  let d := match other with
    | some _ => if a then { d with copyB := mine } else { d with copyA := mine }
    | none => d
  let d := { d with imgWin := { d.imgWin with copyApplied := some a, inactiveA := !a } }
  d.applyImage nv im (b2n (!a))

/-- The start from the flash copies (R41, R42). Answers whether one was applied. -/
def Dev.imagePhase (d : Dev) (nv : Secure) : Secure × Dev × Bool :=
  let (ra, rb) := (d.checkCopy nv d.copyA, d.checkCopy nv d.copyB)
  let d := d.weighCopies nv
  match ra, rb with
  | .ok x, .ok y =>
    let r := if y.gen ≤ x.gen then d.applyCopy nv x true none else d.applyCopy nv y false none
    (r.1, r.2, true)
  | .ok x, .error e => let r := d.applyCopy nv x true (some e); (r.1, r.2, true)
  | .error e, .ok y => let r := d.applyCopy nv y false (some e); (r.1, r.2, true)
  | .error e, .error f =>
    let d := { d with imgWin := { d.imgWin with errSection := e.section_, errStage := e.stage, errCode := e.code } }
    (nv, (d.setFault 0 true).log evImgNone (be 1 e.stage ++ be 1 e.code ++ be 1 f.stage ++ be 1 f.code), false)

end Sys2Proof.Machine
end

