-- ==== Sys2Proof/Machine/StartOps.lean ====
section
/-! DEFINITION. Starts, the ends of resets, and the power-fail flush (R43 to R60, R402). -/

set_option cleanup.letToHave false

namespace Sys2Proof.Machine

/-! ## A device that nothing has run on -/

/-- SEC's non-volatile store of a device whose owner has not enrolled. What manufacture fuses is not given: DESIGN
CHOICE (log entry 12). -/
def Secure.blank : Secure :=
  { serial := 0, rootKey := zeros 32, fwAuthority := [], authority := none, floor := 0, indexKey := none, svnFloor := 0,
    slotGen := [], txGen := [], eraseMarks := [], alarmLatch := 0, alarms := 0, eraseEpoch := 0, erased := false,
    epochDead := false, unlockFails := 0, savedTime := 0, lateTriggers := [], alarmDue := false }

/-- SEC's volatile state as a start finds it; the time resumes from the saved one in FREE (R231). -/
def Sec.fresh (savedTime : Nat) : Sec :=
  { locked := false, slots := [], ksk := none, ik := none, lk := none, sources := 0, nonce := zeros 16, sig := [],
    blocked := false, kload := [], kloadCount := 0, loads := [], erases := [], sas := [], scis := [], stops := [], msaErr := 0,
    time := { fs := savedTime * 1000000, rate := nominalRate, frac := 0, edge := none, slew := 0, state := .free,
              armed := false, armedAt := 0, srcLost := false, holdSince := 0, stepped := false } }

/-- The command engine with nothing in it; the arbiter starts at queue 1. -/
def Engine.fresh (weights : List Nat) (urgentPct mRate arrivals : Nat) : Engine :=
  { queued := [], flights := [], arrivals := arrivals, uCost := 0, allCost := 0, lastU := 0, lastAll := 0,
    deficits := [0, 0, 0, 0], served := 3, sessNext := List.replicate 8 0, mgmt := [], weights := weights,
    urgentPct := urgentPct, mRate := mRate, paused := false, slotsLow := 65536, ctxEmptySince := none,
    ctxWaited := false, dispatched := 0 }

/-- The image window as a start finds it. -/
def ImgWindow.fresh : ImgWindow :=
  { state := .home, owner := none, bytes := [], rcvd := 0, len := 0, overrun := false, enrol := false, persist := false,
    task := 0, target := 0, copyA := false, errSection := 0, errStage := 0, errCode := 0, inactiveA := false,
    copyApplied := none, fallback := false, src := 0, checked := none, copyErrA := (0, 0), copyErrB := (0, 0) }

/-- State of the start as a reset leaves it. -/
def Life.fresh : Life :=
  { powered := true, phase := .reset, bootSrc := 0, pfWait := false, flush := .none, flushStep := 0, overtime := false,
    glitches := 0, edges := 0, retries := 0, stagedBytes := 0, putsDropped := 0, pfStatus := 0, started := false,
    startMs := 0, startCycle := 0, flushCycle := 0, unclean := false, holdup := false, replayMs := 0, discarded := 0, fwCopied := false,
    coresDown := false, datapathDown := false, resetHeld := false, faults := 0 }

/-- The Rod bus in OFF. -/
def Rod.fresh : Rod :=
  { state := .off, alive := false, full := false, clkOk := true, deputies := 0, ringOk := false, ringCode := 0,
    results := [], waiting := [], flights := [], found := [], lostRow := 0, words := [], wordOut := none, tokenOut := 0, disc := none }

/-- The match array with no entry, every bank of 80 bits (R309). -/
def Mat.fresh : Mat :=
  { widths := List.replicate 32 0, entries := [], scrub := 0, fixTimes := [], entErr := 0, entValid := false,
    srchHit := false, srchMulti := false, srchResult := 0, srchAddr := 0 }

/-- The League engine with no directory stored. -/
def League.fresh : League :=
  { members := [], head := .none, targets := [], calls := [], queued := [], asked := [], neighbours := [], nextTag := 0, dirGen := 0, dir := [],
    dirStored := false, dirWidths := List.replicate 32 0, headGen := 0, busy := false, err := 0, fenceTime := 0,
    tickets := [], lostRules := [], relayed := [] }

/-- An empty commit page. -/
def CommitPage.fresh : CommitPage := { gen := 0, origin := 0, used := 0, keys := [], purge := none }

/-- The index before any key. -/
def Index.fresh : Index :=
  { state := .off, slots := [], asOf := [], dirty := [], used := 0, keys := [], nextPos := 0, deltas := [], pages := [],
    committed := CommitPage.fresh, run := none, heldSince := none, sweep := none, removals := [], keysFull := false,
    began := 0, cause := 0 }

/-- The write counter and its engines; its first value is 1 (R198). -/
def Vpl.fresh : Vpl :=
  { cz := [], dz := [], ae := [], salts := [], wctr := 1, reserved := 0, warned := 0, exhausted := false }

/-- Flash that has never been written: every Bushel as R252 leaves it. The power-fail area holds a marker, so that the
first start is clean: DESIGN CHOICE (log entry 13). -/
def Fmm.fresh : Fmm :=
  { bushels := [], heads := List.replicate 12 ⟨none, 0, 0, none⟩, values := [], dead := [], moving := [], fillers := [], deltaBlocks := [],
    staged := [], blocks := [], spareUsed := [], lostDies := [], colls := [], floor := 0, exhausted := false,
    suspended := false, suspendedSince := 0, fold := none, openSeq := 0, patrol := (0, 0), sweepMarks := 0, health := [],
    binMs := [], upMs := 0, pf := some ⟨[], true, 0, []⟩, freed := 0, waits := [] }

/-- Furlong, Fathom and Chain state before any record; the secure counter starts at 1. -/
def Capture.fresh : Capture :=
  { streams := [], streamsKept := [], extents := [], windows := [], windowsKept := [], windowDirty := false, noRefill := [],
    ledgers := [], sctr := 1, sctrReserved := 0, chainFull := false, chainLow := false, missed := 0, firings := [] }

/-- Firmware slots with nothing in them. -/
def Fw.fresh : Fw :=
  { running := .none, runImage := none, active := .bad, activeImage := none, staging := .empty, stagedImage := none,
    stage := none, act := none, wdogTimes := [], kicked := [], loadOpen := false, loadBytes := [], loadCode := 0, heldAct := none }

/-- The journal before any record. -/
def Journal.fresh : Journal :=
  { fifo := [], ring := [], store := [], nextSeq := 0, reserved := 0, lost := 0, lostSev := 0, lostTime := 0,
    fullLatch := false, stopLatch := false, ended := false, rdHit := false, rdData := zeros 32,
    badSlots := [] }

/-- Supervision before any sample. -/
def Supervision.fresh : Supervision :=
  { triggers := List.replicate 4 Trigger.fresh, uv := 0, ov := 0, sites := List.replicate 12 Site.fresh, pfStuck := false,
    pfIgnored := false, aonHot := false }

/-- A device that nothing has run on, its rails risen and RESET_N low (R51). Clocks are present: DESIGN CHOICE (log
entry 13). -/
def Dev.blank : Dev :=
  { cycles := 0, free := 0
    pins := { resetLow := true, pfLow := false, straps := 0, ready := false, faultLow := false, ppsOut := false,
              act0 := false, act1 := false, thermLow := false }
    life := Life.fresh, regs := [], latches := [], readData := 0, rates := [], imgWin := ImgWindow.fresh, image := none, copyA := none
    copyB := none, sec := Sec.fresh 0, evj := Journal.fresh
    power := { doms := List.replicate 67 (Domain.at_ .on), resultDomain := 0, resultCode := 0, resultPrev := 0,
               resultState := 0, accAddr := 0 }
    sup := Supervision.fresh, clocks := { status := 0x7F, lostAt := [] }, spi := none, spiErrs := (0, 0, 0)
    ports := List.replicate 4 Port.fresh, lanes := List.replicate 4 Lane.fresh, poolLow := 65536, belowXoff := false
    rx := [], rxNext := 0, cellsHeld := 0, sess := [], epochs := [], cqe := Engine.fresh [1, 1, 1, 1] 25 1000 0
    mat := Mat.fresh, rod := Rod.fresh, lge := League.fresh, ident := ⟨0, zeros 16⟩
    keyStore := ⟨some (0, []), some (0, [])⟩, nss := [], idx := Index.fresh, vpl := Vpl.fresh, fmm := Fmm.fresh
    cap := Capture.fresh, fw := Fw.fresh }

/-! ## What a reload keeps (R50, R51) -/

/-- The policy of a namespace returns to that of its creation (R36, R149). -/
def Namespace.restart (n : Namespace) : Namespace :=
  { n with comp := n.entry.comp, depth := n.entry.depth, noGain := n.entry.noGain, cls := n.entry.cls }

/-- The index over a reload: checkpoints, delta log and purge list are on flash; the sweep of a namespace that is still in
DELETING resumes from the cursor of the last commit page (R174, R181). -/
def Index.restart (x : Index) (deleting : Nat → Bool) : Index :=
  let resumed := (x.committed.purge.filter fun p => deleting p.1).map fun p => (⟨p.1, p.2, 0⟩ : Sweep)
  { Index.fresh with
    pages := x.pages, committed := x.committed, deltas := x.deltas, nextPos := x.nextPos, removals := x.removals
    sweep := resumed }

/-- The media over a reload: MB1 is empty, and what runs begins afresh (R50, R51). -/
def Fmm.restart (x : Fmm) : Fmm := { x with staged := [], fold := none, freed := 0, waits := [] }

/-- Firmware over a reload: a slot found in WRITING is EMPTY (R345). -/
def Fw.restart (x : Fw) : Fw :=
  let s := if x.staging = .writing then FwStaging.empty else x.staging
  { Fw.fresh with
    active := x.active, activeImage := x.activeImage, staging := s
    stagedImage := if s = .staged then x.stagedImage else none }

/-- The journal over a reload: the store stands, and SEQ resumes above the highest reservation (R336). -/
def Journal.restart (x : Journal) : Journal :=
  { Journal.fresh with store := x.store, nextSeq := if x.ended then x.nextSeq else x.reserved, reserved := x.reserved, ended := x.ended }

/-- The League over a reload: the stored directory and what the fences have raised stand (R319, R320, R323). -/
def League.restart (x : League) : League :=
  { League.fresh with
    dirGen := x.dirGen, dir := x.dir, dirStored := x.dirStored, dirWidths := x.dirWidths, fenceTime := x.fenceTime }

/-- A reset that reloads the image: what stands in flash, in SEC's store and in AON is kept, everything else returns to
its reset value, and the counters resume at the next block (R50, R51). The device is in phase RESET. -/
def Dev.reload (d : Dev) (nv : Secure) : Dev :=
  let d := d.imgStop
  let latched := nv.alarmLatch != 0
  { Dev.blank with
    cycles := d.cycles, free := d.free
    pins := { d.pins with ready := false, faultLow := d.sup.pfStuck || latched, ppsOut := false, act0 := false, act1 := false }
    life := { Life.fresh with
      powered := d.life.powered, bootSrc := d.life.bootSrc, startCycle := d.life.startCycle
      faults := 4 * b2n d.sup.pfStuck + 2 * b2n latched }
    regs := setRegIn [] 0x44 (d.reg 0x44)
    copyA := d.copyA, copyB := d.copyB, sec := { Sec.fresh nv.savedTime with locked := latched }, evj := d.evj.restart
    sup := { Supervision.fresh with uv := d.sup.uv, ov := d.sup.ov, sites := d.sup.sites, pfStuck := d.sup.pfStuck, aonHot := d.sup.aonHot }
    clocks := d.clocks, lge := d.lge.restart, keyStore := d.keyStore
    nss := d.nss.mapAll fun _ n => n.restart
    idx := d.idx.restart fun n => (d.nss.find n).any fun x => x.state == .deleting
    vpl := { Vpl.fresh with salts := d.vpl.salts, wctr := max 1 d.vpl.reserved, reserved := d.vpl.reserved, warned := d.vpl.warned }
    fmm := d.fmm.restart
    cap := { d.cap with
      windows := [], windowDirty := false, sctr := max 1 d.cap.sctrReserved, chainFull := false, missed := 0, firings := [] }
    fw := d.fw.restart }

/-! ## Beginning a start (R43, R46, R402) -/

/-- The straps are sampled, and the start begins with phase AON; its time counts from the rise of RESET_N (R62). -/
def Dev.startAon (d : Dev) : Dev :=
  { d with life := { d.life with phase := .aon, bootSrc := d.pins.straps, pfWait := false } }

/-- A start whose release is internal: its time counts from here (R43, R60). -/
def Dev.startNow (d : Dev) : Dev := { d with life := { d.life with startCycle := d.cycles } }.startAon

/-- Whether a rail is outside its thresholds (R376). -/
def Dev.railsOut (d : Dev) : Bool := d.sup.uv != 0 || d.sup.ov != 0

/-- Leave phase RESET once RESET_N is high and every rail is in range (R46, R402). -/
def Dev.leaveReset (d : Dev) : Dev :=
  if d.life.powered ∧ d.life.phase = .reset ∧ !d.pins.resetLow ∧ !d.railsOut then d.startAon else d

/-- The rails rise with RESET_N low (R51). -/
def Dev.powerOn (d : Dev) : Dev :=
  if d.life.powered then d
  else
    { d with
      life := { d.life with powered := true, faults := 2 * b2n d.sec.locked }
      pins := { d.pins with resetLow := true, faultLow := d.sec.locked } }

/-- RESET_N rises: the straps are sampled (R43). `uv` and `ov` are the rails outside their thresholds; while any is, the
device waits in phase RESET (R402). -/
def Dev.resetRise (d : Dev) (straps uv ov : Nat) : Dev :=
  if !d.life.powered ∨ !d.pins.resetLow then d
  else
    ({ d with
      pins := { d.pins with resetLow := false, straps := straps % 4 }
      life := { d.life with bootSrc := straps % 4, startCycle := d.cycles }
      sup := { d.sup with uv := uv % 512, ov := ov % 512 } }).leaveReset

/-- Every rail has been inside its thresholds for 1 ms (R402): the start begins at event 2. -/
def Dev.railsInRange (d : Dev) : Dev := ({ d with sup := { d.sup with uv := 0, ov := 0 } }).leaveReset

/-! ## Resets through the pin and the ends of flushes (R51, R53, R59) -/

/-- The device enters reset; the start begins where RESET_N is high. -/
def Dev.enterReset (d : Dev) (nv : Secure) : Dev := (d.reload nv).leaveReset

/-- RESET_N has been low for 1 µs (R51, R59). -/
def Dev.pinReset (d : Dev) (nv : Secure) : Dev :=
  if !d.life.powered then d
  else
    let d := (({ d with pins := { d.pins with resetLow := true } }).cause 2).logReset 1 2
    match d.life.phase, d.life.flush with
    | .reset, _ => d
    | .halt, _ => d.reload nv
    | _, .none => d.quiesce .pin
    | _, .device => { d with life := { d.life with flush := .pin } }
    | _, .pin => d
    | _, _ => { d with life := { d.life with resetHeld := true } }

/-- How long the flush has run, in µs. -/
def Dev.flushUs (d : Dev) : Nat := (d.cycles - d.life.flushCycle) / 1250

/-- What CHIP_PF_STATUS shows of the flush, but for GLITCHES (R62). -/
def Dev.flushStatus (d : Dev) (complete : Bool) : Nat :=
  2 ^ 31 + 2 ^ 30 * b2n complete + 2 ^ 29 * b2n d.life.overtime + 2 ^ 24 * min 16 (ceilDiv d.life.stagedBytes 1048576) +
    min 0xFFFF d.flushUs

/-- Whether a flush runs and has not ended. -/
def Dev.flushing (d : Dev) : Bool := d.life.flush != .none && d.life.phase != .halt

/-- The staging is in the power-fail area. -/
def Dev.flushStaging (d : Dev) : Dev :=
  if d.metaDone then { d with fmm := { d.fmm with pf := d.fmm.pf.map fun p => { p with staged := d.fmm.staged } } } else d

/-- The delta tail, window table, Furlong tails and Chain heads are in the power-fail area (R56, event 7). -/
def Dev.flushMeta (d : Dev) : Dev :=
  if d.metaDone then
    { d with
      idx := { d.idx with deltas := d.idx.deltas.map fun (r : Delta) => { r with kept := true } }
      cap := { d.cap with windowsKept := d.cap.windows, streamsKept := d.cap.streams, windowDirty := false } }
  else d

/-- The shutdown marker follows. -/
def Dev.flushMarker (d : Dev) : Dev :=
  let status := d.flushStatus true
  if d.metaDone then
    { d with
      fmm := { d.fmm with pf := d.fmm.pf.map fun p => { p with marker := true, status := status } }
      life := { d.life with pfStatus := status } }
  else d

/-- The device is in HALT (R51, R56). -/
def Dev.enterHalt (d : Dev) : Dev :=
  ({ d with life := { d.life with phase := .halt }, pins := { d.pins with ready := false } }).raise irqStart

/-- The quiesce and flush of a reset or an ordered shutdown reaches its marker (R51). -/
def Dev.shutdownDone (d : Dev) (nv : Secure) : Secure × Dev :=
  if !d.flushing ∨ d.life.flush = .powerFail then (nv, d)
  else
    let kind := d.life.flush
    let nv := nv.markErases d
    let d := { d with life := { d.life with stagedBytes := d.stagedBytes } }
    let d := (if d.mediaUp then d.flushStaging.flushMeta.flushJournal else d).flushMarker
    match kind with
    | .shutdown =>
      let d := (d.enterHalt.setFault 3 true).domAllOff
      (nv, if d.life.resetHeld then d.enterReset nv else d)
    | .device => (nv, (d.reload nv).startNow)
    | _ => (nv, d.enterReset nv)

/-! ## The power-fail flush (R55, R56, R59) -/

/-- A pulse of PWR_FAIL_N shorter than 0.5 µs (R55). -/
def Dev.pfGlitch (d : Dev) : Dev :=
  if !d.life.powered ∨ d.life.phase = .reset then d
  else
    let n := satAdd 255 d.life.glitches 1
    ({ d with life := { d.life with glitches := n } }).log evPfGlitch (be 4 n)

/-- A start that PWR_FAIL_N meets before phase META has ended halts (R59). -/
def Dev.startHalted (d : Dev) : Dev :=
  let d := d.imgStop.log evStartHalted (be 1 d.life.phase.code)
  let d := if d.mediaUp then d.flushJournal else d
  ({ d with life := { d.life with flush := .powerFail, flushStep := 0 } }).enterHalt

/-- Whether an undervoltage trip has begun an ordered shutdown in this core cycle. -/
def Dev.tripNow (d : Dev) : Bool := d.life.flush == .shutdown && d.life.flushCycle == d.cycles && d.sup.uv != 0

/-- A fall of PWR_FAIL_N is recognised (R47, R55, R56, R59, R381): the ports go to DOWN under R66 where another flush runs,
and at event 3 of this one, which runs too where an undervoltage trip came in the same core cycle (R384). A rise and a fall during the flush count as one edge ignored: DESIGN CHOICE (log entry 77). -/
def Dev.pwrFail (d : Dev) : Dev :=
  if !d.life.powered ∨ d.sup.pfIgnored then d
  else
    let d := { d with pins := { d.pins with pfLow := true } }
    if d.life.phase = .reset ∨ d.life.phase = .aon then d
    else if d.life.phase = .halt then (if d.life.flush = .powerFail then { d with life := { d.life with edges := d.life.edges + 1 } } else d)
    else if d.life.flush = .powerFail then { d with life := { d.life with edges := d.life.edges + 1 } }
    else
      let d := (d.cause 1).rodOff
      if d.life.flush ≠ .none ∧ !d.tripNow then (List.range 4).foldl (fun (d : Dev) n => d.portDown n 5 false) d
      else if !d.metaDone then d.startHalted
      else
        let d := if d.life.started then d else d.log evStartHalted (be 1 d.life.phase.code)
        let d := d.readyLow.pfBegin.imgStop.domFreeze
        { d with life := { d.life with
            flush := .powerFail, flushStep := 2, flushCycle := d.cycles, edges := 0, retries := 0, overtime := false
            putsDropped := 0, stagedBytes := 0 } }

/-- Whether the power-fail flush has reached a step and no further one. -/
def Dev.atStep (d : Dev) (n : Nat) : Bool := d.life.flush == .powerFail && d.life.phase != .halt && d.life.flushStep == n

/-- The flush reaches a step. -/
def Dev.toStep (d : Dev) (n : Nat) : Dev := { d with life := { d.life with flushStep := n } }

/-- Admission stops: no frame is received or transmitted any more (R56, event 3; R66, R75). -/
def Dev.flushAdmission (d : Dev) : Dev :=
  if d.atStep 2 then ((List.range 4).foldl (fun (d : Dev) n => d.portDown n 5 false) d).toStep 3 else d

/-- Whether a dispatched command is a write whose staging is not complete. -/
def Dev.unstaged (d : Dev) (f : Flight) : Bool :=
  match f.job with
  | .write w => w.phase == .building && (w.through || !w.complete f.cmd || d.idxOff.isSome)
  | .fresh => stages f.cmd.op
  | .placing => stages f.cmd.op
  | _ => false

/-- The Bushels with a group that is due to be programmed: its program is under way (R57, R247). -/
def Dev.programming (d : Dev) : List Nat := (d.fmm.bushels.filter fun p => d.groupReady p.1).map fun p => p.1

/-- The staging cut-off (R53, R56, event 4): completed puts are staged, every other is dropped, nothing is answered, and
programs under way are aborted. -/
def Dev.flushCutoff (d : Dev) : Dev :=
  if !d.atStep 3 then d
  else
    let dropped := (d.cqe.flights.filter fun p => d.unstaged p.2).length
    let aborted := d.programming
    let d := { d with fmm := { d.fmm with pf := d.fmm.pf.map fun (p : PfArea) => { p with aborted := aborted } } }
    let d := { d with cqe := { d.cqe with flights := d.cqe.flights.mapAll fun _ f => { f with dead := true }, queued := [] } }
    let d := d.cqe.flights.foldl (fun (d : Dev) p => d.abortFlight p.1) d
    let d := { d with
      cqe := { d.cqe with flights := [], queued := [] }, vpl := { d.vpl with cz := [], dz := [], ae := [] }
      fmm := { d.fmm with fold := none } }
    ({ d with life := { d.life with putsDropped := dropped, stagedBytes := d.stagedBytes } }).toStep 4

/-- The dies are ready, and the header of the power-fail area is programmed (R56, event 5). -/
def Dev.flushDies (d : Dev) : Dev := if d.atStep 4 then d.toStep 5 else d

/-- The staging has been written, with `retries` program failures met on the way (R56, event 6; R59). -/
def Dev.flushWritten (d : Dev) (retries : Nat) : Dev :=
  if d.atStep 5 then { (d.flushStaging.toStep 6) with life := { (d.toStep 6).life with retries := retries } } else d

/-- The metadata has been written (R56, event 7). -/
def Dev.flushMetadata (d : Dev) (nv : Secure) : Secure × Dev :=
  if d.atStep 6 then (nv.markErases d, d.flushMeta.toStep 7) else (nv, d)

/-- The journal and the PWR_FAIL record have been written (R56, event 8). -/
def Dev.flushRecords (d : Dev) : Dev :=
  if !d.atStep 7 then d
  else
    let l := d.life
    (d.log evPwrFail (be 4 d.flushUs ++ be 4 l.stagedBytes ++ be 4 l.putsDropped ++ be 4 l.edges ++ be 4 l.retries)).flushJournal.toStep 8

/-- The marker has been programmed and read back, with the records that came after event 8 (R59): the flush ends in HALT,
or in the reset that RESET_N asked for (R56). -/
def Dev.flushComplete (d : Dev) (nv : Secure) : Dev :=
  if !d.atStep 8 then d
  else
    let d := (d.flushJournal.flushMarker.toStep 9).enterHalt
    if d.life.resetHeld then d.enterReset nv else d

/-- The flush has run for 12 ms (R59). -/
def Dev.flushLong (d : Dev) : Dev :=
  if d.life.flush = .powerFail ∧ d.life.phase ≠ .halt ∧ !d.life.overtime then
    ({ d with life := { d.life with overtime := true } }).log evPfOvertime (be 4 d.flushUs)
  else d

/-- What the power-fail area holds of a staging write that is cut short after `k` items: whole commands only (R49, R56). -/
def leadingRun (l : List Staged) (k : Nat) : List Staged :=
  let cut := l.drop k
  (l.take k).filter fun (s : Staged) => s.arrival == 0 || !(cut.any fun (c : Staged) => c.session == s.session && c.arrival == s.arrival)

/-- The rails leave specification (R59): a flush is cut short, `k` staged items written where its staging was being
written, and everything volatile is gone. AON's causes restart with POR, and PWRFAIL where PWR_FAIL_N had warned. -/
def Dev.railsLost (d : Dev) (nv : Secure) (k : Nat) : Dev :=
  if !d.life.powered then d
  else
    let warned := d.life.flush = .powerFail
    let d :=
      if !d.flushing ∨ !d.metaDone then d
      else
        let run := if d.life.flush = .powerFail ∧ d.life.flushStep < 5 then []
          else if d.life.flushStep = 5 ∨ d.life.flush ≠ .powerFail then leadingRun d.fmm.staged k
          else d.fmm.staged
        { d with fmm := { d.fmm with pf := some ⟨run, false, d.flushStatus false, []⟩ } }
    let d := d.reload nv
    let d := { d with
      life := { d.life with powered := false, faults := 0 }
      sup := { Supervision.fresh with uv := 0 }
      pins := { d.pins with resetLow := true, faultLow := false, thermLow := false } }
    d.setRegN 0x44 (1 + 2 * b2n warned)

/-- PWR_FAIL_N has been high for 10 ms in HALT after a flush: a full start (R60). -/
def Dev.haltExit (d : Dev) (nv : Secure) (straps : Nat) : Dev :=
  if d.life.phase = .halt ∧ d.life.flush = .powerFail then
    let d := d.pfHigh
    (({ d with pins := { d.pins with straps := straps % 4 } }).reload nv).startNow
  else d

/-! ## Phases of a start (R46 to R49) -/

/-- Whether a start is in a phase and no flush meets it. -/
def Dev.inPhase (d : Dev) (p : Phase) : Bool := d.life.phase == p && d.life.flush == .none

/-- The start goes on with a phase. -/
def Dev.toPhase (d : Dev) (p : Phase) : Dev := { d with life := { d.life with phase := p } }

/-- Phase AON completes once PWR_FAIL_N is found high and the die is cool enough; once it has been found low only 10 ms of
a high level end the wait (R46, R47, R378, R381). -/
def Dev.aonPhase (d : Dev) (nv : Secure) (pfHigh : Bool) : Dev :=
  if !d.inPhase .aon ∨ d.tooHot ∨ d.life.pfWait then d
  else
    let d := { d with ident := { d.ident with serial := nv.serial } }
    if pfHigh then (d.pfHigh).toPhase .rom
    else if d.sup.pfIgnored then d.toPhase .rom
    else { d with life := { d.life with pfWait := true }, pins := { d.pins with pfLow := true } }

/-- PWR_FAIL_N has been high for 10 ms while the start waited (R47). -/
def Dev.pfWaitDone (d : Dev) : Dev :=
  if d.inPhase .aon ∧ d.life.pfWait then
    let d := d.pfHigh
    if d.tooHot then { d with life := { d.life with pfWait := false } }
    else ({ d with life := { d.life with pfWait := false } }).toPhase .rom
  else d

/-- SUP_PF_CTL lets a start proceed with PWR_FAIL_N ignored (R381). -/
def Dev.pfIgnore (d : Dev) : Dev :=
  let d := { d with sup := { d.sup with pfIgnored := true } }
  if d.inPhase .aon ∧ d.life.pfWait ∧ !d.tooHot then ({ d with life := { d.life with pfWait := false } }).toPhase .rom else d

/-- Phase ROM completes: IDX takes the index hash key that SEC keeps (R161). Under BOOT_SRC 0b11 the device is in
production test (R44). -/
def Dev.romPhase (d : Dev) (nv : Secure) : Dev :=
  if !d.inPhase .rom then d
  else if d.life.bootSrc = 3 then ((d.toPhase .test).setFault 4 true).raise irqStart
  else ({ d with ident := { d.ident with indexKey := nv.indexKey.getD (zeros 16) } }).toPhase .fw

/-- Phase FW completes (R348). -/
def Dev.fwDone (d : Dev) (nv : Secure) (copyOk : Bool) (ms : Nat) : Secure × Dev :=
  if !d.inPhase .fw then (nv, d)
  else
    let (nv, d) := d.fwPhase nv copyOk ms
    (nv, d.toPhase .mem)

/-- Phase MEM completes. -/
def Dev.memPhase (d : Dev) : Dev := if d.inPhase .mem then d.toPhase .media else d

/-! ### Phase MEDIA: clean or unclean (R48, R49, R265) -/

/-- Close the Bushels that were open: each ends at its last committed group, and every head starts in a new one (R265). -/
def Dev.closeTorn (d : Dev) : Dev :=
  let close := fun (_ : Nat) (x : Bushel) =>
    if x.state = .opened ∨ x.state = .parked then { x with state := BState.closed, head := 0xFF, written := x.committed, closeTime := d.now }
    else x
  { d with fmm := { d.fmm with bushels := d.fmm.bushels.mapAll close, heads := Fmm.fresh.heads } }

/-- Where a ledger stands once lost records have gone: CSEQ resumes at the first of them, and an expiry seal that was
lost is due again (R49, R287). -/
def Ledger.torn (l : Ledger) (lives : Nat → Bool) : Ledger :=
  match l.recs.find? fun p => !lives p.2.loc with
  | none => l
  | some (next, _) =>
    let recs := l.recs.keep fun k _ => k < next
    { l with
      recs := recs, next := next, first := min l.first next
      lastHash := ((l.recs.find (next - 1)).map ChainRec.hash).getD (zeros 32)
      sealDue := l.sealDue, expiryDue := l.expiryDue || l.first != l.keptFirst }

/-- The streams and the directory as the records on the media give them (R272, R273). -/
def Dev.restream (d : Dev) (recovered : List Staged) : Dev :=
  let d := { d with cap := { d.cap with extents := [], streams := d.cap.streamsKept } }
  let recs := d.fmm.values.filter fun p => p.2.kind == 3
  let d := recs.foldl (fun (d : Dev) p => d.noteExtent (locBushel p.1) p.2.ns (num p.2.key 0 2) (locGrain p.1) (num p.2.key 2 8)) d
  recovered.foldl (fun (d : Dev) s =>
    match d.fmm.values.find s.loc with
    | some v =>
      if v.kind = 3 then
        { d with cap := { d.cap with
            streams := d.cap.streams.put (streamKey v.ns (num v.key 0 2)) ⟨num v.key 2 8, (num v.key 10 4 + 1) % 2 ^ 32⟩ } }
      else d
    | none => d) d

/-- An unclean start takes what the flash holds and discards what is torn (R49, R265, R272). -/
def Dev.recover (d : Dev) : Dev :=
  let run := (d.fmm.pf.map PfArea.staged).getD []
  let inArea := fun (loc : Nat) => run.any fun s => s.loc == loc && s.grains != 0
  let lives := fun (loc n : Nat) => d.onFlash loc n || inArea loc
  let values := d.fmm.values.keep fun loc v => lives loc v.grains
  let stands := fun (loc : Nat) => values.has loc
  let deltas := d.idx.deltas.filter fun (r : Delta) => (r.kept || inArea r.block) && (!r.set || stands r.entry.loc)
  let top := deltas.foldl (fun m (r : Delta) => max m (r.pos / 128 + 1)) d.idx.committed.origin
  let lost := d.fmm.values.length - values.length
  let d := d.closeTorn
  let d := { d with
    fmm := { d.fmm with
      values := values, staged := run
      fillers := d.fmm.fillers.keep fun loc n => locGrain loc + n ≤ (d.bushel (locBushel loc)).committed
      deltaBlocks := d.fmm.deltaBlocks.keep fun loc _ => lives loc 64 }
    idx := { d.idx with deltas := deltas, nextPos := 128 * top }
    cap := { d.cap with ledgers := d.cap.ledgers.mapAll fun _ l => l.torn stands }
    life := { d.life with unclean := true, holdup := d.fmm.pf.isSome, discarded := lost } }
  d.restream run

/-- SEC at phase MEDIA: erase marks are acted on; where the alarm latch is set SEC is LOCKED, else the keys are derived
and the key store is unwrapped (R215, R217, R218, R221). -/
def Dev.secPhase (d : Dev) (nv : Secure) (badA badB : Bool) : Secure × Dev :=
  let (nv, d) := d.clearMarks nv
  if nv.alarmLatch ≠ 0 then
    let (nonce, d) := d.draw 16
    let d := ({ d with sec := { d.sec with locked := true, nonce := nonce } }).setFault 1 true
    if nv.alarmDue then ({ nv with alarmDue := false }, d.logAlarm nv nv.alarmLatch nv.erased) else (nv, d)
  else
    let d := { d with sec := { d.sec with ksk := some nv.kskOf } }
    (nv, (d.deriveHse nv).unwrapStore nv badA badB)

/-- Phase MEDIA completes (R46, R48). In recovery both copies are checked, and the start goes no further (R40, R44). -/
def Dev.mediaPhase (d : Dev) (nv : Secure) (badA badB : Bool) : Secure × Dev :=
  if !d.inPhase .media then (nv, d)
  else
    let (nv, d) := d.secPhase nv badA badB
    let found := (d.fmm.pf.map PfArea.status).getD 0
    let clean := (d.fmm.pf.map PfArea.marker).getD false
    let d := { d with life := { d.life with pfStatus := found } }
    let d := if clean then d else d.recover
    if d.life.bootSrc = 2 then (nv, ((d.weighCopies nv).toPhase .recovery).raise irqStart) else (nv, d.toPhase .image)

/-! ### Phases IMAGE and INDEX (R41, R42, R177) -/

/-- The start enters phase INDEX. -/
def Dev.toIndex (d : Dev) : Dev :=
  ({ d with idx := { d.idx with state := .loading, began := d.cycles } }).toPhase .index

/-- The device waits for an image over SPI (R42, R62). -/
def Dev.toWait (d : Dev) : Dev := (d.toPhase .waitImage).raise irqStart

/-- Phase IMAGE completes: a flash copy is applied, or the device waits for an image over SPI (R40 to R42, R44). An image
that was applied over SPI before this phase stands, as APPLY acts only once (R39): DEDUCED (log entry 77). -/
def Dev.imageDone (d : Dev) (nv : Secure) : Secure × Dev :=
  if !d.inPhase .image then (nv, d)
  else if d.image.isSome then (nv, (d.weighCopies nv).toIndex)
  else if d.life.bootSrc = 1 then (nv, (d.weighCopies nv).toWait)
  else
    let (nv, d, applied) := d.imagePhase nv
    (nv, if applied then d.toIndex else d.toWait)

/-- Bushels whose grains a replayed record replaced are STALE (R251). -/
def Dev.markStale (d : Dev) : Dev :=
  let olds := (d.idx.deltas.filter fun (r : Delta) => r.oldLoc != 0 && d.idx.committed.origin ≤ r.pos / 128).map fun r => locBushel r.oldLoc
  olds.eraseDups.foldl (fun (d : Dev) b => if (d.bushel b).held then d.modBushel b fun x => { x with flags := x.flags ||| 4 } else d) d

/-- After an unclean start the counts of every other Bushel follow from its items (R251, R265). -/
def Dev.recount (d : Dev) : Dev :=
  d.fmm.bushels.foldl (fun (d : Dev) p =>
    if p.2.held ∧ !bit (d.bushel p.1).flags 2 then d.modBushel p.1 fun x => { x with valid := d.walkValid p.1 } else d) d

/-- Phase INDEX completes: the checkpoint is loaded and the deltas are replayed (R177). -/
def Dev.indexPhase (d : Dev) (pages blocks : MediaReads) : Dev :=
  if !d.inPhase .index then d
  else
    let ms := (d.cycles - d.idx.began) / 1250000
    let d := (d.idxStart pages blocks).markStale
    let d := if d.life.unclean then d.recount else d
    (({ d with life := { d.life with replayMs := ms } }).keysLatch).toPhase .metadata

/-! ### Phase META (R46, R48, R49, R59, R277, R280, R320) -/

/-- The PIN bits are set again from the window table (R280). -/
def Dev.repin (d : Dev) : Dev :=
  let d := { d with
    fmm := { d.fmm with bushels := d.fmm.bushels.mapAll fun _ x => { x with pin := 0 } }
    cap := { d.cap with windows := d.cap.windowsKept } }
  d.cap.windows.foldl (fun (d : Dev) p => d.pinWindow p.1) d

/-- A value that the power-fail area gave back is pointed at, where its delta was lost and nothing later holds its key
(R49). -/
def Dev.pointRecovered (d : Dev) (s : Staged) : Dev :=
  match d.fmm.values.find s.loc with
  | none => d
  | some v =>
    let seg := if v.kind = 2 then some v.segNo else none
    let newer : Bool := match d.slotOf v.ns v.key seg with
      | some (_, _, w) => decide (v.version ≤ w.version)
      | none => false
    if 2 < v.kind ∨ s.grains = 0 ∨ newer = true ∨ d.idx.deltas.any (fun (r : Delta) => r.set && r.entry.loc == s.loc) then d
    else
      match d.point ⟨0, 0xFFFF, 0⟩ v s.loc with
      | .ok d => d
      | .error _ => d

/-- What an unclean start recovered from the power-fail area is placed afresh: the Bushels that it was staged for have
been closed (R49, R265). -/
def Dev.placeRecovered (d : Dev) : Dev :=
  let run := d.fmm.staged
  let d := run.foldl Dev.pointRecovered d
  let olds := (run.map fun s => (locBushel s.loc, s.head)).eraseDups
  let d := olds.foldl (fun (d : Dev) p => (d.replace p.1 p.2 (Dev.openAny p.2 (d.bushel p.1).ns)).replaceBlocks p.1 (d.bushel p.1).committed p.2) d
  let stale := fun (s : Staged) => olds.any fun p => p.1 == locBushel s.loc
  let d := { d with fmm := { d.fmm with staged := d.fmm.staged.filter fun s => !stale s } }
  let d := d.recount
  d.fmm.bushels.foldl (fun (d : Dev) p => d.maybeRelease p.1) d

/-- A Bushel whose program the flush aborted is closed at its last committed group, so that its blocks are erased before
they are programmed again; what was staged for it is placed afresh (R57). -/
def Dev.closeAborted (d : Dev) (b : Nat) : Dev :=
  let x := d.bushel b
  let heads := ((d.fmm.staged.filter fun s => locBushel s.loc == b).map Staged.head).eraseDups
  let d := if x.state = .opened ∨ x.state = .parked then d.closeBushel b else d
  let d := heads.foldl (fun (d : Dev) h => (d.replace b h (Dev.openAny h x.ns)).replaceBlocks b x.committed h) d
  let torn := fun (s : Staged) => locBushel s.loc == b && x.committed < locGrain s.loc + s.grains
  let d := { d with fmm := { d.fmm with staged := d.fmm.staged.filter fun s => !torn s } }
  let d := d.modBushel b fun x => { x with written := min x.written x.committed }
  (d.modBushel b fun x => { x with valid := d.walkValid b }).maybeRelease b

/-- The staging is back in MB1. -/
def Dev.readBack (d : Dev) : Dev :=
  if d.life.unclean then d.placeRecovered
  else
    let area := d.fmm.pf
    let d := { d with fmm := { d.fmm with staged := (area.map PfArea.staged).getD [] } }
    ((area.map PfArea.aborted).getD []).foldl Dev.closeAborted d

/-- A triggers' firing that came after event 7 of the flush (R59). -/
def Dev.lateTrigger (d : Dev) (x : Nat × Nat × Nat) : Dev :=
  (d.log evTrigLate (be 1 x.1 ++ be 8 x.2.1)).firing x.1 x.2.1 x.2.2

/-- The stored directory is written over MATI's rule-bank entries; a head without one stores MATI's as DIR_GEN 1 (R320). -/
def Dev.restoreDir (d : Dev) : Dev :=
  let l := d.league
  let rules := d.mat.entries.keep fun a _ => 4 ≤ a / 4096
  if l.role = 1 ∧ !d.lge.dirStored then { d with lge := { d.lge with dirGen := 1, dir := rules, dirStored := true } }
  else if (l.role = 1 ∨ l.role = 2) ∧ d.lge.dirStored then
    let others := { d with mat := { d.mat with entries := d.mat.entries.keep fun a _ => a / 4096 < 4 } }
    let mine := d.lge.dir.keep fun k _ => k / 2 ^ 17 == l.rodPos
    mine.foldl (fun (d : Dev) p => d.entryPut (p.1 % 2 ^ 17) p.2) others
  else d

/-- Phase META completes: windows, held firings, directory, journal ring and staging stand again, and the power-fail area
is erased. -/
def Dev.metaPhase (d : Dev) (nv : Secure) : Secure × Dev :=
  if !d.inPhase .metadata then (nv, d)
  else
    let d := d.repin.readBack
    let d := nv.lateTriggers.foldl Dev.lateTrigger d
    let d := d.heldFirings.restoreDir
    let d := { d with fmm := { d.fmm with pf := none }, evj := d.evj.rebuild }
    ({ nv with lateTriggers := [] }, (d.startSweep.chainLevel.floors).toPhase .ports)

/-! ### Phases PORTS and RUN -/

/-- Phase PORTS completes: the lanes are enabled and the MACs started. -/
def Dev.portsPhase (d : Dev) : Dev := if d.inPhase .ports then d.rodStart.toPhase .run else d

/-- The start reaches RUN: READY is asserted (R46, R49, R62, R381). -/
def Dev.runPhase (d : Dev) : Dev :=
  if !d.inPhase .run ∨ d.pins.ready ∨ d.life.datapathDown then d
  else
    let ms := min 0xFFFF ((d.cycles - d.life.startCycle) / 1250000)
    let d := { d with pins := { d.pins with ready := true }, life := { d.life with started := true, startMs := ms } }
    let l := d.life
    let d := if l.unclean then d.log evStartUnclean (be 1 (b2n (!l.holdup)) ++ be 4 l.replayMs ++ be 4 l.discarded)
      else d.log evStartClean (be 4 ms ++ be 1 l.bootSrc)
    let d := if d.sup.pfIgnored then d.log evPfIgnored (be 1 l.bootSrc) else d
    d.nextColl.raise irqStart

/-! ## The end of a datapath reset (R51, R300) -/

/-- The datapath is up again: its blocks are empty, the ports may start, and READY is asserted where this start had
reached it. -/
def Dev.datapathDone (d : Dev) : Dev :=
  if !d.life.datapathDown ∨ d.life.flush ≠ .none then d
  else
    let d := { d with
      cqe := { (Engine.fresh d.cqe.weights d.cqe.urgentPct d.cqe.mRate d.cqe.arrivals) with slotsLow := d.cqe.slotsLow }
      vpl := { d.vpl with cz := [], dz := [], ae := [] }
      life := { d.life with datapathDown := false }
      pins := { d.pins with ready := d.life.started } }
    if d.life.phase = .run then d.rodStart.nextColl else d

end Sys2Proof.Machine
end

