-- ==== Sys2Proof/Machine/RegView.lean ====
section
/-! DEFINITION. What a register shows: the word it holds, or the state it stands for (R12, R364, R386, R387, and the
register tables of every block). -/

set_option cleanup.letToHave false

namespace Sys2Proof.Machine

/-! ## Codes (R66, R104, R157, R185, R231, R251, R310, R331, R354) -/

def LinkState.code : LinkState → Nat
  | .down => 0
  | .seek => 1
  | .hold => 2
  | .up => 3
  | .rfault => 4

/-- A League session that this device is opening counts as CHALLENGED. -/
def SessState.code : SessState → Nat
  | .opening => 1
  | .challenged => 1
  | .established => 2
  | .draining => 3
  | .closing => 4

def IdxState.code : IdxState → Nat
  | .off => 0
  | .loading => 1
  | .replay => 2
  | .ready => 3
  | .rebuild => 4
  | .rescan => 5

def BState.code : BState → Nat
  | .free => 0
  | .erasing => 1
  | .opened => 2
  | .parked => 3
  | .closed => 4
  | .victim => 5
  | .released => 6
  | .kept => 7
  | .system => 8
  | .retired => 9

def RodState.code : RodState → Nat
  | .off => 0
  | .check => 1
  | .up => 2
  | .down => 3

def MemberState.code : MemberState → Nat
  | .absent => 0
  | .joining => 1
  | .up => 2
  | .lost => 3
  | .left => 4

def HeadView.code : HeadView → Nat
  | .none => 0
  | .joining => 1
  | .up => 2
  | .lost => 3

def SaState.code : SaState → Nat
  | .ready => 1
  | .active => 2
  | .exhausted => 3

def FwStaging.code : FwStaging → Nat
  | .empty => 0
  | .writing => 1
  | .staged => 2

def FwActive.code : FwActive → Nat
  | .valid => 0
  | .copying => 1
  | .bad => 2

def FwRunning.code : FwRunning → Nat
  | .live => 1
  | .rom => 2
  | _ => 0

def ImgState.code (home : Nat) : ImgState → Nat
  | .home => home
  | .recv => 1
  | .check => 2
  | .store => 4

/-- Word `k` of a number of 64 bits, the low word first. -/
def half64 (v k : Nat) : Nat := v / 2 ^ (32 * k) % 2 ^ 32

/-- A signed value in one byte. -/
def sbyte (t : Int) : Nat := (t % 256).toNat

/-- A bit mask of the numbers below `n` of which `f` holds. -/
def maskOf (n : Nat) (f : Nat → Bool) : Nat := ((List.range n).map fun i => b2n (f i) * 2 ^ i).sum

/-! ## The interrupt tree (R394, R395) -/

/-- Whether a block's status register has an enabled bit set. -/
def Dev.irqOn (d : Dev) (status enable : Nat) : Bool := d.regN status &&& d.regN enable != 0

/-- MGMT_IRQ_STATUS: SPI_ERR, and the bits that mirror MGMT_IMG_STATUS (R398). -/
def Dev.mgmtIrq (d : Dev) : Nat :=
  d.regN 0x4000 &&& 8 ||| d.regF 0x410C 9 9 * 4 ||| d.regF 0x410C 11 11 * 2 ||| d.regF 0x410C 10 10

/-- The branches of CHIP_IRQ_STATUS: status and enable register of each, by bit (R394, R397). -/
def irqBranches : List (Nat × Nat × Nat) :=
  [(0, 0x1040, 0x1044), (1, 0x2004, 0x2008), (2, 0x3058, 0x305C), (4, 0x10018, 0x1001C), (5, 0x11018, 0x1101C),
   (6, 0x12018, 0x1201C), (7, 0x13018, 0x1301C), (8, 0x20030, 0x20034), (9, 0x30048, 0x3004C), (10, 0x40030, 0x40034),
   (11, 0x50020, 0x50024), (12, 0x60140, 0x60144), (13, 0x70080, 0x70084), (13, 0x700D0, 0x700D4),
   (14, 0x80038, 0x8003C), (15, 0x90028, 0x9002C), (16, 0x90228, 0x9022C), (17, 0xA0050, 0xA0054),
   (18, 0xB0030, 0xB0034)]

/-- CHIP_IRQ_STATUS (R394). -/
def Dev.chipIrq (d : Dev) : Nat :=
  let branches := maskOf 19 fun i => irqBranches.any fun b => b.1 == i && d.irqOn b.2.1 b.2.2
  (d.regN 0x20 &&& 0x80000000) ||| branches ||| b2n (d.mgmtIrq &&& d.regN 0x4004 != 0) * 8

/-- IRQ_N is asserted (driven low); it is high while RESET_N is low (R394, R395). -/
def Dev.irqLow (d : Dev) : Bool := !d.pins.resetLow && d.chipIrq &&& d.regN 0x24 != 0

/-! ## CHIP, PWR, CLK, SUP and MGMT -/

/-- CHIP_BOOT_STATUS (R62). -/
def Dev.bootStatus (d : Dev) : Nat :=
  b2n d.life.fwCopied * 2 ^ 25 + b2n d.life.unclean * 2 ^ 24 + d.life.bootSrc % 4 * 2 ^ 22 +
    d.life.phase.code % 16 * 2 ^ 16 + min 0xFFFF d.life.startMs

/-- Registers of CHIP that show other state (R62, R397). -/
def Dev.viewChip (d : Dev) (a : Nat) : Option Nat :=
  match a with
  | 0x00 => some 0xEF5A1664
  | 0x04 => some 0x01000001
  | 0x08 => some (half64 d.ident.serial 0)
  | 0x0C => some (half64 d.ident.serial 1)
  | 0x10 => some d.runVersion
  | 0x20 => some d.chipIrq
  | 0x40 => some 0
  | 0x48 => some d.bootStatus
  | 0x4C => some (d.life.pfStatus + min 0xFF d.life.glitches * 2 ^ 16)
  | _ => none

/-- SUP_THERM of the selected site (R385). -/
def Dev.viewTherm (d : Dev) : Nat :=
  let i := d.regF 0x3008 3 0
  let s := d.site i
  if 12 ≤ i then 0 else b2n s.failed * 2 ^ 31 + sbyte s.peak * 2 ^ 16 + sbyte s.now

/-- Registers of PWR, CLK and SUP that show other state (R372, R373, R385). -/
def Dev.viewPwr (d : Dev) (a : Nat) : Option Nat :=
  if 0x1010 ≤ a ∧ a < 0x1034 then some (d.pwrState ((a - 0x1010) / 4))
  else
    match a with
    | 0x1004 => some (d.power.resultDomain * 2 ^ 16 + d.power.resultCode * 16 + d.power.resultPrev * 4 + d.power.resultState)
    | 0x2000 => some (if d.coreUp then d.clocks.status else if d.life.phase = .reset then 0 else d.clocks.status &&& 64)
    | 0x3000 => some (b2n d.pins.thermLow * 256 + maskOf 4 (fun n => (d.trigger n).fault) * 16 + b2n d.sup.pfIgnored * 8 +
        b2n d.sup.pfStuck * 4)
    | 0x3004 => some (d.sup.ov % 512 * 512 + d.sup.uv % 512)
    | 0x300C => some d.viewTherm
    | 0x3018 => some ((d.trigger 0).level * 2 ^ 16 + (d.trigger 0).state)
    | 0x3028 => some ((d.trigger 1).level * 2 ^ 16 + (d.trigger 1).state)
    | 0x3038 => some ((d.trigger 2).level * 2 ^ 16 + (d.trigger 2).state)
    | 0x3048 => some ((d.trigger 3).level * 2 ^ 16 + (d.trigger 3).state)
    | _ => none

/-- MGMT_IMG_STATUS (R38). -/
def Dev.imgStatus (d : Dev) : Nat :=
  let w := d.imgWin
  let owner := match w.owner with
    | none => 0
    | some .spi => 1
    | some _ => 2
  (d.regN 0x410C &&& 0xE00) + b2n w.fallback * 256 + w.src % 4 * 64 + owner * 16 +
    w.state.code (if d.image.isSome then 3 else 0)

/-- Registers of MGMT that show other state (R38, R398). -/
def Dev.viewMgmt (d : Dev) (nv : Secure) (a : Nat) : Option Nat :=
  match a with
  | 0x4000 => some d.mgmtIrq
  | 0x4108 => some 0
  | 0x410C => some d.imgStatus
  | 0x4110 => some (d.imgWin.rcvd % 2 ^ 23)
  | 0x4114 => some (d.imgWin.errSection * 2 ^ 16 + d.imgWin.errStage * 256 + d.imgWin.errCode)
  | 0x4118 => some ((d.image.map (·.gen)).getD 0)
  | 0x411C => some nv.floor
  | _ => none

/-! ## EP and SDQ (R79, R82, R83) -/

/-- EPn_LINK_STATUS (R82). -/
def Port.linkStatus (p : Port) : Nat :=
  maskOf 8 (fun i => p.pfcLeft.has i) * 2 ^ 16 + b2n (p.pauseLeft != 0) * 512 + b2n p.remoteFault * 256 +
    b2n p.localFault * 128 + b2n p.hiBer * 64 + b2n p.aligned * 32 + b2n p.blockLock * 16 + p.link.code

/-- Registers of EPn at an offset that show other state (R79, R82). -/
def Dev.viewEp (d : Dev) (n off : Nat) : Option Nat :=
  let p := d.port n
  if 0x800 ≤ off ∧ off < 0xA00 then some (half64 (p.counters.getD ((off - 0x800) / 8) 0) (off / 4 % 2))
  else
    match off with
    | 0x08 => some p.ctCur
    | 0x14 => some p.linkStatus
    | 0x20 => some 0
    | 0x24 => some (half64 p.half 0)
    | 0x28 => some (half64 p.half 1)
    | _ => none

/-- SDQ_LANEn_STATUS (R83). -/
def Lane.status (l : Lane) : Nat :=
  min 0xFF l.flips * 256 + l.fecLane % 4 * 16 + b2n l.cdrLock * 4 + b2n l.sigDet * 2 + b2n l.rxInv

/-- Registers of SDQ that show other state (R83). -/
def Dev.viewSdq (d : Dev) (a : Nat) : Option Nat :=
  match a with
  | 0x18000 => some (d.regN a + b2n (d.coreUp && bit d.clocks.status 4) * 2 ^ 31)
  | 0x18004 => some d.cellsFree
  | 0x18008 => some d.poolLow
  | 0x18014 => some (d.lane 0).status
  | 0x18024 => some (d.lane 1).status
  | 0x18034 => some (d.lane 2).status
  | 0x18044 => some (d.lane 3).status
  | _ => none

/-! ## DKT and CQE (R108, R134) -/

/-- DKT_SESS_INFO of a session (R108). -/
def Sess.info (s : Sess) : Nat :=
  s.retries % 16 * 2 ^ 20 + s.epoch % 16 * 2 ^ 16 + s.priv % 32 * 256 + b2n s.ticket * 128 + s.state.code

/-- Registers of DKT that show other state (R108). -/
def Dev.viewDkt (d : Dev) (a : Nat) : Option Nat :=
  let sel := d.session (d.regF 0x2001C 11 0)
  match a with
  | 0x20014 => some (d.halfOpen * 2 ^ 16 + d.sess.length)
  | 0x20018 => some 0
  | 0x20020 => some ((sel.map Sess.info).getD 0)
  | 0x20024 => some ((sel.map (·.txNext)).getD 0)
  | 0x20028 => some ((sel.map (·.rxNext)).getD 0)
  | _ => none

/-- CQE_QINFO of the selected queue (R134). -/
def Dev.queueInfo (d : Dev) : Nat :=
  let sid := d.regF 0x30050 14 3
  let q := d.regF 0x30050 2 0
  let mine := fun (c : Cmd) => c.session == sid && c.queue == q
  (d.cqe.flights.count fun _ f => mine f.cmd) * 2 ^ 16 + d.cqe.queued.count fun _ c => mine c

/-- Registers of CQE that show other state (R134). -/
def Dev.viewCqe (d : Dev) (a : Nat) : Option Nat :=
  match a with
  | 0x30030 => some (65536 - d.cqe.queued.length)
  | 0x30034 => some (16384 - d.cqe.flights.length)
  | 0x30038 => some (65536 - d.cqe.locksUsed.length)
  | 0x30040 => some d.cqe.lastU
  | 0x30044 => some d.cqe.lastAll
  | 0x30054 => some d.queueInfo
  | _ => none

/-! ## IDX and VPL (R185, R207) -/

/-- Checkpoint Bushels that the area does not hold (R176, R242). -/
def Dev.cpFree (d : Dev) : Nat := 48 - d.areaHeld 3

/-- Units at an occupancy; none is counted while there is no array (R171, R185). -/
def Dev.unitsAt (d : Dev) (n : Nat) : Nat :=
  let units := (d.idx.slots.map fun p => p.1 / 28).eraseDups
  if d.idx.state = .off then 0
  else if n = 0 then unitEnd - units.length
  else (units.filter fun u => (d.idx.slots.count fun k _ => k / 28 == u) == n).length

/-- Registers of IDX that show other state (R185). -/
def Dev.viewIdx (d : Dev) (a : Nat) : Option Nat :=
  match a with
  | 0x40000 => some 0
  | 0x40004 => some (b2n d.idx.held * 8 + d.idx.state.code)
  | 0x40008 => some d.idx.used
  | 0x4000C => some idxLimit
  | 0x40010 => some (half64 d.idx.block 0)
  | 0x40014 => some (half64 d.idx.block 1)
  | 0x40018 => some (half64 d.idx.committed.origin 0)
  | 0x4001C => some (half64 d.idx.committed.origin 1)
  | 0x40020 => some (d.cpFree * 4 + b2n d.idx.run.isSome * 2)
  | 0x40024 => some (d.idx.committed.gen % 2 ^ 32)
  | 0x4002C => some (d.unitsAt (d.regF 0x40028 4 0))
  | _ => none

/-- Registers of VPL that show other state (R207). -/
def Dev.viewVpl (d : Dev) (a : Nat) : Option Nat :=
  let ctr := if !d.mediaUp then 0 else if wctrLast < d.vpl.wctr then 0xFFFFFFFFFFFFFFFF else d.vpl.wctr
  match a with
  | 0x50008 => some d.nsPolicyWord
  | 0x50010 => some (half64 ctr 0)
  | 0x50014 => some (half64 ctr 1)
  | 0x50018 => some (maskOf 8 d.vpl.ae.has * 2 ^ 16 + maskOf 8 d.vpl.dz.has * 256 + maskOf 8 d.vpl.cz.has)
  | _ => none

/-! ## SEC (R236) -/

/-- SEC_SLOT_INFO of the selected slot. -/
def Dev.slotInfo (d : Dev) : Nat :=
  match d.sec.slots.find (d.regF 0x60008 8 0) with
  | some k => k.gens.length % 32 * 2 ^ 16 + (if k.policy = 4 then k.priv % 256 * 256 else 0) + k.policy % 8
  | none => 0

/-- SEC_SLOT_GEN of the selected slot. -/
def Dev.slotGenOf (d : Dev) : Nat :=
  match d.sec.slots.find (d.regF 0x60008 8 0) with
  | some k => ((k.gens.head?).map (·.gen)).getD 0
  | none => 0

/-- The PN registers: the PN of the selected association where it is installed, else the words written. -/
def Dev.viewPn (d : Dev) (k : Nat) : Nat :=
  match d.sec.sas.find d.saSel with
  | some s => half64 s.pn k
  | none => if bit d.saSel 4 then d.regN (0x60110 + 4 * k) else 0

/-- Registers of SEC that show other state (R236). -/
def Dev.viewSec (d : Dev) (nv : Secure) (a : Nat) : Option Nat :=
  if 0x60020 ≤ a ∧ a < 0x60030 then some (num d.sec.nonce (a - 0x60020) 4)
  else if 0x60040 ≤ a ∧ a < 0x60080 then some 0
  else
    match a with
    | 0x60000 => some (nv.eraseEpoch % 2 ^ 16 * 2 ^ 16 + b2n nv.erased * 32 + (d.regN a &&& 16) + d.tq * 4 + b2n d.sec.locked)
    | 0x60004 => some (min 0xFFFF nv.alarms * 2 ^ 16 + d.sec.sources % 16 * 16 + nv.alarmLatch % 16)
    | 0x6000C => some d.slotInfo
    | 0x60010 => some d.slotGenOf
    | 0x60018 => some (num (d.pubItem (d.regF 0x60014 5 4)) (4 * d.regF 0x60014 3 0) 4)
    | 0x6001C => some (min 0xFFFF nv.unlockFails * 2 ^ 16 + b2n d.sec.blocked * 2)
    | 0x60084 => some 0
    | 0x60090 => some (half64 d.now 0)
    | 0x60094 => some (half64 d.now 1)
    | 0x600A0 => some (d.regN a + b2n d.sec.time.armed * 2 ^ 30)
    | 0x600A4 => some d.holdSeconds
    | 0x600A8 => some (if d.mediaUp then half64 d.cap.sctr 0 else 0)
    | 0x600AC => some (if d.mediaUp then half64 d.cap.sctr 1 else 0)
    | 0x60110 => some (d.viewPn 0)
    | 0x60114 => some (d.viewPn 1)
    | 0x6012C => some (d.sec.msaErr * 256 + ((d.sec.sas.find d.saSel).map fun s => s.state.code).getD 0)
    | _ => none

/-! ## FMM and FC (R251, R269, R270, R291) -/

/-- The 64-byte entry of a Bushel (R251). -/
def Bushel.entry (x : Bushel) : Bytes :=
  be 1 x.state.code ++ be 1 x.mode ++ be 1 x.area ++ be 1 x.head ++ be 2 x.ns ++ be 1 x.flags ++ be 1 x.failedDie ++
    be 1 x.absentDie ++ zeros 3 ++ be 4 x.tlcErases ++ be 4 x.pslcErases ++ be 4 x.valid ++ be 4 x.written ++
    be 4 x.rdCount ++ be 8 x.closeTime ++ be 8 x.openSeq ++ be 8 x.firstTime ++ be 2 x.pin ++ be 2 x.maxCorr ++ zeros 4

/-- Whether patrol runs: the firmware runs in RUN and a Bushel is left to walk (R264). -/
def Dev.patrols (d : Dev) : Bool :=
  d.life.phase == .run && !d.life.coresDown && (d.patrolNext d.fmm.patrol).isSome

/-- FMM_STATUS (R269). -/
def Dev.fmmStatus (d : Dev) : Nat :=
  let runs := fun (f : CollKind → Bool) => d.copiesRun && d.fmm.colls.any fun p => f p.2
  let wear := fun (k : CollKind) => match k with
    | .wear _ => true
    | _ => false
  (d.fmm.heads.filter fun h => h.bushel.isSome).length * 256 + b2n d.fmm.exhausted * 128 + b2n d.fmm.suspended * 64 +
    b2n (runs fun k => k == .fold) * 32 + b2n (runs wear) * 16 + b2n (runs fun k => k == .gc) * 8 + b2n d.patrols * 4 +
    d.fmm.floor % 4

/-- FMM_GC_BEST: S in units of 1/32,768, and its Bushel (R254, R269). -/
def Dev.gcBestWord (d : Dev) : Nat :=
  match d.gcBest with
  | some (b, x) => (max (-32768) (min 32767 (d.score x / 2)) % 65536).toNat * 2 ^ 16 + b
  | none => 0x3FFF

/-- pSLC Bushels that hold host data. -/
def Dev.pslcHeld (d : Dev) : Nat := d.fmm.bushels.count fun _ x => x.held && x.mode == 1 && x.area ≤ 1

/-- What a register of the media shows: its reset value until the start has reached the media (R46). -/
def Dev.onMedia (d : Dev) (reset w : Nat) : Option Nat := some (if d.mediaUp then w else reset)

/-- Registers of FMM that show other state (R269). -/
def Dev.viewFmm (d : Dev) (a : Nat) : Option Nat :=
  if 0x70040 ≤ a ∧ a < 0x70080 then d.onMedia 0 (num (d.bushel (d.regF 0x70020 13 0)).entry (a - 0x70040) 4)
  else
    match a with
    | 0x70004 => d.onMedia 0 d.fmmStatus
    | 0x70008 => d.onMedia 0 (d.pslcHeld * 2 ^ 16 + d.freeF)
    | 0x7000C => d.onMedia 0 (d.userPool * 2 ^ 16 + (10752 - d.fmm.bushels.count fun _ x => x.state == .retired))
    | 0x70010 => d.onMedia 0x6000 (d.diesNoSpare * 2 ^ 16 + d.sparesLeft)
    | 0x70014 => d.onMedia 0 (min 0xFFFF d.eMax * 2 ^ 16 + min 0xFFFF d.eMin)
    | 0x70018 => d.onMedia 0x3FFF d.gcBestWord
    | _ => none

/-- The window that FMM_FTH_SEL selects. -/
def Dev.selWindow (d : Dev) : Option Window := d.cap.windows.find (d.regF 0x70090 3 0)

/-- FMM_FTH_INFO (R291). -/
def Dev.fthInfo (d : Dev) : Nat :=
  match d.selWindow with
  | some w => min 0xFFFF (d.pinned (d.regF 0x70090 3 0)) * 2 ^ 16 + min 15 w.merges * 4096 + w.tq % 4 * 256 + w.source * 32 + 1
  | none => 0

/-- The ledger that FMM_CHN_SEL selects, where it names a Chain namespace. -/
def Dev.selLedger (d : Dev) : Option Ledger :=
  let n := d.regF 0x700B4 9 0
  match d.ns n with
  | some x => if x.entry.type = 3 then some (d.ledger n) else none
  | none => none

/-- FMM_CHN_RES: the reserve and what of it holds valid records, in units of 16 MiB (R291). -/
def Dev.chainRes (d : Dev) : Nat :=
  ((d.image.map (·.chainMib)).getD 0) / 16 % 2 ^ 16 * 2 ^ 16 + ceilDiv (64 * d.chainUsed) 16777216 % 2 ^ 16

/-- Registers of windows and ledgers (R291). -/
def Dev.viewXt (d : Dev) (a : Nat) : Option Nat :=
  let win := fun (f : Window → Nat) (k : Nat) => d.onMedia 0 (half64 ((d.selWindow.map f).getD 0) k)
  let led := fun (f : Ledger → Nat) (k : Nat) => d.onMedia 0 (half64 ((d.selLedger.map f).getD 0 % 2 ^ 40) k)
  match a with
  | 0x70094 => some d.fthInfo
  | 0x70098 => win (·.t) 0
  | 0x7009C => win (·.t) 1
  | 0x700A0 => win (·.start) 0
  | 0x700A4 => win (·.start) 1
  | 0x700A8 => win (·.stop) 0
  | 0x700AC => win (·.stop) 1
  | 0x700B0 => some (min 0xFF d.cap.missed * 2 ^ 24 + maskOf 16 d.cap.windows.has)
  | 0x700B8 => led (·.next) 0
  | 0x700BC => led (·.next) 1
  | 0x700C0 => led (·.first) 0
  | 0x700C4 => led (·.first) 1
  | 0x700C8 => some d.chainRes
  | _ => none

/-- The temperature that a die shows. The sites give the hottest of eight dies only (R378), so a die's own is a free
value (log entry 11); before the first sample it is 0. -/
def Dev.dieTemp (d : Dev) (die : Nat) : Nat :=
  if !(d.site (4 + die / 8)).sampled then 0 else (Config.openValue 3 (d.cycles * 64 + die)).toNat % 256

/-- Registers of FCn at an offset that show other state (R270). -/
def Dev.viewFc (d : Dev) (n off : Nat) : Option Nat :=
  let lost := fun (p : Nat) => d.fmm.lostDies.contains (4 * n + p)
  match off with
  | 0x00 => d.onMedia 0 (b2n d.fmm.suspended * 256 + maskOf 4 lost * 16 + maskOf 4 fun p => !lost p)
  | 0x04 => d.onMedia 0x01800180 (d.spares (4 * n + 1) * 2 ^ 16 + d.spares (4 * n))
  | 0x08 => d.onMedia 0x01800180 (d.spares (4 * n + 3) * 2 ^ 16 + d.spares (4 * n + 2))
  | 0x0C => some (((List.range 4).map fun p => d.dieTemp (4 * n + p) * 256 ^ p).sum)
  | _ => none

/-! ## MAT, ROD and LGE (R309, R310, R331) -/

/-- Free classification entries of `w` bits or more (R309). -/
def Dev.classFreeCount (d : Dev) (w : Nat) : Nat :=
  ((List.range 4).map fun b =>
    let bitsOf := widthBits (d.mat.width b)
    if bitsOf < w then 0 else 4096 / (bitsOf / 80) - d.mat.entries.count fun a _ => a / 4096 == b).sum

/-- Registers of MAT that show other state (R309). -/
def Dev.viewMat (d : Dev) (a : Nat) : Option Nat :=
  match a with
  | 0x80024 => some (d.mat.entErr * 256 + b2n d.mat.entValid * 8)
  | 0x80030 => some (d.classFreeCount 160 * 2 ^ 16 + d.classFreeCount 80)
  | 0x80034 => some d.mat.scrub
  | 0x800EC => some d.mat.srchResult
  | 0x800F0 => some (b2n d.mat.srchHit * 2 ^ 31 + b2n d.mat.srchMulti * 2 ^ 30 + d.mat.srchAddr)
  | _ => none

/-- What a line of the selected deputy shows: PARTNER and CODE. A line that is OK has no partner; a line of a deputy that
no check has graded shows 0 (R307, R310). -/
def Dev.rodLine (d : Dev) (line : Nat) : Nat :=
  let dep := d.regF 0x90008 1 0
  if dep = 0 ∨ d.rod.deputies < dep then 0 else d.rod.results.getD (dep * 32 + line) 248

/-- Registers of ROD that show other state (R310). -/
def Dev.viewRod (d : Dev) (a : Nat) : Option Nat :=
  if 0x90010 ≤ a ∧ a < 0x90020 then
    some (((List.range 4).map fun i => d.rodLine ((a - 0x90010) + i) * 256 ^ i).sum)
  else
    match a with
    | 0x90004 => some (b2n d.rod.ringOk * 2 ^ 11 + b2n d.rod.alive * 2 ^ 10 + b2n d.rod.full * 512 +
        b2n (d.rod.clkOk && d.league.role == 2) * 256 +
        d.rod.deputies % 4 * 16 + d.rod.state.code)
    | 0x90020 => some (d.rodLine 16 * 256 + d.rod.ringCode % 16)
    | _ => none

/-- LGE_MEM_INFO of the selected member (R331). -/
def Dev.memberInfo (d : Dev) : Nat :=
  match d.lge.members.find (d.regF 0x90214 5 0) with
  | some m => m.flags % 8 / 4 * 2 ^ 14 + m.flags % 4 / 2 * 2 ^ 13 + m.flags % 2 * 2 ^ 12 + min 5 m.missed * 256 + m.pos % 4 * 64 +
      m.role % 4 * 16 + m.state.code
  | none => 0

/-- Members in UP, the head itself included. -/
def Dev.upCount (d : Dev) : Nat :=
  if d.league.role = 1 then 1 + d.lge.members.count fun _ m => m.state == .up else 0

/-- Registers of LGE that show other state (R331). -/
def Dev.viewLge (d : Dev) (a : Nat) : Option Nat :=
  let ups := maskOf 64 fun i => (d.lge.members.find i).any fun m => m.state == .up
  match a with
  | 0x90204 => some (d.upCount * 2 ^ 16 + d.lge.head.code * 256 + b2n d.lge.busy * 2 +
      b2n (d.lge.dirStored && !d.lge.busy && d.lge.lostRules.isEmpty && (d.league.role != 2 || d.lge.dirGen == d.lge.headGen)))
  | 0x90208 => some (d.lge.err * 2 ^ 16 + d.regN a)
  | 0x9020C => some (half64 d.lge.dirGen 0)
  | 0x90210 => some (half64 d.lge.dirGen 1)
  | 0x90218 => some d.memberInfo
  | 0x9021C => some (half64 ups 0)
  | 0x90220 => some (half64 ups 1)
  | _ => none

/-! ## EVJ and FWC (R341, R354) -/

/-- EVJ_STATUS (R341). -/
def Dev.evjStatus (d : Dev) : Nat :=
  min 256 d.evj.fifo.length * 2 ^ 16 + b2n (storeSize ≤ d.evj.stored) * 4 +
    (if d.evj.ended then 2 else if d.ringStalled then 1 else 0)

/-- Registers of EVJ that show other state (R341). -/
def Dev.viewEvj (d : Dev) (a : Nat) : Option Nat :=
  if 0xA0030 ≤ a ∧ a < 0xA0050 then some (num d.evj.rdData (a - 0xA0030) 4)
  else
    match a with
    | 0xA0004 => some d.evjStatus
    | 0xA0008 => some (half64 d.evj.nextSeq 0)
    | 0xA000C => some (bits d.evj.nextSeq 39 32)
    | 0xA0010 => some (half64 d.evj.firstSeq 0)
    | 0xA0014 => some (bits d.evj.firstSeq 39 32)
    | 0xA0018 => some (min 0xFFFF (d.evj.ring.filter d.awaits).length * 2 ^ 16 + ceilDiv d.evj.stored pageSize)
    | 0xA0028 => some (d.regN a + b2n d.evj.rdHit * 4)
    | _ => none

/-- Whether the start has come as far as the firmware slots (R46). -/
def Dev.slotsRead (d : Dev) : Bool := d.coreUp && d.life.phase != .rom

/-- Registers of FWC that show other state (R354). -/
def Dev.viewFwc (d : Dev) (nv : Secure) (a : Nat) : Option Nat :=
  match a with
  | 0xB0000 => some (b2n d.fw.act.isSome * 256 + (if d.slotsRead then d.fw.staging.code * 16 + d.fw.active.code * 4 else 0) +
        d.fw.running.code)
  | 0xB0004 => some d.runVersion
  | 0xB0008 => some ((d.fw.activeImage.map (·.version)).getD 0)
  | 0xB000C => some ((d.fw.stagedImage.map (·.version)).getD 0)
  | 0xB0010 => some (((d.fw.runImage.map (·.svn)).getD 0) % 2 ^ 16 * 2 ^ 16 + nv.svnFloor % 2 ^ 16)
  | 0xB0014 => some (d.regN a + min 15 d.wdogRecent.length * 2 ^ 16)
  | 0xB0040 => some 0
  | 0xB0048 => some 0
  | 0xB004C => some (d.regN a + d.fw.loadCode % 256)
  | _ => none

/-! ## The map (R364, R386) -/

/-- The power domain that a register lives in, none for AON and the core logic (R386). -/
def regDomain (a : Nat) : Option Nat :=
  if 0x10000 ≤ a ∧ a < 0x14000 then some (16 + (a - 0x10000) / 0x1000)
  else if 0x18000 ≤ a ∧ a < 0x19000 then some 20
  else if 0x40000 ≤ a ∧ a < 0x50000 then some 63
  else if 0x71000 ≤ a ∧ a < 0x72000 then some ((a - 0x71000) / 0x100)
  else if 0x90000 ≤ a ∧ a < 0x90200 then some 65
  else none

/-- The registers that show other state. -/
def Dev.shows (d : Dev) (nv : Secure) (a : Nat) : Option Nat :=
  if a < 0x1000 then d.viewChip a
  else if a < 0x4000 then d.viewPwr a
  else if a < 0x10000 then d.viewMgmt nv a
  else if a < 0x14000 then d.viewEp ((a - 0x10000) / 0x1000) (a % 0x1000)
  else if a < 0x20000 then d.viewSdq a
  else if a < 0x30000 then d.viewDkt a
  else if a < 0x40000 then d.viewCqe a
  else if a < 0x50000 then d.viewIdx a
  else if a < 0x60000 then d.viewVpl a
  else if a < 0x70000 then d.viewSec nv a
  else if a < 0x70090 then d.viewFmm a
  else if a < 0x71000 then d.viewXt a
  else if a < 0x72000 then d.viewFc ((a - 0x71000) / 0x100) (a % 0x100)
  else if a < 0x90000 then d.viewMat a
  else if a < 0x90200 then d.viewRod a
  else if a < 0xA0000 then d.viewLge a
  else if a < 0xB0000 then d.viewEvj a
  else d.viewFwc nv a

/-- The word of the register at an address, none where no register lies (R386). -/
def Dev.view (d : Dev) (nv : Secure) (a : Nat) : Option Nat :=
  match d.shows nv a with
  | some w => some w
  | none => (regRow a).map fun _ => d.regN a

/-- Note an access to a register of a domain that is not ON (R364). -/
def Dev.offAccess (d : Dev) (a : Nat) : Dev :=
  let d := if bit (d.regN 0x1048) 31 then d else d.setRegN 0x1048 (2 ^ 31 + a)
  d.count (pwrCnt 4)

/-- Whether the register's domain is not ON. -/
def Dev.regOff (d : Dev) (a : Nat) : Bool := (regDomain a).any fun n => !d.domOn n

/-! ## Reading (R12, R79, R387) -/

/-- The registers whose read latches the register behind them (R79 and the register tables). -/
def latchesHi (a : Nat) : Bool :=
  ([0x08, 0x40010, 0x40018, 0x50010, 0x60090, 0x600A8, 0x70098, 0x700A0, 0x700A8, 0x700B8, 0x700C0, 0x9020C, 0xA0008,
    0xA0010] : List Nat).contains a ||
  (0x10000 ≤ a && a < 0x14000 && 0x800 ≤ a % 0x1000 && a % 0x1000 < 0xA00 && a % 8 == 0)

/-- The path of an access: SPI, firmware and each DKT session have latches of their own (R387). -/
def Iface.path : Iface → Nat
  | .spi => 0
  | .firmware => 1
  | .device => 2
  | .inBand s => s + 3

/-- The key of a path's latch of a HI register. -/
def latchKey (i : Iface) (a : Nat) : Nat := i.path * 2 ^ 24 + a

/-- What a read clears: the RC fields of the register (R12). SDQ_POOL_LOW reads 0x1_0000 again after the read (R83). What
SUP_THERM.PEAK, whose reset is 0x80, holds after one is not stated: it starts again at its reset, below every reading.
DESIGN CHOICE (log entry 76). -/
def Dev.clearRc (d : Dev) (a : Nat) : Dev :=
  match a with
  | 0x4C => { d with life := { d.life with glitches := 0 } }
  | 0x300C => d.modSite (d.regF 0x3008 3 0) fun s => { s with peak := -128 }
  | 0x18008 => { d with poolLow := 65536 }
  | 0x18014 => d.modLane 0 fun l => { l with flips := 0 }
  | 0x18024 => d.modLane 1 fun l => { l with flips := 0 }
  | 0x18034 => d.modLane 2 fun l => { l with flips := 0 }
  | 0x18044 => d.modLane 3 fun l => { l with flips := 0 }
  | 0x700B0 => { d with cap := { d.cap with missed := 0 } }
  | _ =>
    match regRow a with
    | some r => d.setRegN a (d.regN a - (d.regN a &&& r.rc))
    | none => d

/-- Read the register at an address by an interface (R364, R386, R387): a HI word that the path has latched, else the
present word; a LO word latches its HI; RC fields clear. -/
def Dev.regRead (d : Dev) (nv : Secure) (i : Iface) (a : Nat) : Nat × Dev :=
  match d.view nv a with
  | none => (0, d)
  | some w =>
    if d.regOff a then (0, d.offAccess a)
    else
      match d.latches.find (latchKey i a) with
      | some h => (h.toNat, { d with latches := d.latches.del (latchKey i a) })
      | none =>
        let d := if latchesHi a then
            { d with latches := d.latches.put (latchKey i (a + 4)) (BitVec.ofNat 32 ((d.view nv (a + 4)).getD 0)) }
          else d
        (w % 2 ^ 32, d.clearRc a)

end Sys2Proof.Machine
end

