-- ==== Sys2Proof/Machine/RegMap.lean ====
section
/-! DEFINITION. Writes of registers: refusals, fields and their effects (R12, R14, R342, R386, R388, and the register
tables of every block); SPI frames (R389 to R392); commands in band (R393). -/

set_option cleanup.letToHave false

namespace Sys2Proof.Machine

/-! ## Refused writes (R388) -/

/-- What came of a write: it acted or was discarded in silence; it was refused for a cause of R388; its domain is not ON
(R364); or it opened the image window in band while another owns it (R37). -/
inductive Wrote where
  | ok
  | refused (cause : Nat)
  | domain
  | busy
  deriving DecidableEq, Repr

/-- Whether a write would change an RWL field (R14). -/
def Dev.changesLocked (d : Dev) (a w : Nat) : Bool :=
  match regRow a with
  | some r => (d.regN a ^^^ w) &&& r.rwl != 0
  | none => false

/-- The registers that firmware may not write: PWR, CHIP_RST_CTL, the key-load, unlock and SA registers, and the image
window (R342). -/
def firmwareDenied (a : Nat) : Bool :=
  (0x1000 ≤ a && a < 0x2000) || a == 0x40 || (0x6001C ≤ a && a < 0x60080) || (0x60080 ≤ a && a < 0x6008C) ||
    (0x60100 ≤ a && a < 0x60130) || (0x4100 ≤ a && a < 0x4120)

/-- The registers that act only over SPI and are discarded whole in band (R236, R381, R388). -/
def spiOnly (a : Nat) : Bool := (0x6001C ≤ a && a < 0x6008C) || a == 0x3054

/-- The fields of MGMT_IMG_CTL that act only over SPI: TARGET, ENROLL and PERSIST (R388). -/
def imgSpiBits : Nat := 0xF0

/-- The cause for which a write is refused whole: 4 TEST, 3 FIRMWARE, 1 LOCKED; none where it is not (R388). -/
def Dev.wholeRefusal (d : Dev) (i : Iface) (a w : Nat) : Option Nat :=
  if i = .spi ∧ d.life.bootSrc = 3 ∧ a ≠ 0x40 then some 4
  else if i = .firmware ∧ (firmwareDenied a ∨ d.changesLocked a w) then some 3
  else if d.image.isSome ∧ d.changesLocked a w then some 1
  else none

/-- Record a refused write in CHIP_ACC_ERR and CHIP_REFUSED, and write MGMT_REG_REFUSED (R388, R397). -/
def Dev.refuse (d : Dev) (i : Iface) (cause a : Nat) : Dev :=
  let d := if bit (d.regN 0x28) 31 then d else d.setRegN 0x28 (2 ^ 31 + i.code * 2 ^ 29 + cause * 2 ^ 26 + a)
  let d := if cause = 3 then d.count (fwcCnt 6) else d
  (d.count 0x2C).logLimited evRegRefused 64 fun _ => be 1 i.code ++ be 1 cause ++ be 4 a

/-! ## Fields (R12) -/

/-- Write a word to the fields that a register holds: RW and RWL fields take their bits, W1C bits written 1 clear. -/
def Dev.writeFields (d : Dev) (a w : Nat) : Dev :=
  match regRow a with
  | none => d
  | some r =>
    let keep := d.regN a - (d.regN a &&& (r.rw ||| r.rwl))
    let v := keep ||| (w &&& (r.rw ||| r.rwl))
    d.setRegN a (v - (v &&& (w &&& r.w1c)))

/-- A word whose field [hi:lo] is out of range keeps the present value there: the other value is discarded. -/
def Dev.orKeep (d : Dev) (a w hi lo least most : Nat) : Nat :=
  let f := bits w hi lo
  if least ≤ f ∧ f ≤ most then w else putBits w hi lo (d.regF a hi lo)

/-! ## Effects, block by block -/

/-- SUP: fields out of range are discarded; SUP_PF_CTL needs the key (R374, R381, R385). -/
def Dev.writeSup (d : Dev) (a w : Nat) : Dev :=
  if 0x3010 ≤ a ∧ a < 0x3050 ∧ a % 0x10 = 0 then d.writeFields a (d.orKeep a w 13 0 1 10000)
  else if 0x3010 ≤ a ∧ a < 0x3050 ∧ a % 0x10 = 4 then
    d.writeFields a (d.orKeep a (d.orKeep a w 25 16 0 600) 6 0 0 120)
  else
    match a with
    | 0x3050 => d.writeFields a (d.orKeep a (d.orKeep a w 23 16 60 100) 7 0 80 120)
    | 0x3054 =>
      if bits w 31 16 ≠ 0xD1A1 then d
      else
        let d := d.writeFields a w
        if bit w 0 then d.pfIgnore else { d with sup := { d.sup with pfIgnored := false } }
    | _ => d.writeFields a w

/-- EPn at an offset (R74, R79, R80, R82). -/
def Dev.writeEp (d : Dev) (n a w : Nat) : Dev :=
  let clear := fun (k : Nat) =>
    d.modPort n fun p => { p with half := p.half - (p.half &&& (w % 2 ^ 32 * 2 ^ (32 * k))) }
  match a % 0x1000 with
  | 0x04 =>
    let d := d.writeFields a w
    if n = 0 ∧ bit w 17 then d.ctRestore else d
  | 0x18 => d.writeFields a (if (d.port n).half = 0 then w else w - (w &&& 0x20))
  | 0x20 => if bit w 0 then d.statClear n else d
  | 0x24 => clear 0
  | 0x28 => clear 1
  | _ => d.writeFields a w

/-- DKT: the ranges of its timers and windows, and DKT_SESS_KILL (R103, R108). -/
def Dev.writeDkt (d : Dev) (a w : Nat) : Dev :=
  match a with
  | 0x20008 => d.writeFields a (d.orKeep a (d.orKeep a w 31 16 10 60000) 7 0 2 64)
  | 0x2000C => d.writeFields a (d.orKeep a (d.orKeep a w 31 16 100 60000) 15 8 10 255)
  | 0x20010 => d.writeFields a (d.orKeep a (d.orKeep a w 26 16 1 1024) 10 0 1 1024)
  | 0x20018 => if bits w 31 16 = 0xD1A1 then d.killSession (bits w 11 0) else d
  | _ => d.writeFields a w

/-- A write of an arbitration policy register that changes it writes CQE_POLICY_SET (R116, R134). -/
def Dev.cqePolicy (d : Dev) (i : Iface) (a w : Nat) : Dev :=
  let old := d.regN a
  let d := d.writeFields a w
  if d.regN a = old then d else d.log evPolicySet (be 4 a ++ be 4 old ++ be 4 (d.regN a) ++ be 2 i.param)

/-- CQE: weights and shares in range (R116, R134). -/
def Dev.writeCqe (d : Dev) (i : Iface) (a w : Nat) : Dev :=
  match a with
  | 0x30000 => if (List.range 4).any fun k => bits w (8 * k + 7) (8 * k) == 0 then d else d.cqePolicy i a w
  | 0x30004 => d.cqePolicy i a (d.orKeep a (d.orKeep a w 31 16 1 65535) 6 0 1 100)
  | _ => d.writeFields a w

/-- IDX: RESCAN needs the key; FORCE begins a generation (R175, R179, R185). -/
def Dev.writeIdx (d : Dev) (a w : Nat) : Dev :=
  match a with
  | 0x40000 => if bits w 31 16 = 0xD1A1 ∧ bit w 0 then d.rescanBegin else d
  | 0x40020 => if bit w 0 then d.checkpointForce else d
  | _ => d.writeFields a w

/-- SEC (R211, R223, R226 to R231, R236). -/
def Dev.writeSec (d : Dev) (nv : Secure) (a w : Nat) : Secure × Dev :=
  let pn := fun (k : Nat) =>
    if bit d.saSel 4 then
      (d.writeFields a w).modSa d.saSel fun s =>
        if k = 1 ∧ !s.xpn then s else { s with pn := putBits s.pn (32 * k + 31) (32 * k) w }
    else d
  if 0x60040 ≤ a ∧ a < 0x60080 then
    (nv, { d with sec := { d.sec with sig := d.sec.sig.put ((a - 0x60040) / 4) (BitVec.ofNat 32 w) } })
  else
    match a with
    | 0x6001C => if bit w 0 then d.unlock nv else (nv, d)
    | 0x60080 => (nv, d.kloadCtl nv w)
    | 0x60084 => (nv, d.kloadData w)
    | 0x6009C => (nv, d.todArm w)
    | 0x600A0 => (nv, d.todCtl w)
    | 0x60104 => d.saCtl nv w
    | 0x60110 => (nv, pn 0)
    | 0x60114 => (nv, pn 1)
    | _ => (nv, d.writeFields a w)

/-- FMM: INGEST, folds and FMM_GC_REQ (R250, R254, R269). -/
def Dev.writeFmm (d : Dev) (a w : Nat) : Dev :=
  match a with
  | 0x70000 =>
    let d := d.writeFields a (d.orKeep a w 1 0 0 2)
    let d := if bit w 8 then d.foldGo else d
    if bit w 9 then d.foldStop else d
  | 0x7001C =>
    let d := d.writeFields a w
    if bit w 14 then d.gcReq (bits w 13 0) else d
  | _ => d.writeFields a w

/-- MAT_WIDTH_LO or _HI, from bank `b0` on: a write that sets 0b11 is discarded whole (R309). -/
def Dev.writeWidths (d : Dev) (a w b0 : Nat) : Dev :=
  let ws := (List.range 16).map fun k => bits w (2 * k + 1) (2 * k)
  if ws.contains 3 then d
  else (d.writeFields a w).setWidths (d.mat.widths.take b0 ++ ws ++ d.mat.widths.drop (b0 + 16))

/-- MAT: widths, entries and diagnostic searches (R293, R299, R300, R309). -/
def Dev.writeMat (d : Dev) (a w : Nat) : Dev :=
  match a with
  | 0x80000 => d.writeWidths a w 0
  | 0x80004 => d.writeWidths a w 16
  | 0x80024 => d.entCtl w
  | 0x800E8 =>
    let d := d.writeFields a (d.orKeep a w 2 1 2 3)
    if bit w 0 then d.diagSearch else d
  | _ => d.writeFields a w

/-- ROD and LGE (R306, R310, R319, R331). -/
def Dev.writeRod (d : Dev) (i : Iface) (a w : Nat) : Dev :=
  match a with
  | 0x90000 =>
    let d := d.writeFields a w
    if bit w 0 then d.rodCheck else d
  | 0x90208 =>
    let d := d.writeFields a w
    let (bank, index) := d.entSel
    if bit w 0 then d.dirChange false i.param (bits w 5 4) bank index (d.entData bank)
    else if bit w 1 then d.dirChange true i.param (bits w 5 4) bank index (d.entData bank)
    else d
  | _ => d.writeFields a w

/-- EVJ (R337, R338, R340, R341). -/
def Dev.writeEvj (d : Dev) (i : Iface) (a w : Nat) : Dev :=
  match a with
  | 0xA0000 =>
    let d := d.jrnPolicy (bits w 6 4) (bits w 0 0) i.param
    if bit w 8 then d.persistNow else d
  | 0xA0028 =>
    let d := d.writeFields a w
    if bit w 0 then d.journalRd else d
  | _ => d.writeFields a w

/-- FWC (R342, R351, R352, R354). Serving a watchdog restarts its period, which WDOG_EXPIRY ends. -/
def Dev.writeFwc (d : Dev) (nv : Secure) (i : Iface) (a w : Nat) : Dev :=
  match a with
  | 0xB0014 => (if bit w 31 then d.wdogKick (bits w 30 30) else d).writeFields a (d.orKeep a w 15 0 10 1000)
  | 0xB0020 => d.fwPolicy a w i.param
  | 0xB0024 => d.fwPolicy a w i.param
  | 0xB0028 => d.fwPolicy a w i.param
  | 0xB002C => d.fwPolicy a w i.param
  | 0xB0040 => d.loadCtl nv w
  | 0xB0048 => d.loadData w
  | _ => d.writeFields a w

/-- CHIP, PWR, CLK and MGMT (R37, R38, R62, R361). A reset asked for in band begins only after its REG_WRITE's answer, so that
the word itself does nothing yet (R62). -/
def Dev.writeLow (d : Dev) (i : Iface) (a w : Nat) : Dev :=
  match a with
  | 0x40 => if i.isInBand then d else d.rstCtl w i
  | 0x1000 => d.pwrReq w i
  | 0x4100 => d.imgCtl w i
  | 0x4108 => d.imgData w i
  | _ => d.writeFields a w

/-- What a write that is not refused does. -/
def Dev.writeReg (d : Dev) (nv : Secure) (i : Iface) (a w : Nat) : Secure × Dev :=
  if 0x60000 ≤ a ∧ a < 0x70000 then d.writeSec nv a w
  else
    (nv,
      if 0x3000 ≤ a ∧ a < 0x4000 then d.writeSup a w
      else if a < 0x10000 then d.writeLow i a w
      else if a < 0x14000 then d.writeEp ((a - 0x10000) / 0x1000) a w
      else if a < 0x20000 then
        (if a = 0x1800C ∧ bits w 31 16 ≤ bits w 15 0 then d else d.writeFields a w)
      else if a < 0x30000 then d.writeDkt a w
      else if a < 0x40000 then d.writeCqe i a w
      else if a < 0x50000 then d.writeIdx a w
      else if a = 0x50008 then d.nsPolicyWrite w i.param
      else if a < 0x70000 then d.writeFields a w
      else if a < 0x80000 then d.writeFmm a w
      else if a < 0x90000 then d.writeMat a w
      else if a < 0xA0000 then d.writeRod i a w
      else if a < 0xB0000 then d.writeEvj i a w
      else d.writeFwc nv i a w)

/-- Write a word to the register at an address by an interface (R364, R386, R388). -/
def Dev.regWrite (d : Dev) (nv : Secure) (i : Iface) (a w : Nat) : Wrote × Secure × Dev :=
  match d.wholeRefusal i a w with
  | some cause => (.refused cause, nv, d.refuse i cause a)
  | none =>
    if (d.view nv a).isNone then (.ok, nv, d)
    else if d.regOff a then (.domain, nv, d.offAccess a)
    else if i.isInBand ∧ spiOnly a then (.ok, nv, d.refuse i 2 a)
    else
      let spoils := i.isInBand && a == 0x4100 && (d.regN a ^^^ w) &&& imgSpiBits != 0
      let d := if spoils then d.refuse i 2 a else d
      let busy := i.isInBand && a == 0x4100 && bit w 0 && d.imgOpenBusy i
      let (nv, d) := d.writeReg nv i a w
      (if busy then .busy else .ok, nv, d)

/-! ## SPI frames (R389 to R392) -/

/-- The STATUS that the next frame carries for a write (R391). -/
def Wrote.spiStatus : Wrote → Nat
  | .ok => 0
  | .refused 1 => 5
  | .refused _ => 6
  | .domain => 7
  | .busy => 0

/-- Whether the SPI logic is out of reset: the device is powered and RESET_N does not hold it (R389, R396). -/
def Dev.spiUp (d : Dev) : Bool := d.life.powered && !(d.life.phase == .reset && d.pins.resetLow)

/-- The nine bytes that the device returns while a frame runs: the previous frame's response (R390, R391). -/
def Dev.spiResponse (d : Dev) : Bytes :=
  let body := match d.spi with
    | none => be 1 0x0F ++ be 3 0 ++ be 4 0xEF5A1664
    | some p => be 1 p.status ++ be 3 p.addr ++ be 4 p.data
  body ++ be 1 (crc8 body)

/-- A frame that is not acted on: `k` is its counter, 1 CRC, 2 LENGTH, 3 CMD or ADDR (R391, R398). -/
def Dev.spiError (d : Dev) (status k addr : Nat) : Dev :=
  let (c, l, m) := d.spiErrs
  let errs := (c + b2n (k == 1), l + b2n (k == 2), m + b2n (k == 3))
  let d := ((d.count (spiCnt k)).raise (irqMgmt 3))
  let d := { d with spi := some ⟨status, addr, 0⟩, spiErrs := errs }
  if (d.recent evSpiErr.code).isEmpty then
    { d.logLimited evSpiErr 1 fun _ => be 4 errs.1 ++ be 4 errs.2.1 ++ be 4 errs.2.2 with spiErrs := (0, 0, 0) }
  else d

/-- The fault of a frame: LENGTH, then CRC, CMD and ADDR (R391); its STATUS and counter. -/
def spiFault (clocks : Nat) (mosi : Bytes) : Option (Nat × Nat) :=
  let cmd := num mosi 0 1
  if clocks ≠ 72 ∨ mosi.length ≠ 9 then some (2, 2)
  else if crc8 (mosi.take 8) ≠ num mosi 8 1 then some (1, 1)
  else if cmd ≠ 0x5A ∧ cmd ≠ 0x3C ∧ cmd ≠ 0xC3 then some (3, 3)
  else if num mosi 1 3 % 4 ≠ 0 then some (4, 3)
  else none

/-- SPI_CS_N rises after a frame: it acts, or is counted as an error (R390 to R392). A read does not see its own frame
counted (R13). -/
def Dev.spiFrame (d : Dev) (nv : Secure) (clocks : Nat) (mosi : Bytes) : Secure × Dev :=
  if !d.spiUp then (nv, d)
  else
    let a := num mosi 1 3
    let w := num mosi 4 4
    match spiFault clocks mosi with
    | some (status, k) => (nv, d.spiError status k (if k = 3 then a else 0))
    | none =>
      match num mosi 0 1 with
      | 0x3C =>
        let off := d.regOff a && (d.view nv a).isSome
        let (v, d) := d.regRead nv .spi a
        (nv, { d.count (spiCnt 0) with spi := some ⟨if off then 7 else 0, a, v⟩, readData := BitVec.ofNat 32 v })
      | 0xC3 =>
        let (r, nv, d) := (d.count (spiCnt 0)).regWrite nv .spi a w
        (nv, { d with spi := some ⟨r.spiStatus, a, w⟩ })
      | _ => (nv, { d.count (spiCnt 0) with spi := some ⟨0, a, 0⟩ })

/-! ## REG_READ and REG_WRITE (R393) -/

/-- Read `n` words from an address on, in ascending order. -/
def Dev.readWords (nv : Secure) (i : Iface) (a : Nat) : Nat → Dev → Bytes × Dev
  | 0, d => ([], d)
  | n + 1, d =>
    let (front, d) := Dev.readWords nv i a n d
    let (v, d) := d.regRead nv i (a + 4 * n)
    (front ++ be 4 v, { d with readData := BitVec.ofNat 32 v })

/-- The last word of an access lies in the register space (R393). -/
def regSpaceOk (a n : Nat) : Bool := a + 4 * n ≤ 0x1000000

/-- REG_READ of a context (R393). -/
def Dev.runRegRead (d : Dev) (nv : Secure) (ctx : Nat) : Dev :=
  match d.fresh ctx 0x60 with
  | none => d
  | some f =>
    let (a, n) := (num f.cmd.param 0 4, num f.cmd.param 4 4)
    if !regSpaceOk a n then d.finish ctx stMalformed 0 2
    else
      let (data, d) := Dev.readWords nv (.inBand f.cmd.session) a n d
      d.finishOk ctx 0 [] data

/-- Write words from an address on, in ascending order; whether one of them met an owned image window. -/
def Dev.writeWords (i : Iface) : List Bytes → Nat → Bool → Secure × Dev → Bool × Secure × Dev
  | [], _, busy, x => (busy, x)
  | w :: rest, a, busy, (nv, d) =>
    let (r, nv, d) := d.regWrite nv i a (num w 0 4)
    Dev.writeWords i rest (a + 4) (busy || r == .busy) (nv, d)

/-- The first word of a write that is refused whole: its cause and address. -/
def Dev.firstRefusal (d : Dev) (i : Iface) : List Bytes → Nat → Option (Nat × Nat)
  | [], _ => none
  | w :: rest, a =>
    match d.wholeRefusal i a (num w 0 4) with
    | some c => some (c, a)
    | none => d.firstRefusal i rest (a + 4)

/-- The word that a write from an address on carries for a register, where it reaches it. -/
def wordAt (ws : List Bytes) (a r : Nat) : Option Bytes := if a ≤ r ∧ (r - a) % 4 = 0 then ws[(r - a) / 4]? else none

/-- REG_WRITE of a context: refused whole, or written word by word; a reset that it asked for begins once its OK is sent
(R62, R393). -/
def Dev.runRegWrite (d : Dev) (nv : Secure) (ctx : Nat) : Secure × Dev :=
  match d.fresh ctx 0x61 with
  | none => (nv, d)
  | some f =>
    let a := num f.cmd.param 0 4
    let ws := chunks 4 f.cmd.value
    let i : Iface := .inBand f.cmd.session
    if !regSpaceOk a ws.length then (nv, d.finish ctx stMalformed 0 2)
    else
      match d.firstRefusal i ws a with
      | some (cause, at_) => (nv, (d.refuse i cause at_).finish ctx stNotAuthorised 0 0)
      | none =>
        let (busy, nv, d) := Dev.writeWords i ws a false (nv, d)
        let d := if busy then d.finish ctx stBusy 0 5 else d.finishOk ctx 0 [] []
        (nv, match wordAt ws a 0x40 with
          | some w => d.rstCtl (num w 0 4) i
          | none => d)

end Sys2Proof.Machine
end

