-- ==== Sys2Proof/Machine/State.lean ====
section
/-! DEFINITION. The state of the DLR-1664 as plain data, and what may stop it. -/

namespace Sys2Proof.Machine

/-- The whole machine: the commands that wait, first in first out; SEC's non-volatile store and fuses; everything
else. -/
structure State where
  pending : List Instr
  nv : Secure
  dev : Dev
  deriving DecidableEq, Repr

/-- Why a step could fault. No command of this block raises a fault: every command has an effect that the spec gives,
or is discarded. -/
inductive Fault where
  /-- An access to an address that does not exist. Nobody raises it (safe): an access to a register address that holds
  no register reads 0 or is discarded, and is recorded (R397). -/
  | noSuchAddress (addr : Nat)
  deriving DecidableEq, Repr

/-- Why a command is refused. -/
inductive Refusal where
  /-- Raised by Dispatch alone, for a command that has no meaning yet (safe): none is left. -/
  | notModelled (mnemonic : String)
  deriving DecidableEq, Repr

/-- The machine with its rails risen and RESET_N low: no command waits, SEC's store and the flash hold what they leave manufacture with
(log entries 12 and 13), every register is at its reset value, and the device is in phase RESET (R46, R51, R62). -/
def State.reset : State := { pending := [], nv := Secure.blank, dev := Dev.blank }

end Sys2Proof.Machine
end

