-- ==== Sys2Proof/Machine/Exec.lean ====
section
/-! DEFINITION. How a command's effect on the device and on SEC's store becomes the next state, and the register access
that every register row makes. -/

set_option cleanup.letToHave false

namespace Sys2Proof.Machine

/-- What SEC's store takes in beside a command's own effect: the device time with each reservation of a counter (R231),
and the erase marks of pending erases where a reset or a shutdown begins (R53, R215). -/
def Secure.follow (nv : Secure) (was d : Dev) : Secure :=
  let nv :=
    if d.vpl.reserved ≠ was.vpl.reserved ∨ d.cap.sctrReserved ≠ was.cap.sctrReserved then { nv with savedTime := d.now }
    else nv
  let begins :=
    (d.life.datapathDown && !was.life.datapathDown) ||
      (d.life.flush != .none && d.life.flush != .powerFail && was.life.flush == .none)
  if begins then nv.markErases d else nv

/-- The next state of a command that acts on the device and on SEC's store. -/
def State.run (s : State) (f : Dev → Secure → Secure × Dev) : Host.Outcome State Fault Refusal :=
  let (nv, d) := f s.dev s.nv
  .next { s with nv := nv.follow s.dev d, dev := d }

/-- The next state of a command that acts on the device alone. -/
def State.act (s : State) (f : Dev → Dev) : Host.Outcome State Fault Refusal := s.run fun d nv => (nv, f d)

/-- The next state of a command that acts where a condition holds, and is discarded where it does not. -/
def State.actIf (s : State) (c : Dev → Bool) (f : Dev → Dev) : Host.Outcome State Fault Refusal :=
  s.act fun d => d.when (c d) f

/-- The same for a command that acts on SEC's store too. -/
def State.runIf (s : State) (c : Dev → Bool) (f : Dev → Secure → Secure × Dev) : Host.Outcome State Fault Refusal :=
  s.run fun d nv => if c d then f d nv else (nv, d)

/-- Whether an interface can make a register access: SPI where its logic is out of reset, in band from an ESTABLISHED
session with the admin privilege while commands are dispatched, firmware while it runs (R62, R342, R389, R393). -/
def Dev.reaches (d : Dev) (i : Iface) : Bool :=
  match i with
  | .spi => d.spiUp
  | .inBand sid => d.admits && (d.session sid).any fun s => s.state == .established && bit s.priv 0
  | .firmware => d.coreUp && d.fw.running != .none && !d.life.coresDown
  | .device => false

/-- One write of a register by an interface; a reset that it asks for in band begins at once after it (R62, R388). -/
def Dev.regAct (d : Dev) (nv : Secure) (i : Iface) (a w : Nat) : Secure × Dev :=
  if !d.reaches i then (nv, d)
  else
    let (_, nv, d) := d.regWrite nv i a w
    match i with
    | .inBand sid => (nv, if a = 0x40 then d.rstCtl w (.inBand sid) else d)
    | _ => (nv, d)

/-- The bits of a register that a write sets: its RW and RWL fields (R12). -/
def fieldMask (a : Nat) : Nat :=
  match regRow a with
  | some r => r.rw ||| r.rwl
  | none => 0

/-- The word that sets some bits of a register and writes its RW and RWL fields with what they hold. -/
def Dev.setWord (d : Dev) (a w : Nat) : Nat := (d.regN a &&& fieldMask a) ||| w

/-- A write that sets some bits of a register and leaves its other fields as they are. -/
def Dev.regSet (d : Dev) (nv : Secure) (i : Iface) (a w : Nat) : Secure × Dev := d.regAct nv i a (d.setWord a w)

/-- One read of a register by an interface; `readData` takes the word (R12, R387). -/
def Dev.regLook (d : Dev) (nv : Secure) (i : Iface) (a : Nat) : Dev :=
  if !d.reaches i then d
  else
    let (v, d) := d.regRead nv i a
    { d with readData := BitVec.ofNat 32 v }

/-- One cycle of the 1.25 GHz core clock ends: what it left to report is reported, and the device's time goes on (R230,
R235, R365). Log entry 2. -/
def Dev.cycle (d : Dev) : Dev :=
  let d := d.reportStops.ctxEnd
  { d with cycles := d.cycles + 1, sec := { d.sec with time := d.sec.time.cycle } }

end Sys2Proof.Machine
end

