-- ==== Sys2Proof/Machine/Access.lean ====
section
/-! DEFINITION. The commands of register access over SPI and in band (R386 to R398). -/

namespace Sys2Proof.Machine

/-- The nine bytes of a frame on SPI_MOSI (R390). -/
def spiBytes (cmd addr data crc : Nat) : Bytes := be 1 cmd ++ be 3 addr ++ be 4 data ++ be 1 crc

/-- REG_READ: runs the dispatched REG_READ of a context (R393). -/
def execRegRead (ctx : Nat) (s : State) : Host.Outcome State Fault Refusal :=
  s.run fun d nv => (nv, d.runRegRead nv ctx)

/-- REG_WRITE: runs the dispatched REG_WRITE of a context (R393). -/
def execRegWrite (ctx : Nat) (s : State) : Host.Outcome State Fault Refusal := s.run fun d nv => d.runRegWrite nv ctx

/-- SPI_NOP: an SPI frame that is neither a READ nor a WRITE: a NOP where CMD is 0x5A (R390, R391). -/
def execSpiNop (clocks cmd addr data crc : Nat) (s : State) : Host.Outcome State Fault Refusal :=
  s.run fun d nv => d.spiFrame nv clocks (spiBytes cmd addr data crc)

/-- SPI_READ: an SPI READ frame (R390 to R392). -/
def execSpiRead (clocks addr data crc : Nat) (s : State) : Host.Outcome State Fault Refusal :=
  s.run fun d nv => d.spiFrame nv clocks (spiBytes 0x3C addr data crc)

/-- SPI_WRITE: an SPI WRITE frame (R390 to R392). -/
def execSpiWrite (clocks addr data crc : Nat) (s : State) : Host.Outcome State Fault Refusal :=
  s.run fun d nv => d.spiFrame nv clocks (spiBytes 0xC3 addr data crc)

/-- REG_WRITE_WORD: a word is written to the register at an address (R12, R388). -/
def execRegWriteWord (i : Iface) (a w : Nat) (s : State) : Host.Outcome State Fault Refusal :=
  s.run fun d nv => d.regAct nv i a w

/-- LATCHED_READ: the LO word of a register pair is read (R387). -/
def execLatchedRead (i : Iface) (a : Nat) (s : State) : Host.Outcome State Fault Refusal :=
  s.runIf (fun _ => latchesHi a) fun d nv => (nv, d.regLook nv i a)

/-- RC_READ: a register is read; its RC fields clear (R12, R13). -/
def execRcRead (i : Iface) (a : Nat) (s : State) : Host.Outcome State Fault Refusal :=
  s.run fun d nv => (nv, d.regLook nv i a)

end Sys2Proof.Machine
end

