-- ==== Sys2Proof/Machine/Dkt.lean ====
section
/-! DEFINITION. The commands of Dialur Key Transport (R86 to R108). -/

namespace Sys2Proof.Machine

/-- Take a packet of a type out of the pool, its cells freed, and act on it; while nothing is admitted it stays. -/
def Dev.onPacket (d : Dev) (pid type : Nat) (f : Dev → RxPkt → Dev) : Dev :=
  if !d.admits then d
  else
    match d.takePkt pid type false with
    | some (k, d) => f d k
    | none => d

/-- The same for a packet that has to belong to a session; `keep` leaves its cells held. One that matches no session, or
carries another number or epoch, is dropped and counted (R89). -/
def Dev.onSession (d : Dev) (pid type : Nat) (keep : Bool) (f : Dev → Nat → RxPkt → Dev) : Dev :=
  if !d.admits then d
  else
    match d.takePkt pid type keep with
    | none => d
    | some (k, d) =>
      match d.sessionOf k with
      | .ok sid => f d sid k
      | .error c => (if keep then d.freeCells k.cells else d).count (dktCnt c)

/-- OPEN: an OPEN packet is taken from the pool (R90, R93). -/
def execOpenPkt (pid : Nat) (s : State) : Host.Outcome State Fault Refusal :=
  s.act fun d => d.onPacket pid 2 Dev.openPkt

/-- PROOF: a PROOF packet is taken from the pool (R92, R94). -/
def execProofPkt (pid : Nat) (s : State) : Host.Outcome State Fault Refusal :=
  s.act fun d => d.onSession pid 4 false Dev.proofPkt

/-- OPEN_TICKET: an OPEN_TICKET packet is taken from the pool (R106). -/
def execOpenTicket (pid : Nat) (s : State) : Host.Outcome State Fault Refusal :=
  s.act fun d => d.onPacket pid 9 Dev.ticketPkt

/-- OPEN_TIMER_EXPIRY: the open timer of a session expires (R104). -/
def execOpenTimerExpiry (sid : Nat) (s : State) : Host.Outcome State Fault Refusal :=
  s.actIf (fun d => d.admits) fun d => d.openExpired sid

/-- DATA: a DATA packet is taken from the pool (R95 to R98). -/
def execDataPkt (pid : Nat) (s : State) : Host.Outcome State Fault Refusal :=
  s.act fun d => d.onSession pid 0 true Dev.seqPkt

/-- ACK: an ACK packet is taken from the pool (R100, R101). -/
def execAckPkt (pid : Nat) (s : State) : Host.Outcome State Fault Refusal :=
  s.act fun d => d.onSession pid 1 false Dev.ackPkt

/-- KEEPALIVE: a KEEPALIVE packet is taken from the pool (R102). -/
def execKeepalivePkt (pid : Nat) (s : State) : Host.Outcome State Fault Refusal :=
  s.act fun d => d.onSession pid 7 false Dev.ackPkt

/-- CLOSE: a CLOSE packet is taken from the pool (R104). -/
def execClosePkt (pid : Nat) (s : State) : Host.Outcome State Fault Refusal :=
  s.act fun d => d.onSession pid 8 true Dev.seqPkt

/-- RETX_TIMEOUT: the retransmission timer of a session expires (R100). -/
def execRetxTimeout (sid : Nat) (s : State) : Host.Outcome State Fault Refusal :=
  s.actIf (fun d => d.admits) fun d => d.retxTimeout sid

/-- KEEPALIVE_SEND: a session has sent nothing for KA_INTERVAL (R102). -/
def execKeepaliveSend (sid : Nat) (s : State) : Host.Outcome State Fault Refusal :=
  s.actIf (fun d => d.admits) fun d => d.kaSend sid

/-- KEEPALIVE_LOSS: nothing has come on a session for KA_LIMIT intervals (R102). -/
def execKeepaliveLoss (sid : Nat) (s : State) : Host.Outcome State Fault Refusal :=
  s.actIf (fun d => d.admits) fun d => d.kaLoss sid

/-- SESS_KILL: DKT_SESS_KILL is written with the key (R103). -/
def execSessKill (i : Iface) (sid : Nat) (s : State) : Host.Outcome State Fault Refusal :=
  s.run fun d nv => d.regAct nv i 0x20018 (0xD1A10000 + sid % 4096)

/-- CHALLENGE: a CHALLENGE answers this device's own open (R91). -/
def execChallengePkt (pid : Nat) (s : State) : Host.Outcome State Fault Refusal :=
  s.act fun d => d.onSession pid 3 false Dev.challengePkt

/-- ACCEPT: an ACCEPT answers this device's own open (R92). -/
def execAcceptPkt (pid : Nat) (s : State) : Host.Outcome State Fault Refusal :=
  s.act fun d => d.onSession pid 5 false Dev.acceptPkt

/-- REFUSE: a REFUSE answers this device's own open (R315). -/
def execRefusePkt (pid : Nat) (s : State) : Host.Outcome State Fault Refusal :=
  s.act fun d => d.onSession pid 6 false fun d sid _ => d.refusePkt sid

end Sys2Proof.Machine
end

