-- ==== Sys2Proof/Machine/Firmware.lean ====
section
/-! DEFINITION. The commands of firmware and its update (R342 to R354). -/

namespace Sys2Proof.Machine

/-- FW_STAGE: runs the dispatched FW_STAGE of a context (R346). -/
def execFwStage (ctx : Nat) (s : State) : Host.Outcome State Fault Refusal :=
  s.run fun d nv => (nv, d.runFwStage nv ctx)

/-- FW_STAGE_WRITE_DONE: the staging write ends; `ok` that it reads back (R347). -/
def execFwStageWriteDone (ok : Bool) (s : State) : Host.Outcome State Fault Refusal :=
  s.actIf (fun d => d.coreUp && d.life.flush == .none) fun d => d.stageDone ok

/-- FW_ACTIVATE: runs the dispatched FW_ACTIVATE of a context (R349). -/
def execFwActivate (ctx : Nat) (s : State) : Host.Outcome State Fault Refusal :=
  s.run fun d nv => (nv, d.runFwActivate nv ctx)

/-- FW_READY: the new firmware reports ready (R349). -/
def execFwReady (s : State) : Host.Outcome State Fault Refusal := s.act fun d => d.fwReady

/-- FW_READY_TIMEOUT: the new firmware is not ready 150 ms into the pause (R350). -/
def execFwReadyTimeout (s : State) : Host.Outcome State Fault Refusal := s.act fun d => d.fwReadyTimeout

/-- FW_LOAD_OPEN: FWC_LOAD_CTL.OPEN is written over SPI (R352). -/
def execFwLoadOpen (s : State) : Host.Outcome State Fault Refusal := s.run fun d nv => d.regAct nv .spi 0xB0040 1

/-- FW_LOAD_DATA: FWC_LOAD_DATA is written over SPI (R352). -/
def execFwLoadData (w : Nat) (s : State) : Host.Outcome State Fault Refusal :=
  s.run fun d nv => d.regAct nv .spi 0xB0048 w

/-- FW_LOAD_GO: FWC_LOAD_CTL.GO is written over SPI (R352). -/
def execFwLoadGo (s : State) : Host.Outcome State Fault Refusal := s.run fun d nv => d.regAct nv .spi 0xB0040 2

/-- FW_LOAD_ABORT: FWC_LOAD_CTL.ABORT is written over SPI (R352). -/
def execFwLoadAbort (s : State) : Host.Outcome State Fault Refusal := s.run fun d nv => d.regAct nv .spi 0xB0040 4

/-- WDOG_KICK: firmware writes FWC_WDOG.KICK for a cluster (R351). -/
def execWdogKick (cluster : Nat) (s : State) : Host.Outcome State Fault Refusal :=
  s.run fun d nv => d.regSet nv .firmware 0xB0014 (2 ^ 31 + cluster % 2 * 2 ^ 30)

/-- WDOG_EXPIRY: a cluster has missed its watchdog period (R351). -/
def execWdogExpiry (cluster : Nat) (s : State) : Host.Outcome State Fault Refusal :=
  s.act fun d => d.wdogExpiry cluster

/-- FW_POLICY_WRITE: the policy register `k` (0 GC_AB, 1 GC_C, 2 AREF, 3 PATROL) is written (R342). -/
def execFwPolicyWrite (i : Iface) (k w : Nat) (s : State) : Host.Outcome State Fault Refusal :=
  s.runIf (fun _ => decide (k < 4)) fun d nv => d.regAct nv i (0xB0020 + 4 * k) w

end Sys2Proof.Machine
end

