-- ==== Sys2Proof/Machine/Images.lean ====
section
/-! DEFINITION. The commands of the Aeduc image window (R33 to R42). -/

namespace Sys2Proof.Machine

/-- IMG_OPEN: MGMT_IMG_CTL.OPEN is written (R37, R39). -/
def execImgOpen (i : Iface) (s : State) : Host.Outcome State Fault Refusal := s.run fun d nv => d.regSet nv i 0x4100 1

/-- IMG_DATA: four image bytes are written (R39). -/
def execImgData (i : Iface) (w : Nat) (s : State) : Host.Outcome State Fault Refusal :=
  s.run fun d nv => d.regAct nv i 0x4108 w

/-- IMG_APPLY: MGMT_IMG_CTL.APPLY is written (R39). -/
def execImgApply (i : Iface) (s : State) : Host.Outcome State Fault Refusal :=
  s.run fun d nv => d.regSet nv i 0x4100 2

/-- IMG_STORE: MGMT_IMG_CTL.STORE is written (R39, R40). -/
def execImgStore (i : Iface) (s : State) : Host.Outcome State Fault Refusal :=
  s.run fun d nv => d.regSet nv i 0x4100 4

/-- IMG_ABORT: MGMT_IMG_CTL.ABORT is written (R38, R39). -/
def execImgAbort (i : Iface) (s : State) : Host.Outcome State Fault Refusal :=
  s.run fun d nv => d.regSet nv i 0x4100 8

/-- IMG_CHECK_DONE: the staged checks of the received image end (R33 to R36). -/
def execImgCheckDone (s : State) : Host.Outcome State Fault Refusal :=
  s.runIf (fun d => d.coreUp && d.life.flush == .none) fun d nv => d.imgChecked nv

/-- IMG_STORE_DONE: the flash copy is written and read back (R39, R40). -/
def execImgStoreDone (s : State) : Host.Outcome State Fault Refusal :=
  s.actIf (fun d => d.coreUp && d.life.flush == .none) fun d => d.imgStored

end Sys2Proof.Machine
end

