-- ==== Sys2Proof/Machine/Keys.lean ====
section
/-! DEFINITION. The commands of SEC: keys, alarms, MACsec and trusted time (R208 to R235). -/

namespace Sys2Proof.Machine

/-- Whether SEC can write the key store: from phase IMAGE on, and before event 4 of a power-fail flush (R48, R56, R218,
R235). -/
def Dev.secOn (d : Dev) : Bool := d.mediaUp && d.flushBefore 4

/-- KEYSLOT_LOAD: runs the dispatched KEYSLOT_LOAD of a context (R211). -/
def execKeyslotLoad (ctx : Nat) (s : State) : Host.Outcome State Fault Refusal :=
  s.run fun d nv => (nv, d.runKeyLoad nv ctx)

/-- KEYSTORE_COMMIT: both key-store copies have committed the oldest load (R212, R214). -/
def execKeystoreCommit (s : State) : Host.Outcome State Fault Refusal :=
  s.runIf (fun d => d.secOn) fun d nv => d.keystoreCommit nv

/-- KEYSLOT_ERASE: runs the dispatched KEYSLOT_ERASE of a context (R215). -/
def execKeyslotErase (ctx : Nat) (s : State) : Host.Outcome State Fault Refusal := s.act fun d => d.runKeyErase ctx

/-- KLOAD_DATA: SEC_KLOAD_DATA is written over SPI (R211). -/
def execKloadData (w : Nat) (s : State) : Host.Outcome State Fault Refusal :=
  s.run fun d nv => d.regAct nv .spi 0x60084 w

/-- KLOAD_GO: SEC_KLOAD_CTL.GO is written over SPI (R211). -/
def execKloadGo (slot policy priv : Nat) (s : State) : Host.Outcome State Fault Refusal :=
  s.run fun d nv => d.regAct nv .spi 0x60080 (2 ^ 31 + policy % 8 * 2 ^ 24 + priv % 256 * 2 ^ 16 + slot % 512)

/-- ALARM: tamper sources trip; `active` are those whose condition holds at the present sample (R219 to R222). With no
source in `src` it is such a sample alone (R236). -/
def execAlarm (src active : Nat) (s : State) : Host.Outcome State Fault Refusal :=
  s.runIf (fun d => d.life.powered) fun d nv => d.alarm nv src active

/-- CRYPTO_ERASE_DONE: both key-store copies have been erased (R222). -/
def execCryptoEraseDone (s : State) : Host.Outcome State Fault Refusal :=
  s.runIf (fun d => d.mediaUp) fun d nv => (nv, d.cryptoErased nv)

/-- UNLOCK: SEC_UNLOCK_CTL.GO is written over SPI; `sources` are those whose condition holds at the present sample
(R223). -/
def execUnlock (sources : Nat) (s : State) : Host.Outcome State Fault Refusal :=
  s.run fun d nv => ({ d with sec := { d.sec with sources := sources % 16 } }).regAct nv .spi 0x6001C 1

/-- UNLOCK_BLOCK_EXPIRY: 1 s has passed since a failed unlock (R223). -/
def execUnlockBlockExpiry (s : State) : Host.Outcome State Fault Refusal := s.act fun d => d.unlockBlockEnd

/-- SA_INSTALL: SEC_MSA_CTL.INSTALL is written (R225, R226). -/
def execSaInstall (i : Iface) (s : State) : Host.Outcome State Fault Refusal :=
  s.run fun d nv => d.regSet nv i 0x60104 0x80000000

/-- SA_CLEAR: SEC_MSA_CTL.CLEAR is written (R229). -/
def execSaClear (i : Iface) (s : State) : Host.Outcome State Fault Refusal :=
  s.run fun d nv => d.regSet nv i 0x60104 0x40000000

/-- SA_ACTIVATE: SEC_MSA_CTL.ACTIVATE is written (R227). -/
def execSaActivate (i : Iface) (s : State) : Host.Outcome State Fault Refusal :=
  s.run fun d nv => d.regSet nv i 0x60104 0x20000000

/-- TOD_ARM: SEC_TOD_NEXT_HI is written (R230). -/
def execTodArm (i : Iface) (w : Nat) (s : State) : Host.Outcome State Fault Refusal :=
  s.run fun d nv => d.regAct nv i 0x6009C w

/-- PPS_EDGE: a rising edge of PPS_IN (R230, R231). -/
def execPpsEdge (s : State) : Host.Outcome State Fault Refusal := s.actIf (fun d => d.coreUp) fun d => d.ppsEdge

/-- SRC_LOST_SET: SEC_TOD_CTL.SRC_LOST is written 1 (R231). -/
def execSrcLostSet (i : Iface) (s : State) : Host.Outcome State Fault Refusal :=
  s.run fun d nv => d.regSet nv i 0x600A0 0x80000000

/-- TIME_HOLDOVER: no armed edge has come for 2.5 s (R231). -/
def execTimeHoldover (s : State) : Host.Outcome State Fault Refusal :=
  s.actIf (fun d => d.coreUp) fun d => d.holdover 0

/-- TIME_UNTRUSTED: holdover reaches HOLD_LIMIT (R231). -/
def execTimeUntrusted (s : State) : Host.Outcome State Fault Refusal := s.actIf (fun d => d.coreUp) fun d => d.untrust

/-- TIME_SAVE: 60 s have passed since SEC saved the time (R231). -/
def execTimeSave (s : State) : Host.Outcome State Fault Refusal :=
  s.runIf (fun d => d.coreUp) fun d nv => ({ nv with savedTime := d.now }, d)

/-- PPS_OUT_RISE: a whole second of device time begins (R230). -/
def execPpsOutRise (s : State) : Host.Outcome State Fault Refusal :=
  s.actIf (fun d => d.coreUp) fun d => d.ppsOut true

/-- PPS_OUT_FALL: PPS_OUT has been high for 100 ms (R230). -/
def execPpsOutFall (s : State) : Host.Outcome State Fault Refusal :=
  s.actIf (fun d => d.coreUp) fun d => d.ppsOut false

/-- KEY_ERASE_COMMIT: the oldest erase is written and its slot is gone from both key-store copies (R215). -/
def execKeyEraseCommit (s : State) : Host.Outcome State Fault Refusal :=
  s.runIf (fun d => d.secOn) fun d nv => d.keyEraseCommit nv

end Sys2Proof.Machine
end

