-- ==== Sys2Proof/Machine/Leagues.lean ====
section
/-! DEFINITION. The commands of League operation (R312 to R331). -/

namespace Sys2Proof.Machine

/-- Run a dispatched League request of a context. -/
def Dev.onRequest (d : Dev) (ctx op : Nat) (f : Dev → Nat → Cmd → Dev) : Dev :=
  match d.fresh ctx op with
  | some x => f d ctx x.cmd
  | none => d

/-- Take the first packet of a message that wraps a command in an opcode: LG_RELAY or LG_REPLICATE (R314). -/
def Dev.onWrapped (d : Dev) (pid op : Nat) : Dev :=
  match d.rx.find pid with
  | some k => if k.hdr.som ∧ num k.payload 0 1 = op then d.onSession pid 0 true Dev.seqPkt else d
  | none => d

/-- The response to a relayed command goes to the host (R325). -/
def Dev.relayAnswer (d : Dev) (sid tag : Nat) : Dev :=
  match d.takeAnswer sid tag with
  | some (.relay ctx member, msg, d) => (d.relayAnswered ctx member msg).leaguePump
  | _ => d

/-- The mirror's answer ends a replication (R328). -/
def Dev.replicaAnswer (d : Dev) (sid tag : Nat) : Dev :=
  match d.takeAnswer sid tag with
  | some (.replicate ctx mirror, msg, d) => (d.replicaAnswered ctx mirror msg).leaguePump
  | _ => d

/-- LG_JOIN: runs the dispatched LG_JOIN of a context (R315). -/
def execLgJoin (ctx : Nat) (s : State) : Host.Outcome State Fault Refusal :=
  s.act fun d => d.onRequest ctx 0x68 Dev.join

/-- LG_KEEPALIVE: runs the dispatched LG_KEEPALIVE of a context (R316). -/
def execLgKeepalive (ctx : Nat) (s : State) : Host.Outcome State Fault Refusal :=
  s.act fun d => d.onRequest ctx 0x69 Dev.keepalive

/-- LG_DIR_SET: runs the dispatched LG_DIR_SET of a context (R319). -/
def execLgDirSet (ctx : Nat) (s : State) : Host.Outcome State Fault Refusal :=
  s.act fun d => d.onRequest ctx 0x6A Dev.dirSet

/-- LG_FENCE: runs the dispatched LG_FENCE of a context (R323). -/
def execLgFence (ctx : Nat) (s : State) : Host.Outcome State Fault Refusal :=
  s.act fun d => d.onRequest ctx 0x6B Dev.fence

/-- LG_REPLICATE: the first packet of an LG_REPLICATE is taken from the pool: a mirror runs the write that it carries
(R314, R327). -/
def execLgReplicate (pid : Nat) (s : State) : Host.Outcome State Fault Refusal := s.act fun d => d.onWrapped pid 0x6C

/-- LG_RELAY: the first packet of an LG_RELAY is taken from the pool: a primary runs the command that it carries
(R314, R325). -/
def execLgRelay (pid : Nat) (s : State) : Host.Outcome State Fault Refusal := s.act fun d => d.onWrapped pid 0x6D

/-- LG_LEAVE: runs the dispatched LG_LEAVE of a context (R317). -/
def execLgLeave (ctx : Nat) (s : State) : Host.Outcome State Fault Refusal :=
  s.act fun d => d.onRequest ctx 0x6E Dev.leave

/-- RELAY_RESPONSE: a member's response to a relayed command is whole (R325). -/
def execRelayResponse (sid tag : Nat) (s : State) : Host.Outcome State Fault Refusal :=
  s.act fun d => d.relayAnswer sid tag

/-- REPLICATE_RESPONSE: the mirror's answer to a replication is whole (R328). -/
def execReplicateResponse (sid tag : Nat) (s : State) : Host.Outcome State Fault Refusal :=
  s.act fun d => d.replicaAnswer sid tag

/-- LG_JOIN_RETRY: 100 ms have passed since a League open or join failed (R315). -/
def execLgJoinRetry (s : State) : Host.Outcome State Fault Refusal := s.actIf (fun d => d.admits) fun d => d.joinRetry

/-- LG_KEEPALIVE_SEND: 10 ms have passed since the last LG_KEEPALIVE (R316). -/
def execLgKeepaliveSend (s : State) : Host.Outcome State Fault Refusal :=
  s.actIf (fun d => d.admits) fun d => d.keepaliveSend

/-- LG_KEEPALIVE_MISS: 10 ms have passed without a keepalive of member `id` (R316, R317). -/
def execLgKeepaliveMiss (id : Nat) (s : State) : Host.Outcome State Fault Refusal :=
  s.actIf (fun d => d.admits) fun d => d.keepaliveMiss id

/-- DIR_COMMIT: LGE_DIR_CTL.COMMIT is written with POS (R319). -/
def execDirCommit (i : Iface) (pos : Nat) (s : State) : Host.Outcome State Fault Refusal :=
  s.run fun d nv => d.regAct nv i 0x90208 (pos % 4 * 16 + 1)

/-- DIR_CLEAR: LGE_DIR_CTL.CLEAR is written with POS (R319). -/
def execDirClear (i : Iface) (pos : Nat) (s : State) : Host.Outcome State Fault Refusal :=
  s.run fun d nv => d.regAct nv i 0x90208 (pos % 4 * 16 + 2)

/-- DIR_RESTORE: the lost rule entry at a unit address is rewritten (R320). -/
def execDirRestore (a : Nat) (s : State) : Host.Outcome State Fault Refusal :=
  s.actIf (fun d => d.coreUp) fun d => d.dirRestore a

end Sys2Proof.Machine
end

