-- ==== Sys2Proof/Machine/Ledgers.lean ====
section
/-! DEFINITION. The commands of Furlong, Fathom and Chain (R271 to R289). -/

namespace Sys2Proof.Machine

/-- STREAM_APPEND: runs the dispatched STREAM_APPEND of a context (R271, R272). -/
def execStreamAppend (ctx : Nat) (s : State) : Host.Outcome State Fault Refusal := s.act fun d => d.runAppend ctx

/-- STREAM_SCAN: runs the dispatched STREAM_SCAN of a context (R274, R275). -/
def execStreamScan (ctx : Nat) (s : State) (hdrs : List (Nat × Bytes) := []) : Host.Outcome State Fault Refusal :=
  s.act fun d => d.runScan ctx (d.badHeaders hdrs)

/-- FATHOM_PIN: runs the dispatched FATHOM_PIN of a context (R276). -/
def execFathomPin (ctx : Nat) (s : State) : Host.Outcome State Fault Refusal := s.act fun d => d.runPin ctx

/-- FATHOM_RELEASE: runs the dispatched FATHOM_RELEASE of a context (R279). -/
def execFathomRelease (ctx : Nat) (s : State) : Host.Outcome State Fault Refusal := s.act fun d => d.runRelease ctx

/-- CHAIN_APPEND: runs the dispatched CHAIN_APPEND of a context (R282, R283). -/
def execChainAppend (ctx : Nat) (s : State) : Host.Outcome State Fault Refusal := s.act fun d => d.runChainAppend ctx

/-- CHAIN_READ: runs the dispatched CHAIN_READ of a context (R285). -/
def execChainRead (ctx : Nat) (s : State) (hdrs : List (Nat × Bytes) := []) : Host.Outcome State Fault Refusal :=
  s.act fun d => d.runChainRead ctx (d.badHeaders hdrs)

/-- CHAIN_SEAL: runs the dispatched CHAIN_SEAL of a context (R283, R284). -/
def execChainSeal (ctx : Nat) (s : State) : Host.Outcome State Fault Refusal := s.act fun d => d.runChainSeal ctx

/-- CHAIN_EXPIRE: runs the dispatched CHAIN_EXPIRE of a context (R287). -/
def execChainExpire (ctx : Nat) (s : State) : Host.Outcome State Fault Refusal := s.act fun d => d.runChainExpire ctx

/-- WINDOW_TABLE_COMMIT: the oldest window-table write commits (R276, R279, R280). -/
def execWindowTableCommit (s : State) : Host.Outcome State Fault Refusal :=
  s.actIf (fun d => d.mediaOn) fun d => d.windowCommit

end Sys2Proof.Machine
end

