-- ==== Sys2Proof/Machine/Lookups.lean ====
section
/-! DEFINITION. The commands of the hash index (R161 to R184). -/

namespace Sys2Proof.Machine

/-- CHECKPOINT_BEGIN: the delta block number is a multiple of 8,192 (R175). -/
def execCheckpointBegin (s : State) : Host.Outcome State Fault Refusal :=
  s.actIf (fun d => d.mediaOn) fun d => d.checkpointBegin

/-- CHECKPOINT_COMMIT: the commit page is programmed and read back (R175). -/
def execCheckpointCommit (s : State) : Host.Outcome State Fault Refusal :=
  s.actIf (fun d => d.mediaOn) fun d => d.checkpointCommit

/-- CP_FORCE: IDX_CP_CTL.FORCE is written (R175). -/
def execCpForce (i : Iface) (s : State) : Host.Outcome State Fault Refusal :=
  s.run fun d nv => d.regAct nv i 0x40020 1

/-- RESCAN: IDX_CTL.RESCAN is written with the key (R179). -/
def execRescan (i : Iface) (s : State) : Host.Outcome State Fault Refusal :=
  s.run fun d nv => d.regAct nv i 0x40000 0xD1A10001

/-- INDEX_REBUILD_DONE: a rebuild or rescan of the index completes; the lists are what cannot be read (R179, R180). -/
def execIndexRebuildDone (pages blocks : List (Nat × Option Bytes)) (s : State) : Host.Outcome State Fault Refusal :=
  s.actIf (fun d => d.mediaOn) fun d => d.rebuildDone pages blocks

/-- PURGE_SWEEP_STEP: the purge sweep examines its next unit (R154, R181). -/
def execPurgeSweepStep (s : State) : Host.Outcome State Fault Refusal :=
  s.actIf (fun d => d.mediaOn) fun d => d.purgeStep

/-- SEGMENT_REMOVAL: the next stale segment entry of a deleted Extent object is removed (R146, R182). -/
def execSegmentRemoval (s : State) : Host.Outcome State Fault Refusal :=
  s.actIf (fun d => d.mediaOn) fun d => d.segmentRemoval

end Sys2Proof.Machine
end

