-- ==== Sys2Proof/Machine/Matching.lean ====
section
/-! DEFINITION. The commands of the match array and the Rod bus (R292 to R310). -/

namespace Sys2Proof.Machine

/-- MAT_ENT_WRITE: MAT_ENT_CTL.WRITE is written (R300). -/
def execMatEntWrite (i : Iface) (s : State) : Host.Outcome State Fault Refusal :=
  s.run fun d nv => d.regAct nv i 0x80024 1

/-- MAT_ENT_READ: MAT_ENT_CTL.READ is written (R300). -/
def execMatEntRead (i : Iface) (s : State) : Host.Outcome State Fault Refusal :=
  s.run fun d nv => d.regAct nv i 0x80024 2

/-- MAT_ENT_CLEAR: MAT_ENT_CTL.CLEAR is written (R300). -/
def execMatEntClear (i : Iface) (s : State) : Host.Outcome State Fault Refusal :=
  s.run fun d nv => d.regAct nv i 0x80024 4

/-- MAT_SEARCH: MAT_SRCH_CTL.GO is written with PROFILE (R299). -/
def execMatSearch (i : Iface) (profile : Nat) (s : State) : Host.Outcome State Fault Refusal :=
  s.run fun d nv => d.regAct nv i 0x800E8 (profile % 4 * 2 + 1)

/-- SCRUB_STEP: 256 core cycles have passed and the scrubber reads its next unit (R301). -/
def execScrubStep (r : ScrubRead) (s : State) : Host.Outcome State Fault Refusal :=
  s.actIf (fun d => d.coreUp) fun d => d.scrubStep r

/-- ROD_SLOT: a Rod slot begins; `word` is what a deputy receives in it (R303, R305). -/
def execRodSlot (word : Option Nat) (s : State) : Host.Outcome State Fault Refusal :=
  s.actIf (fun d => d.coreUp) fun d => d.rodSlot word

/-- ROD_TOKEN: a token arrives on MATCH_IN (R304). -/
def execRodToken (token : Nat) (s : State) : Host.Outcome State Fault Refusal :=
  s.actIf (fun d => d.coreUp) fun d => (d.rodToken token).leaguePump

/-- TOKEN_LOST: the oldest search's token is not back within 1,000 ns (R306). -/
def execTokenLost (s : State) : Host.Outcome State Fault Refusal :=
  s.actIf (fun d => d.coreUp) fun d => d.tokenLost.leaguePump

/-- ROD_FULL: the head sees ROD_FULL change its level (R305). -/
def execRodFull (low : Bool) (s : State) : Host.Outcome State Fault Refusal :=
  s.actIf (fun d => d.coreUp) fun d => d.modRod fun r => { r with full := low }

/-- ROD_ALIVE_UP: ROD_ALIVE has been high for 1 ms (R306). -/
def execRodAliveUp (s : State) : Host.Outcome State Fault Refusal := s.actIf (fun d => d.coreUp) fun d => d.aliveUp

/-- ROD_ALIVE_LOW: ROD_ALIVE goes low (R306). -/
def execRodAliveLow (s : State) : Host.Outcome State Fault Refusal :=
  s.actIf (fun d => d.coreUp) fun d => d.aliveLow.leaguePump

/-- ROD_CLK_LOST: a deputy has seen no ROD_CLK edge for 100 ns (R306). -/
def execRodClkLost (s : State) : Host.Outcome State Fault Refusal := s.actIf (fun d => d.coreUp) fun d => d.rodClkLost

/-- ROD_CHECK: ROD_CTL.CHECK is written (R306). -/
def execRodCheck (i : Iface) (s : State) : Host.Outcome State Fault Refusal :=
  s.run fun d nv => d.regSet nv i 0x90000 1

/-- ROD_CHECK_DONE: the line check finishes; `first` to `third` are the samples that the deputies returned, and `back` is
whether the tokens of the patterns came back (R306, R307). -/
def execRodCheckDone (first second third : List Nat) (back : Bool) (s : State) : Host.Outcome State Fault Refusal :=
  s.actIf (fun d => d.coreUp) fun d => d.checkDone [first, second, third] back

/-- ROD_CHECK_RETRY: 10 s have passed since a failed line check (R306). -/
def execRodCheckRetry (s : State) : Host.Outcome State Fault Refusal :=
  s.actIf (fun d => d.coreUp) fun d => d.checkRetry

end Sys2Proof.Machine
end

