-- ==== Sys2Proof/Machine/Media.lean ====
section
/-! DEFINITION. The commands of the flash media (R237 to R267). -/

namespace Sys2Proof.Machine

/-- HEALTH_READ: runs the dispatched HEALTH_READ of a context (R267). -/
def execHealthRead (ctx : Nat) (s : State) : Host.Outcome State Fault Refusal := s.act fun d => d.runHealth ctx

/-- GROUP_COMMIT: every die of the program group of Bushel `b` reports success (R238, R247). -/
def execGroupCommit (b : Nat) (s : State) : Host.Outcome State Fault Refusal :=
  s.actIf (fun d => d.mediaOn) fun d => d.groupCommit b

/-- STAGING_AGE_TIMER: the oldest staged data of head `h` has waited 1 s (R247). -/
def execStagingAgeTimer (h : Nat) (s : State) : Host.Outcome State Fault Refusal :=
  s.actIf (fun d => d.mediaOn) fun d => d.stagingAge h

/-- PARK_TIMEOUT: the parked Bushel `b` has had no head for 60 s (R248). -/
def execParkTimeout (b : Nat) (s : State) : Host.Outcome State Fault Refusal :=
  s.actIf (fun d => d.mediaOn) fun d => d.parkTimeout b

/-- PROG_FAIL: a program on a die of Bushel `b` fails (R260). -/
def execProgFail (b die : Nat) (s : State) : Host.Outcome State Fault Refusal :=
  s.actIf (fun d => d.mediaOn) fun d => d.progFailed b die

/-- ERASE_DONE: every block of Bushel `b` is erased (R252). -/
def execEraseDone (b : Nat) (s : State) : Host.Outcome State Fault Refusal :=
  s.actIf (fun d => d.mediaOn) fun d => d.eraseDone b

/-- ERASE_FAIL: an erase on a die of Bushel `b` fails (R252). -/
def execEraseFail (b die : Nat) (s : State) : Host.Outcome State Fault Refusal :=
  s.actIf (fun d => d.mediaOn) fun d => d.eraseFailed b die

/-- COLLECTION_DONE: the items of the victim `b` have been copied and committed; `bad` is the LOC of one that cannot
be read (R255, R261). -/
def execCollectionDone (b : Nat) (bad : Option Nat) (s : State) : Host.Outcome State Fault Refusal :=
  s.actIf (fun d => d.mediaOn) fun d => d.collectionDone b bad

/-- GC_REQ: FMM_GC_REQ.GO is written with BUSHEL (R254). -/
def execGcReq (i : Iface) (b : Nat) (s : State) : Host.Outcome State Fault Refusal :=
  s.run fun d nv => d.regAct nv i 0x7001C (0x4000 + b % 0x4000)

/-- FOLD_GO: FMM_CTL.FOLD_GO is written (R250). -/
def execFoldGo (i : Iface) (s : State) : Host.Outcome State Fault Refusal :=
  s.run fun d nv => d.regSet nv i 0x70000 0x100

/-- FOLD_STOP: FMM_CTL.FOLD_STOP is written (R250). -/
def execFoldStop (i : Iface) (s : State) : Host.Outcome State Fault Refusal :=
  s.run fun d nv => d.regSet nv i 0x70000 0x200

/-- WEAR_STEP: firmware calls a wear step (R258). -/
def execWearStep (s : State) : Host.Outcome State Fault Refusal := s.actIf (fun d => d.mediaOn) fun d => d.wearStep

/-- PATROL_STEP: patrol reads the next page set: most bits corrected in a codeword, codewords corrected, and what the
read gave (R264). -/
def execPatrolStep (corr cws : Nat) (r : MediaRead) (s : State) : Host.Outcome State Fault Refusal :=
  s.actIf (fun d => d.mediaOn) fun d => d.patrolStep corr cws r

/-- DIE_LOST: a die stops answering (R260). -/
def execDieLost (die : Nat) (s : State) : Host.Outcome State Fault Refusal :=
  s.actIf (fun d => d.mediaOn) fun d => (d.dieLost die).leaguePump

/-- STALE_WALK_DONE: the walk of the STALE Bushel `b` ends (R251). -/
def execStaleWalkDone (b : Nat) (s : State) : Host.Outcome State Fault Refusal :=
  s.actIf (fun d => d.mediaOn) fun d => d.staleWalkDone b

end Sys2Proof.Machine
end

