-- ==== Sys2Proof/Machine/Pipeline.lean ====
section
/-! DEFINITION. The commands of the value pipeline (R186 to R205). -/

namespace Sys2Proof.Machine

/-- SEGMENT_COMPRESSED: a CZ engine finishes its segment with a stream (R191, R192). -/
def execSegmentCompressed (engine : Nat) (stream : Bytes) (s : State) : Host.Outcome State Fault Refusal :=
  s.act fun d => d.compressed engine stream

/-- SEGMENT_SEALED: an AE lane finishes sealing its segment (R194). -/
def execSegmentSealed (lane : Nat) (s : State) : Host.Outcome State Fault Refusal := s.act fun d => d.sealed lane

/-- SEGMENT_CHECKED: the segment at a place of a context's read is read and checked (R201, R202). -/
def execSegmentChecked (ctx pos : Nat) (r : MediaRead) (s : State) : Host.Outcome State Fault Refusal :=
  s.act fun d => d.segmentChecked ctx pos r

end Sys2Proof.Machine
end

