-- ==== Sys2Proof/Machine/Ports.lean ====
section
/-! DEFINITION. The commands of the Ethernet ports (R64 to R82, R228). -/

namespace Sys2Proof.Machine

/-- LINK_SIGNAL_DETECT: signal is detected on every lane of port `n` (R66). -/
def execLinkSignalDetect (n : Nat) (s : State) : Host.Outcome State Fault Refusal := s.act fun d => d.signalDetect n

/-- POLARITY_TIMER: a lane's 2 ms polarity timer expires without lock (R65). -/
def execPolarityTimer (lane : Nat) (s : State) : Host.Outcome State Fault Refusal :=
  s.act fun d => d.polarityTimer lane

/-- POLARITY_ERROR_BLOCKS: more than 32 of 64 blocks of a lane in Q10 are error blocks (R65). -/
def execPolarityErrorBlocks (lane : Nat) (s : State) : Host.Outcome State Fault Refusal :=
  s.act fun d => d.errorBlocks lane

/-- LANE_LOCK: every lane of port `n` is locked; `fec` is the FEC lane found on each physical lane in S100 (R64, R66).
-/
def execLaneLock (n : Nat) (fec : List Nat) (s : State) : Host.Outcome State Fault Refusal :=
  s.act fun d => d.laneLock n fec

/-- LINK_HOLD_DONE: lock has held for 1 ms without fault (R66). -/
def execLinkHoldDone (n : Nat) (s : State) : Host.Outcome State Fault Refusal := s.act fun d => d.holdDone n

/-- LINK_FAULT: lock is lost (`cause` 0), or hi_ber (1) or a local fault (2) appears (R66). -/
def execLinkFault (n cause : Nat) (s : State) : Host.Outcome State Fault Refusal := s.act fun d => d.linkFault n cause

/-- LINK_SIGNAL_LOSS: signal is lost on a lane (R66). -/
def execLinkSignalLoss (lane : Nat) (s : State) : Host.Outcome State Fault Refusal := s.act fun d => d.signalLoss lane

/-- REMOTE_FAULT_RX: Remote Fault is received (R66). -/
def execRemoteFaultRx (n : Nat) (s : State) : Host.Outcome State Fault Refusal := s.act fun d => d.remoteFault n

/-- REMOTE_FAULT_CLEAR: no Remote Fault has been received for 1 ms (R66). -/
def execRemoteFaultClear (n : Nat) (s : State) : Host.Outcome State Fault Refusal := s.act fun d => d.remoteClear n

/-- RX_FRAME: a frame has been received (R67 to R71, R76, R77, R84, R89, R228). -/
def execRxFrame (f : Frame) (s : State) : Host.Outcome State Fault Refusal := s.act fun d => d.rxFrame f

/-- XOFF_REPEAT: half the XOFF quanta of port `n` have passed (R72). -/
def execXoffRepeat (n : Nat) (s : State) : Host.Outcome State Fault Refusal := s.act fun d => d.xoffRepeat n

/-- PAUSE_RX: a PAUSE frame has been received (R76). -/
def execPauseRx (f : Frame) (s : State) : Host.Outcome State Fault Refusal :=
  s.actIf (fun _ => f.isControl 0x0001) fun d => d.rxFrame f

/-- PFC_RX: a PFC frame has been received (R77). -/
def execPfcRx (f : Frame) (s : State) : Host.Outcome State Fault Refusal :=
  s.actIf (fun _ => f.isControl 0x0101) fun d => d.rxFrame f

/-- PAUSE_EXPIRY: the pause of port `n`, or of one of its priorities, expires (R76, R77). -/
def execPauseExpiry (n : Nat) (prio : Option Nat) (s : State) : Host.Outcome State Fault Refusal :=
  s.act fun d => d.pauseExpiry n prio

/-- TX_FRAME_START: port `n` may begin its next frame (R73, R78). -/
def execTxFrameStart (n : Nat) (s : State) : Host.Outcome State Fault Refusal := s.act fun d => d.txStart n

/-- TX_UNDERRUN: the FIFO of a cut-through frame ran empty after `sent` bytes (R74). -/
def execTxUnderrun (n sent : Nat) (s : State) : Host.Outcome State Fault Refusal := s.act fun d => d.txUnderrun n sent

/-- CT_RESTORE: EP0_TX_CTL.CT_RESTORE is written (R74). -/
def execCtRestore (i : Iface) (s : State) : Host.Outcome State Fault Refusal :=
  s.run fun d nv => d.regSet nv i 0x10004 0x20000

/-- STAT_CLEAR: EPn_STAT_CTL.CLEAR is written (R80). -/
def execStatClear (i : Iface) (n : Nat) (s : State) : Host.Outcome State Fault Refusal :=
  s.runIf (fun _ => decide (n < 4)) fun d nv => d.regAct nv i (epReg n 0x20) 1

end Sys2Proof.Machine
end

