-- ==== Sys2Proof/Machine/Power.lean ====
section
/-! DEFINITION. The commands of power domains, clocks and supplies (R355 to R377). -/

set_option cleanup.letToHave false

namespace Sys2Proof.Machine

/-- A clock is lost; the loss of SYSCLK trips the CLOCK source of SEC besides (R219, R368). -/
def Dev.loseClock (d : Dev) (nv : Secure) (c : Nat) : Secure × Dev :=
  if !d.life.powered then (nv, d)
  else
    let was := bit d.clocks.status 0
    let d := d.clkLost c
    if c = 0 ∧ was then d.alarm nv 2 (d.sec.sources ||| 2) else (nv, d)

/-- POWER_SET: runs the dispatched POWER_SET of a context (R358, R361, R362). -/
def execPowerSet (ctx : Nat) (s : State) : Host.Outcome State Fault Refusal := s.act fun d => d.runPowerSet ctx

/-- PWR_REQ: PWR_REQ.GO is written with DOMAIN `n` and STATE (R361, R362). -/
def execPwrReq (i : Iface) (n state : Nat) (s : State) : Host.Outcome State Fault Refusal :=
  s.run fun d nv => d.regAct nv i 0x1000 (2 ^ 31 + n % 128 * 2 ^ 16 + state % 4)

/-- DOMAIN_DRAINED: the work inside domain `n` completes (R358). -/
def execDomainDrained (n : Nat) (s : State) : Host.Outcome State Fault Refusal := s.act fun d => d.domDrained n

/-- DOMAIN_SEQ_DONE: domain `n` reaches its requested state (R358, R361). -/
def execDomainSeqDone (n : Nat) (s : State) : Host.Outcome State Fault Refusal :=
  s.run fun d nv => (nv, d.domDone nv n)

/-- CLOCK_LOST: clock or PLL `c`, numbered as in CLK_STATUS, is lost (R219, R368). -/
def execClockLost (c : Nat) (s : State) : Host.Outcome State Fault Refusal := s.run fun d nv => d.loseClock nv c

/-- CLOCK_RESTORED: clock or PLL `c` returns (R368). -/
def execClockRestored (c : Nat) (s : State) : Host.Outcome State Fault Refusal :=
  s.actIf (fun d => d.life.powered) fun d => d.clkBack c

/-- RAIL_TRIP: a rail has been beyond a threshold for 10 µs (R376, R377). -/
def execRailTrip (rail : Nat) (beyond : Bool) (s : State) : Host.Outcome State Fault Refusal :=
  s.actIf (fun d => d.life.powered) fun d => d.railTrip rail beyond

end Sys2Proof.Machine
end

