-- ==== Sys2Proof/Machine/Queues.lean ====
section
/-! DEFINITION. The commands of arbitration, dispatch and timeouts (R115 to R121, R200). -/

namespace Sys2Proof.Machine

/-- ARB_WINDOW: a 1 ms arbitration window begins (R116). -/
def execArbWindow (s : State) : Host.Outcome State Fault Refusal := s.act fun d => d.arbWindow

/-- DISPATCH: one dispatch opportunity (R118, R120). -/
def execDispatch (s : State) : Host.Outcome State Fault Refusal := s.act fun d => d.dispatch.leaguePump

/-- COMMAND_TIMEOUT: the TIMEOUT of the queued command of arrival number `n` has passed (R121). -/
def execCommandTimeout (n : Nat) (s : State) : Host.Outcome State Fault Refusal :=
  s.actIf (fun d => d.admits) fun d => d.commandTimeout n

/-- STAGING_COMPLETE: the write in context `ctx` has every segment in place and commits (R17, R200). -/
def execStagingComplete (ctx : Nat) (s : State) : Host.Outcome State Fault Refusal :=
  s.act fun d => d.stagingComplete ctx

end Sys2Proof.Machine
end

