-- ==== Sys2Proof/Machine/Records.lean ====
section
/-! DEFINITION. The commands of the event journal (R332 to R341). -/

namespace Sys2Proof.Machine

/-- JOURNAL_READ: runs the dispatched JOURNAL_READ of a context (R339). -/
def execJournalRead (ctx : Nat) (s : State) (bad : List Nat := []) : Host.Outcome State Fault Refusal :=
  s.act fun d => (d.findBad bad).runJournalRead ctx

/-- JOURNAL_DRAIN: one part drains from the intake FIFO into the ring (R335). -/
def execJournalDrain (s : State) : Host.Outcome State Fault Refusal := s.actIf (fun d => d.coreUp) fun d => d.drain

/-- JOURNAL_PAGE_PROGRAM: the journal head programs a page of parts (R337, R338). -/
def execJournalPageProgram (s : State) : Host.Outcome State Fault Refusal :=
  s.actIf (fun d => d.flushBefore 4) fun d => d.pageProgram

/-- JOURNAL_PERSIST: EVJ_CTL.PERSIST is written (R337). -/
def execJournalPersist (i : Iface) (s : State) : Host.Outcome State Fault Refusal :=
  s.run fun d nv => d.regSet nv i 0xA0000 0x100

/-- JOURNAL_RD: EVJ_RD_CTL.GO is written (R340). -/
def execJournalRd (i : Iface) (s : State) (bad : List Nat := []) : Host.Outcome State Fault Refusal :=
  s.run fun d nv => (d.findBad bad).regAct nv i 0xA0028 1

end Sys2Proof.Machine
end

