-- ==== Sys2Proof/Machine/Spaces.lean ====
section
/-! DEFINITION. The commands of namespaces (R149 to R159). -/

namespace Sys2Proof.Machine

/-- NS_CREATE: runs the dispatched NS_CREATE of a context (R151). -/
def execNsCreate (ctx : Nat) (s : State) : Host.Outcome State Fault Refusal := s.act fun d => d.runNsCreate ctx

/-- NS_DELETE: runs the dispatched NS_DELETE of a context (R153). -/
def execNsDelete (ctx : Nat) (s : State) : Host.Outcome State Fault Refusal := s.act fun d => d.runNsDelete ctx

/-- NS_QUERY: runs the dispatched NS_QUERY of a context (R157, R158). -/
def execNsQuery (ctx : Nat) (s : State) : Host.Outcome State Fault Refusal := s.act fun d => d.runNsQuery ctx

/-- PURGE_DONE: the purge sweep of a namespace ends (R154). -/
def execPurgeDone (s : State) : Host.Outcome State Fault Refusal := s.actIf (fun d => d.mediaOn) fun d => d.purgeDone

/-- NS_POLICY_WRITE: VPL_NS_POLICY is written (R149, R207). -/
def execNsPolicyWrite (i : Iface) (w : Nat) (s : State) : Host.Outcome State Fault Refusal :=
  s.run fun d nv => d.regAct nv i 0x50008 w

/-- NS_TABLE_COMMIT: the namespace-table write of a context commits (R152, R153). -/
def execNsTableCommit (ctx : Nat) (s : State) : Host.Outcome State Fault Refusal := s.act fun d => d.nsTableCommit ctx

end Sys2Proof.Machine
end

