-- ==== Sys2Proof/Machine/Start.lean ====
section
/-! DEFINITION. The commands of starting, resets and the power-fail flush (R43 to R62, R348, R402). -/

namespace Sys2Proof.Machine

/-- POWER_ON: the rails rise with RESET_N low; the device holds in phase RESET (R51). -/
def execPowerOn (s : State) : Host.Outcome State Fault Refusal := s.act fun d => d.powerOn

/-- RESET_N_RISE: RESET_N rises and the straps are sampled (R43); `uv` and `ov` are masks of the rails outside their
thresholds then (R402). -/
def execResetNRise (straps uv ov : Nat) (s : State) : Host.Outcome State Fault Refusal :=
  s.act fun d => d.resetRise straps uv ov

/-- PIN_RESET: RESET_N has been low for 1 µs (R51). -/
def execPinReset (s : State) : Host.Outcome State Fault Refusal := s.run fun d nv => (nv, d.pinReset nv)

/-- DEVICE_RESET: CHIP_RST_CTL.DEVICE is written with the key (R51, R62); `straps` are the levels that the following
start samples (R43). -/
def execDeviceReset (i : Iface) (straps : Nat) (s : State) : Host.Outcome State Fault Refusal :=
  s.run fun d nv => ({ d with pins := { d.pins with straps := straps % 4 } }).regAct nv i 0x40 0xD1A10004

/-- DATAPATH_RESET: CHIP_RST_CTL.DATAPATH is written with the key (R51, R62). -/
def execDatapathReset (i : Iface) (s : State) : Host.Outcome State Fault Refusal :=
  s.run fun d nv => d.regAct nv i 0x40 0xD1A10002

/-- DATAPATH_RESET_DONE: the datapath reset completes (R51). -/
def execDatapathResetDone (s : State) : Host.Outcome State Fault Refusal := s.act fun d => d.datapathDone

/-- CORES_RESET: CHIP_RST_CTL.CORES is written with the key (R51, R52, R62). -/
def execCoresReset (i : Iface) (s : State) : Host.Outcome State Fault Refusal :=
  s.run fun d nv => d.regAct nv i 0x40 0xD1A10001

/-- CORES_RESET_DONE: the firmware runs again after a cores reset (R52). -/
def execCoresResetDone (s : State) : Host.Outcome State Fault Refusal := s.run fun d nv => (nv, d.coresResetDone nv)

/-- SHUTDOWN_FLUSH_DONE: the quiesce and flush of a pin reset, a device reset or an ordered shutdown reaches its
marker (R51). -/
def execShutdownFlushDone (s : State) : Host.Outcome State Fault Refusal := s.run fun d nv => d.shutdownDone nv

/-- PHASE_AON: phase AON completes; `pfHigh` that PWR_FAIL_N is found high (R46, R47). -/
def execPhaseAon (pfHigh : Bool) (s : State) : Host.Outcome State Fault Refusal :=
  s.run fun d nv => (nv, d.aonPhase nv pfHigh)

/-- PF_START_WAIT_DONE: PWR_FAIL_N has been high for 10 ms while the start waited in phase AON (R47). -/
def execPfStartWaitDone (s : State) : Host.Outcome State Fault Refusal := s.act fun d => d.pfWaitDone

/-- PHASE_ROM: phase ROM completes (R44, R46, R161). -/
def execPhaseRom (s : State) : Host.Outcome State Fault Refusal := s.run fun d nv => (nv, d.romPhase nv)

/-- PHASE_FW: phase FW completes; `copyOk` that a copy of a staged image reads back, `ms` the time that it took (R347,
R348). -/
def execPhaseFw (copyOk : Bool) (ms : Nat) (s : State) : Host.Outcome State Fault Refusal :=
  s.run fun d nv => d.fwDone nv copyOk ms

/-- PHASE_MEM: phase MEM completes (R46). -/
def execPhaseMem (s : State) : Host.Outcome State Fault Refusal := s.act fun d => d.memPhase

/-- PHASE_MEDIA: phase MEDIA completes; `badA` and `badB` that a key-store copy cannot be read (R48, R49, R218). -/
def execPhaseMedia (badA badB : Bool) (s : State) : Host.Outcome State Fault Refusal :=
  s.run fun d nv => d.mediaPhase nv badA badB

/-- PHASE_IMAGE: phase IMAGE completes: a flash copy is applied, or the device waits for an SPI image (R41, R42). -/
def execPhaseImage (s : State) : Host.Outcome State Fault Refusal := s.run fun d nv => d.imageDone nv

/-- PHASE_INDEX: phase INDEX completes; the lists are the checkpoint units and delta blocks that cannot be read (R177,
R178). -/
def execPhaseIndex (pages blocks : List (Nat × Option Bytes)) (s : State) : Host.Outcome State Fault Refusal :=
  s.act fun d => d.indexPhase pages blocks

/-- PHASE_META: phase META completes (R46, R48). -/
def execPhaseMeta (s : State) : Host.Outcome State Fault Refusal := s.run fun d nv => d.metaPhase nv

/-- PHASE_PORTS: phase PORTS completes (R46). -/
def execPhasePorts (s : State) : Host.Outcome State Fault Refusal := s.act fun d => d.portsPhase

/-- PHASE_RUN: the start reaches RUN and asserts READY (R46). -/
def execPhaseRun (s : State) : Host.Outcome State Fault Refusal := s.act fun d => d.runPhase

/-- PF_GLITCH: PWR_FAIL_N was low for less than 0.5 µs (R55). -/
def execPfGlitch (s : State) : Host.Outcome State Fault Refusal := s.act fun d => d.pfGlitch

/-- PWR_FAIL: a fall of PWR_FAIL_N is recognised (R55, R56). -/
def execPwrFail (s : State) : Host.Outcome State Fault Refusal := s.act fun d => d.pwrFail

/-- FLUSH_ADMISSION_STOP: event 3 of the power-fail flush: admission stops (R56). -/
def execFlushAdmissionStop (s : State) : Host.Outcome State Fault Refusal := s.act fun d => d.flushAdmission

/-- FLUSH_STAGING_CUTOFF: event 4: the staging cut-off (R56). -/
def execFlushStagingCutoff (s : State) : Host.Outcome State Fault Refusal := s.act fun d => d.flushCutoff

/-- FLUSH_DIES_READY: event 5: the dies are ready and the header is programmed (R56). -/
def execFlushDiesReady (s : State) : Host.Outcome State Fault Refusal := s.act fun d => d.flushDies

/-- FLUSH_STAGING_WRITTEN: event 6: the staging is written, with `retries` programs repeated (R56, R59). -/
def execFlushStagingWritten (retries : Nat) (s : State) : Host.Outcome State Fault Refusal :=
  s.act fun d => d.flushWritten retries

/-- FLUSH_METADATA_WRITTEN: event 7: deltas, windows, Chain heads, Furlong tails, counters and erase marks are written
(R56, R215). -/
def execFlushMetadataWritten (s : State) : Host.Outcome State Fault Refusal := s.run fun d nv => d.flushMetadata nv

/-- FLUSH_JOURNAL_WRITTEN: event 8: the journal and the PWR_FAIL record are written (R56). -/
def execFlushJournalWritten (s : State) : Host.Outcome State Fault Refusal := s.act fun d => d.flushRecords

/-- FLUSH_COMPLETE: event 9: the marker is programmed and read back (R56, R59). -/
def execFlushComplete (s : State) : Host.Outcome State Fault Refusal := s.run fun d nv => (nv, d.flushComplete nv)

/-- FLUSH_OVERTIME: the flush has run for 12 ms (R59). -/
def execFlushOvertime (s : State) : Host.Outcome State Fault Refusal := s.act fun d => d.flushLong

/-- RAILS_LOST: the rails leave specification; where staging was being written, its first `k` items are in flash (R49,
R59). -/
def execRailsLost (k : Nat) (s : State) : Host.Outcome State Fault Refusal := s.run fun d nv => (nv, d.railsLost nv k)

/-- HALT_EXIT: PWR_FAIL_N has been high for 10 ms in HALT (R60); `straps` are the levels that the start samples. -/
def execHaltExit (straps : Nat) (s : State) : Host.Outcome State Fault Refusal :=
  s.run fun d nv => (nv, d.haltExit nv straps)

/-- RAILS_IN_RANGE: every rail has been inside its thresholds for 1 ms (R402). -/
def execRailsInRange (s : State) : Host.Outcome State Fault Refusal := s.act fun d => d.railsInRange

end Sys2Proof.Machine
end

