-- ==== Sys2Proof/Machine/Supervision.lean ====
section
/-! DEFINITION. The commands of triggers, temperatures and the power-fail warning (R374 to R382, R400). -/

namespace Sys2Proof.Machine

/-- TRIG_SAMPLE: the microsecond's sample of trigger input `t`, in mV (R374). -/
def execTrigSample (t mv : Nat) (s : State) : Host.Outcome State Fault Refusal :=
  s.actIf (fun d => d.life.powered) fun d => d.trigSample t mv

/-- TRIG_FIRE: trigger `t` has read ACTIVE for its debounce (R277, R374). -/
def execTrigFire (t : Nat) (s : State) : Host.Outcome State Fault Refusal :=
  s.runIf (fun d => d.life.powered) fun d nv => d.trigFire nv t

/-- TRIG_FAULT: a fault state of trigger `t` has held for 10 ms (R375). -/
def execTrigFault (t : Nat) (s : State) : Host.Outcome State Fault Refusal :=
  s.actIf (fun d => d.life.powered) fun d => d.trigFault t

/-- TRIG_CLEAR: the faulted trigger `t` has read IDLE for 100 ms (R375). -/
def execTrigClear (t : Nat) (s : State) : Host.Outcome State Fault Refusal :=
  s.actIf (fun d => d.life.powered) fun d => d.trigClear t

/-- THERMAL_SAMPLE: the millisecond's samples of the thermal sites, in °C; none for a site that returned no sample
(R378). -/
def execThermalSample (temps : List (Option Int)) (s : State) : Host.Outcome State Fault Refusal :=
  s.actIf (fun d => d.life.powered) fun d => d.thermalSample temps

/-- THERMAL_SITE_FAIL: a thermal site has returned no sample for 10 ms (R379). -/
def execThermalSiteFail (site : Nat) (s : State) : Host.Outcome State Fault Refusal :=
  s.actIf (fun d => d.life.powered) fun d => (d.siteFailed site 0).suspension

/-- PF_STUCK: PWR_FAIL_N has been low for 5 s with every rail good (R380). -/
def execPfStuck (s : State) : Host.Outcome State Fault Refusal := s.act fun d => d.pfStuckNow

/-- PF_IGNORE_SET: SUP_PF_CTL is written over SPI with the key and IGNORE (R381). -/
def execPfIgnoreSet (s : State) : Host.Outcome State Fault Refusal :=
  s.run fun d nv => d.regAct nv .spi 0x3054 0xD1A10001

/-- LANE_STUCK: port `n` has been in SEEK for 10 s with signal on every lane (R382). -/
def execLaneStuck (n : Nat) (s : State) : Host.Outcome State Fault Refusal := s.act fun d => d.laneStuck n

/-- ACT_TIMEOUT: 50 ms have passed since ACT0 or ACT1 was last driven (R400). -/
def execActTimeout (n : Nat) (s : State) : Host.Outcome State Fault Refusal :=
  s.actIf (fun d => d.life.powered) fun d => d.actTimeout n

end Sys2Proof.Machine
end

