-- ==== Sys2Proof/Machine/Values.lean ====
section
/-! DEFINITION. The commands of Hash and Extent commands, quires and flushes (R128 to R146). -/

namespace Sys2Proof.Machine

/-- GET: runs the dispatched GET of a context (R140); `hdrs` are headers that the media give otherwise than stored. -/
def execGet (ctx : Nat) (hdrs : List (Nat × Bytes)) (s : State) : Host.Outcome State Fault Refusal :=
  s.act fun d => d.runGet ctx (d.badHeaders hdrs)

/-- PUT: runs the dispatched PUT of a context (R140). -/
def execPut (ctx : Nat) (s : State) : Host.Outcome State Fault Refusal := s.act fun d => d.runPut ctx

/-- DELETE: runs the dispatched DELETE of a context (R146, R168). -/
def execDelete (ctx : Nat) (s : State) : Host.Outcome State Fault Refusal := s.act fun d => d.runDelete ctx

/-- EXISTS: runs the dispatched EXISTS of a context (R140). -/
def execExistsKey (ctx : Nat) (hdrs : List (Nat × Bytes)) (s : State) : Host.Outcome State Fault Refusal :=
  s.act fun d => d.runExists ctx (d.badHeaders hdrs)

/-- CAS_PUT: runs the dispatched CAS_PUT of a context (R141). -/
def execCasPut (ctx : Nat) (s : State) : Host.Outcome State Fault Refusal := s.act fun d => d.runCas ctx

/-- GET_RANGE: runs the dispatched GET_RANGE of a context (R140). -/
def execGetRange (ctx : Nat) (hdrs : List (Nat × Bytes)) (s : State) : Host.Outcome State Fault Refusal :=
  s.act fun d => d.runGetRange ctx (d.badHeaders hdrs)

/-- ITERATE: runs the dispatched ITERATE of a context (R142, R183). -/
def execIterate (ctx : Nat) (hdrs : List (Nat × Bytes)) (s : State) : Host.Outcome State Fault Refusal :=
  s.act fun d => d.runIterate ctx (d.badHeaders hdrs)

/-- EXTENT_WRITE: runs the dispatched EXTENT_WRITE of a context (R144). -/
def execExtentWrite (ctx : Nat) (s : State) : Host.Outcome State Fault Refusal := s.act fun d => d.runExtentWrite ctx

/-- EXTENT_READ: runs the dispatched EXTENT_READ of a context (R143). -/
def execExtentRead (ctx : Nat) (hdrs : List (Nat × Bytes)) (s : State) : Host.Outcome State Fault Refusal :=
  s.act fun d => d.runExtentRead ctx (d.badHeaders hdrs)

/-- DISCARD: runs the dispatched DISCARD of a context (R145). -/
def execDiscard (ctx : Nat) (s : State) : Host.Outcome State Fault Refusal := s.act fun d => d.runDiscard ctx

/-- QUIRE: runs the dispatched QUIRE of a context (R128). -/
def execQuire (ctx : Nat) (s : State) : Host.Outcome State Fault Refusal := s.act fun d => d.runQuire ctx

/-- FLUSH: runs the dispatched FLUSH of a context (R130). -/
def execFlush (ctx : Nat) (s : State) : Host.Outcome State Fault Refusal := s.act fun d => (d.runFlush ctx).leaguePump

end Sys2Proof.Machine
end

