-- ==== Sys2Proof/Machine/Dispatch.lean ====
section
/-! DEFINITION. Every command and its meaning: one arm for each constructor of Instr. -/

namespace Sys2Proof.Machine

/-- The effect of a command on everything but the queue of waiting commands. -/
def exec (i : Instr) (s : State) : Host.Outcome State Fault Refusal :=
  match i with
  | .powerOn => Sys2Proof.Machine.execPowerOn s
  | .resetNRise straps uv ov => Sys2Proof.Machine.execResetNRise straps uv ov s
  | .pinReset => Sys2Proof.Machine.execPinReset s
  | .deviceReset iface straps => Sys2Proof.Machine.execDeviceReset iface straps s
  | .datapathReset iface => Sys2Proof.Machine.execDatapathReset iface s
  | .datapathResetDone => Sys2Proof.Machine.execDatapathResetDone s
  | .coresReset iface => Sys2Proof.Machine.execCoresReset iface s
  | .coresResetDone => Sys2Proof.Machine.execCoresResetDone s
  | .shutdownFlushDone => Sys2Proof.Machine.execShutdownFlushDone s
  | .phaseAon pfHigh => Sys2Proof.Machine.execPhaseAon pfHigh s
  | .pfStartWaitDone => Sys2Proof.Machine.execPfStartWaitDone s
  | .phaseRom => Sys2Proof.Machine.execPhaseRom s
  | .phaseFw copyOk ms => Sys2Proof.Machine.execPhaseFw copyOk ms s
  | .phaseMem => Sys2Proof.Machine.execPhaseMem s
  | .phaseMedia badA badB => Sys2Proof.Machine.execPhaseMedia badA badB s
  | .phaseImage => Sys2Proof.Machine.execPhaseImage s
  | .phaseIndex pages blocks => Sys2Proof.Machine.execPhaseIndex pages blocks s
  | .phaseMeta => Sys2Proof.Machine.execPhaseMeta s
  | .phasePorts => Sys2Proof.Machine.execPhasePorts s
  | .phaseRun => Sys2Proof.Machine.execPhaseRun s
  | .pfGlitch => Sys2Proof.Machine.execPfGlitch s
  | .pwrFail => Sys2Proof.Machine.execPwrFail s
  | .flushAdmissionStop => Sys2Proof.Machine.execFlushAdmissionStop s
  | .flushStagingCutoff => Sys2Proof.Machine.execFlushStagingCutoff s
  | .flushDiesReady => Sys2Proof.Machine.execFlushDiesReady s
  | .flushStagingWritten retries => Sys2Proof.Machine.execFlushStagingWritten retries s
  | .flushMetadataWritten => Sys2Proof.Machine.execFlushMetadataWritten s
  | .flushJournalWritten => Sys2Proof.Machine.execFlushJournalWritten s
  | .flushComplete => Sys2Proof.Machine.execFlushComplete s
  | .flushOvertime => Sys2Proof.Machine.execFlushOvertime s
  | .railsLost k => Sys2Proof.Machine.execRailsLost k s
  | .haltExit straps => Sys2Proof.Machine.execHaltExit straps s
  | .imgOpen iface => Sys2Proof.Machine.execImgOpen iface s
  | .imgData iface w => Sys2Proof.Machine.execImgData iface w s
  | .imgApply iface => Sys2Proof.Machine.execImgApply iface s
  | .imgStore iface => Sys2Proof.Machine.execImgStore iface s
  | .imgAbort iface => Sys2Proof.Machine.execImgAbort iface s
  | .imgCheckDone => Sys2Proof.Machine.execImgCheckDone s
  | .imgStoreDone => Sys2Proof.Machine.execImgStoreDone s
  | .linkSignalDetect n => Sys2Proof.Machine.execLinkSignalDetect n s
  | .polarityTimer lane => Sys2Proof.Machine.execPolarityTimer lane s
  | .polarityErrorBlocks lane => Sys2Proof.Machine.execPolarityErrorBlocks lane s
  | .laneLock n fec => Sys2Proof.Machine.execLaneLock n fec s
  | .linkHoldDone n => Sys2Proof.Machine.execLinkHoldDone n s
  | .linkFault n cause => Sys2Proof.Machine.execLinkFault n cause s
  | .linkSignalLoss lane => Sys2Proof.Machine.execLinkSignalLoss lane s
  | .remoteFaultRx n => Sys2Proof.Machine.execRemoteFaultRx n s
  | .remoteFaultClear n => Sys2Proof.Machine.execRemoteFaultClear n s
  | .rxFrame f => Sys2Proof.Machine.execRxFrame f s
  | .xoffRepeat n => Sys2Proof.Machine.execXoffRepeat n s
  | .pauseRx f => Sys2Proof.Machine.execPauseRx f s
  | .pfcRx f => Sys2Proof.Machine.execPfcRx f s
  | .pauseExpiry n prio => Sys2Proof.Machine.execPauseExpiry n prio s
  | .txFrameStart n => Sys2Proof.Machine.execTxFrameStart n s
  | .txUnderrun n sent => Sys2Proof.Machine.execTxUnderrun n sent s
  | .ctRestore iface => Sys2Proof.Machine.execCtRestore iface s
  | .statClear iface n => Sys2Proof.Machine.execStatClear iface n s
  | .openPkt pid => Sys2Proof.Machine.execOpenPkt pid s
  | .proofPkt pid => Sys2Proof.Machine.execProofPkt pid s
  | .openTicket pid => Sys2Proof.Machine.execOpenTicket pid s
  | .openTimerExpiry sid => Sys2Proof.Machine.execOpenTimerExpiry sid s
  | .dataPkt pid => Sys2Proof.Machine.execDataPkt pid s
  | .ackPkt pid => Sys2Proof.Machine.execAckPkt pid s
  | .keepalivePkt pid => Sys2Proof.Machine.execKeepalivePkt pid s
  | .closePkt pid => Sys2Proof.Machine.execClosePkt pid s
  | .retxTimeout sid => Sys2Proof.Machine.execRetxTimeout sid s
  | .keepaliveSend sid => Sys2Proof.Machine.execKeepaliveSend sid s
  | .keepaliveLoss sid => Sys2Proof.Machine.execKeepaliveLoss sid s
  | .sessKill iface sid => Sys2Proof.Machine.execSessKill iface sid s
  | .arbWindow => Sys2Proof.Machine.execArbWindow s
  | .dispatch => Sys2Proof.Machine.execDispatch s
  | .commandTimeout n => Sys2Proof.Machine.execCommandTimeout n s
  | .stagingComplete ctx => Sys2Proof.Machine.execStagingComplete ctx s
  | .get ctx hdrs => Sys2Proof.Machine.execGet ctx hdrs s
  | .put ctx => Sys2Proof.Machine.execPut ctx s
  | .delete ctx => Sys2Proof.Machine.execDelete ctx s
  | .existsKey ctx hdrs => Sys2Proof.Machine.execExistsKey ctx hdrs s
  | .casPut ctx => Sys2Proof.Machine.execCasPut ctx s
  | .getRange ctx hdrs => Sys2Proof.Machine.execGetRange ctx hdrs s
  | .iterate ctx hdrs => Sys2Proof.Machine.execIterate ctx hdrs s
  | .extentWrite ctx => Sys2Proof.Machine.execExtentWrite ctx s
  | .extentRead ctx hdrs => Sys2Proof.Machine.execExtentRead ctx hdrs s
  | .discard ctx => Sys2Proof.Machine.execDiscard ctx s
  | .streamAppend ctx => Sys2Proof.Machine.execStreamAppend ctx s
  | .streamScan ctx hdrs => Sys2Proof.Machine.execStreamScan ctx s hdrs
  | .fathomPin ctx => Sys2Proof.Machine.execFathomPin ctx s
  | .fathomRelease ctx => Sys2Proof.Machine.execFathomRelease ctx s
  | .chainAppend ctx => Sys2Proof.Machine.execChainAppend ctx s
  | .chainRead ctx hdrs => Sys2Proof.Machine.execChainRead ctx s hdrs
  | .chainSeal ctx => Sys2Proof.Machine.execChainSeal ctx s
  | .chainExpire ctx => Sys2Proof.Machine.execChainExpire ctx s
  | .quire ctx => Sys2Proof.Machine.execQuire ctx s
  | .flush ctx => Sys2Proof.Machine.execFlush ctx s
  | .nsCreate ctx => Sys2Proof.Machine.execNsCreate ctx s
  | .nsDelete ctx => Sys2Proof.Machine.execNsDelete ctx s
  | .nsQuery ctx => Sys2Proof.Machine.execNsQuery ctx s
  | .keyslotLoad ctx => Sys2Proof.Machine.execKeyslotLoad ctx s
  | .keystoreCommit => Sys2Proof.Machine.execKeystoreCommit s
  | .keyslotErase ctx => Sys2Proof.Machine.execKeyslotErase ctx s
  | .fwStage ctx => Sys2Proof.Machine.execFwStage ctx s
  | .fwStageWriteDone ok => Sys2Proof.Machine.execFwStageWriteDone ok s
  | .fwActivate ctx => Sys2Proof.Machine.execFwActivate ctx s
  | .fwReady => Sys2Proof.Machine.execFwReady s
  | .fwReadyTimeout => Sys2Proof.Machine.execFwReadyTimeout s
  | .powerSet ctx => Sys2Proof.Machine.execPowerSet ctx s
  | .healthRead ctx => Sys2Proof.Machine.execHealthRead ctx s
  | .journalRead ctx bad => Sys2Proof.Machine.execJournalRead ctx s bad
  | .regRead ctx => Sys2Proof.Machine.execRegRead ctx s
  | .regWrite ctx => Sys2Proof.Machine.execRegWrite ctx s
  | .lgJoin ctx => Sys2Proof.Machine.execLgJoin ctx s
  | .lgKeepalive ctx => Sys2Proof.Machine.execLgKeepalive ctx s
  | .lgDirSet ctx => Sys2Proof.Machine.execLgDirSet ctx s
  | .lgFence ctx => Sys2Proof.Machine.execLgFence ctx s
  | .lgReplicate pid => Sys2Proof.Machine.execLgReplicate pid s
  | .lgRelay pid => Sys2Proof.Machine.execLgRelay pid s
  | .lgLeave ctx => Sys2Proof.Machine.execLgLeave ctx s
  | .relayResponse sid tag => Sys2Proof.Machine.execRelayResponse sid tag s
  | .replicateResponse sid tag => Sys2Proof.Machine.execReplicateResponse sid tag s
  | .lgJoinRetry => Sys2Proof.Machine.execLgJoinRetry s
  | .lgKeepaliveSend => Sys2Proof.Machine.execLgKeepaliveSend s
  | .lgKeepaliveMiss id => Sys2Proof.Machine.execLgKeepaliveMiss id s
  | .dirCommit iface pos => Sys2Proof.Machine.execDirCommit iface pos s
  | .dirClear iface pos => Sys2Proof.Machine.execDirClear iface pos s
  | .dirRestore a => Sys2Proof.Machine.execDirRestore a s
  | .matEntWrite iface => Sys2Proof.Machine.execMatEntWrite iface s
  | .matEntRead iface => Sys2Proof.Machine.execMatEntRead iface s
  | .matEntClear iface => Sys2Proof.Machine.execMatEntClear iface s
  | .matSearch iface profile => Sys2Proof.Machine.execMatSearch iface profile s
  | .scrubStep r => Sys2Proof.Machine.execScrubStep r s
  | .rodSlot word => Sys2Proof.Machine.execRodSlot word s
  | .rodToken token => Sys2Proof.Machine.execRodToken token s
  | .tokenLost => Sys2Proof.Machine.execTokenLost s
  | .rodFull low => Sys2Proof.Machine.execRodFull low s
  | .rodAliveUp => Sys2Proof.Machine.execRodAliveUp s
  | .rodAliveLow => Sys2Proof.Machine.execRodAliveLow s
  | .rodClkLost => Sys2Proof.Machine.execRodClkLost s
  | .rodCheck iface => Sys2Proof.Machine.execRodCheck iface s
  | .rodCheckDone first second third back => Sys2Proof.Machine.execRodCheckDone first second third back s
  | .rodCheckRetry => Sys2Proof.Machine.execRodCheckRetry s
  | .checkpointBegin => Sys2Proof.Machine.execCheckpointBegin s
  | .checkpointCommit => Sys2Proof.Machine.execCheckpointCommit s
  | .cpForce iface => Sys2Proof.Machine.execCpForce iface s
  | .rescan iface => Sys2Proof.Machine.execRescan iface s
  | .indexRebuildDone pages blocks => Sys2Proof.Machine.execIndexRebuildDone pages blocks s
  | .purgeDone => Sys2Proof.Machine.execPurgeDone s
  | .segmentCompressed engine stream => Sys2Proof.Machine.execSegmentCompressed engine stream s
  | .segmentSealed lane => Sys2Proof.Machine.execSegmentSealed lane s
  | .segmentChecked ctx pos r => Sys2Proof.Machine.execSegmentChecked ctx pos r s
  | .nsPolicyWrite iface w => Sys2Proof.Machine.execNsPolicyWrite iface w s
  | .kloadData w => Sys2Proof.Machine.execKloadData w s
  | .kloadGo slot policy priv => Sys2Proof.Machine.execKloadGo slot policy priv s
  | .alarm src active => Sys2Proof.Machine.execAlarm src active s
  | .cryptoEraseDone => Sys2Proof.Machine.execCryptoEraseDone s
  | .unlock sources => Sys2Proof.Machine.execUnlock sources s
  | .unlockBlockExpiry => Sys2Proof.Machine.execUnlockBlockExpiry s
  | .saInstall iface => Sys2Proof.Machine.execSaInstall iface s
  | .saClear iface => Sys2Proof.Machine.execSaClear iface s
  | .saActivate iface => Sys2Proof.Machine.execSaActivate iface s
  | .todArm iface w => Sys2Proof.Machine.execTodArm iface w s
  | .ppsEdge => Sys2Proof.Machine.execPpsEdge s
  | .srcLostSet iface => Sys2Proof.Machine.execSrcLostSet iface s
  | .timeHoldover => Sys2Proof.Machine.execTimeHoldover s
  | .timeUntrusted => Sys2Proof.Machine.execTimeUntrusted s
  | .timeSave => Sys2Proof.Machine.execTimeSave s
  | .ppsOutRise => Sys2Proof.Machine.execPpsOutRise s
  | .ppsOutFall => Sys2Proof.Machine.execPpsOutFall s
  | .groupCommit b => Sys2Proof.Machine.execGroupCommit b s
  | .stagingAgeTimer h => Sys2Proof.Machine.execStagingAgeTimer h s
  | .parkTimeout b => Sys2Proof.Machine.execParkTimeout b s
  | .progFail b die => Sys2Proof.Machine.execProgFail b die s
  | .eraseDone b => Sys2Proof.Machine.execEraseDone b s
  | .eraseFail b die => Sys2Proof.Machine.execEraseFail b die s
  | .collectionDone b bad => Sys2Proof.Machine.execCollectionDone b bad s
  | .gcReq iface b => Sys2Proof.Machine.execGcReq iface b s
  | .foldGo iface => Sys2Proof.Machine.execFoldGo iface s
  | .foldStop iface => Sys2Proof.Machine.execFoldStop iface s
  | .wearStep => Sys2Proof.Machine.execWearStep s
  | .patrolStep corr cws r => Sys2Proof.Machine.execPatrolStep corr cws r s
  | .dieLost die => Sys2Proof.Machine.execDieLost die s
  | .trigSample t mv => Sys2Proof.Machine.execTrigSample t mv s
  | .trigFire t => Sys2Proof.Machine.execTrigFire t s
  | .trigFault t => Sys2Proof.Machine.execTrigFault t s
  | .trigClear t => Sys2Proof.Machine.execTrigClear t s
  | .journalDrain => Sys2Proof.Machine.execJournalDrain s
  | .journalPageProgram => Sys2Proof.Machine.execJournalPageProgram s
  | .journalPersist iface => Sys2Proof.Machine.execJournalPersist iface s
  | .journalRd iface bad => Sys2Proof.Machine.execJournalRd iface s bad
  | .fwLoadOpen => Sys2Proof.Machine.execFwLoadOpen s
  | .fwLoadData w => Sys2Proof.Machine.execFwLoadData w s
  | .fwLoadGo => Sys2Proof.Machine.execFwLoadGo s
  | .fwLoadAbort => Sys2Proof.Machine.execFwLoadAbort s
  | .wdogKick cluster => Sys2Proof.Machine.execWdogKick cluster s
  | .wdogExpiry cluster => Sys2Proof.Machine.execWdogExpiry cluster s
  | .fwPolicyWrite iface k w => Sys2Proof.Machine.execFwPolicyWrite iface k w s
  | .pwrReq iface n state => Sys2Proof.Machine.execPwrReq iface n state s
  | .domainDrained n => Sys2Proof.Machine.execDomainDrained n s
  | .domainSeqDone n => Sys2Proof.Machine.execDomainSeqDone n s
  | .clockLost c => Sys2Proof.Machine.execClockLost c s
  | .clockRestored c => Sys2Proof.Machine.execClockRestored c s
  | .railTrip rail beyond => Sys2Proof.Machine.execRailTrip rail beyond s
  | .thermalSample temps => Sys2Proof.Machine.execThermalSample temps s
  | .thermalSiteFail site => Sys2Proof.Machine.execThermalSiteFail site s
  | .pfStuck => Sys2Proof.Machine.execPfStuck s
  | .pfIgnoreSet => Sys2Proof.Machine.execPfIgnoreSet s
  | .laneStuck n => Sys2Proof.Machine.execLaneStuck n s
  | .actTimeout n => Sys2Proof.Machine.execActTimeout n s
  | .spiNop clocks cmd addr data crc => Sys2Proof.Machine.execSpiNop clocks cmd addr data crc s
  | .spiRead clocks addr data crc => Sys2Proof.Machine.execSpiRead clocks addr data crc s
  | .spiWrite clocks addr data crc => Sys2Proof.Machine.execSpiWrite clocks addr data crc s
  | .regWriteWord iface a w => Sys2Proof.Machine.execRegWriteWord iface a w s
  | .latchedRead iface a => Sys2Proof.Machine.execLatchedRead iface a s
  | .rcRead iface a => Sys2Proof.Machine.execRcRead iface a s
  | .railsInRange => Sys2Proof.Machine.execRailsInRange s
  | .nsTableCommit ctx => Sys2Proof.Machine.execNsTableCommit ctx s
  | .windowTableCommit => Sys2Proof.Machine.execWindowTableCommit s
  | .keyEraseCommit => Sys2Proof.Machine.execKeyEraseCommit s
  | .challengePkt pid => Sys2Proof.Machine.execChallengePkt pid s
  | .acceptPkt pid => Sys2Proof.Machine.execAcceptPkt pid s
  | .refusePkt pid => Sys2Proof.Machine.execRefusePkt pid s
  | .staleWalkDone b => Sys2Proof.Machine.execStaleWalkDone b s
  | .purgeSweepStep => Sys2Proof.Machine.execPurgeSweepStep s
  | .segmentRemoval => Sys2Proof.Machine.execSegmentRemoval s

end Sys2Proof.Machine
end

