-- ==== Sys2Proof/Safety.lean ====
section
/-! DEFINITION. The terms in which statements speak of a command: what it does to the device, what it makes true, and
what it leaves alone; when a register write is accepted; and what SEC's store keeps whatever command comes. -/

namespace Sys2Proof.Machine

/-! ## What a command does -/

/-- The command completes, and its whole effect is that the device becomes `d`: SEC's store and the queue stay. -/
def Does (c : Instr) (s : State) (d : Dev) : Prop := exec c s = .next { s with dev := d }

/-- The command completes, and its whole effect is that the device becomes `d`, with what SEC's store takes in when a
counter's block is reserved or a reset begins (R215, R231). -/
def Acts (c : Instr) (s : State) (d : Dev) : Prop := exec c s = .next { s with nv := s.nv.follow s.dev d, dev := d }

/-- The command completes, and its whole effect is that SEC's store becomes `nv` and the device `d`. -/
def DoesBoth (c : Instr) (s : State) (nv : Secure) (d : Dev) : Prop := exec c s = .next { s with nv := nv, dev := d }

/-- The command completes with the queue as it was, and the store and device that it leaves satisfy `p`. -/
def Makes (c : Instr) (s : State) (p : Secure → Dev → Prop) : Prop :=
  ∃ t, exec c s = .next t ∧ t.pending = s.pending ∧ p t.nv t.dev

/-- Nothing but the fields of the device that `g` takes from the next state may change: the frame of a command. -/
def Leaves (c : Instr) (s : State) (g : Dev → Dev) : Prop :=
  ∀ t, exec c s = .next t → t = { s with dev := g t.dev }

/-- The same for a command with which SEC's store takes in what it takes in when a counter's block is reserved or a reset
begins. -/
def LeavesNv (c : Instr) (s : State) (g : Dev → Dev) : Prop :=
  ∀ t, exec c s = .next t → t = { s with nv := s.nv.follow s.dev t.dev, dev := g t.dev }

/-- The same for a command that acts on SEC's store too: there `h` takes from the next state what may change. -/
def LeavesBoth (c : Instr) (s : State) (h : Secure → Secure) (g : Dev → Dev) : Prop :=
  ∀ t, exec c s = .next t → t = { s with nv := h t.nv, dev := g t.dev }

/-! ## Register writes (R364, R388) -/

/-- A write of a word by an interface that reaches the device is accepted: it is not refused, the address holds a
register whose domain is ON, and the register does not act over SPI only. -/
def Dev.accepts (d : Dev) (nv : Secure) (i : Iface) (a w : Nat) : Bool :=
  d.reaches i && (d.wholeRefusal i a w).isNone && (d.view nv a).isSome && !d.regOff a && !(i.isInBand && spiOnly a)

/-- A dispatched command of a context whose opcode is about to run. -/
abbrev Dev.runs (d : Dev) (ctx op : Nat) (f : Flight) : Prop := d.fresh ctx op = some f

/-! ## SEC's store (R30, R31, R215 to R226, R344) -/

/-- What SEC's store holds fits its registers: the alarm latch has a bit for each source, the counts saturate, and
ERASE_EPOCH has 32 bits (R220 to R223, R236). -/
def Secure.ok (nv : Secure) : Bool :=
  decide (nv.alarmLatch < 16) && decide (nv.alarms ≤ 0xFFFF) && decide (nv.eraseEpoch ≤ 0xFFFFFFFF) &&
    decide (nv.unlockFails ≤ 0xFFFF)

/-- What no command undoes in SEC's store: fuses, the enrolled authority, the index hash key once drawn, the rollback
floors, the counts and ERASE_EPOCH (R30, R31, R161, R220, R221, R344). -/
def Secure.lasts (a b : Secure) : Prop :=
  b.serial = a.serial ∧ b.rootKey = a.rootKey ∧ b.fwAuthority = a.fwAuthority ∧
    (∀ h, a.authority = some h → b.authority = some h) ∧ (∀ k, a.indexKey = some k → b.indexKey = some k) ∧
    a.floor ≤ b.floor ∧ a.svnFloor ≤ b.svnFloor ∧ min a.alarms 0xFFFF ≤ b.alarms ∧ a.eraseEpoch ≤ b.eraseEpoch ∧
    min a.unlockFails 0xFFFF ≤ b.unlockFails ∧ (a.epochDead = true → b.epochDead = true)

/-- A state is safe where SEC's store is: the terms in which a safe run is one that never leaves these states. -/
def State.safe (s : State) : Bool := s.nv.ok

end Sys2Proof.Machine
end

