-- ==== Sys2Proof/Certificates/Slice0/Obligations.lean ====
section
/-! DEFINITION. The statements about the model: what each command does, where it completes, and what it leaves alone;
what the registers do; and what holds whatever command comes. -/

open Sys2Proof Sys2Proof.Machine

/-! ## The block: its queue, its store, its tables -/

/-- With a command at the front of its queue, a step is that command with the rest of the queue; on an empty queue one
core cycle passes (the idle cycle is the model's choice: log entry 2): device time goes on, and where nothing is left to
report, no TX_STOP and no time without a context, that is all. -/
def Obligations.StepRunsFront : Prop :=
  (∀ (c : Instr) (rest : List Instr) (s : State),
    step { s with pending := c :: rest } = exec c { s with pending := rest }) ∧
  (∀ s : State, s.pending = [] →
    step s = .next { s with dev := s.dev.cycle } ∧ s.dev.cycle.cycles = s.dev.cycles + 1 ∧
    s.dev.cycle.sec.time = s.dev.sec.time.cycle ∧
    (s.dev.sec.stops = [] → s.dev.cqe.ctxEmptySince = none → s.dev.cycle =
      { s.dev with cycles := s.dev.cycles + 1, sec := { s.dev.sec with time := s.dev.sec.time.cycle } }))

/-- Every command answers a next state in every state and leaves the queue alone: none faults, none is refused. -/
def Obligations.EveryCommandAnswers : Prop :=
  ∀ (c : Instr) (s : State), ∃ t, exec c s = .next t ∧ t.pending = s.pending

/-- Whatever command comes, from any state: SEC's counts, latch and ERASE_EPOCH stay within their registers' widths. -/
def Obligations.SecureStoreStaysInRange : Prop :=
  ∀ s t : State, s.nv.ok = true → step s = .next t → t.nv.ok = true

/-- What SEC's store holds at reset is within its registers' widths. -/
def Obligations.SecureStoreInRangeAtReset : Prop := State.reset.nv.ok = true

/-- No command, in any state, lowers a rollback floor, an alarm count or ERASE_EPOCH, changes a fuse or the fused
authority, or replaces the index hash key once it is drawn. -/
def Obligations.SecureStoreNeverGoesBack : Prop :=
  ∀ s t : State, step s = .next t → s.nv.lasts t.nv

/-- The rollback floor (R31): no step lowers it; an image whose GEN is below it is not accepted; applying an image raises
it to the image's FLOOR where that is higher. -/
def Obligations.RollbackFloor : Prop :=
  (∀ s t : State, step s = .next t → s.nv.floor ≤ t.nv.floor) ∧
  (∀ (b : Bytes) (rcvd floor : Nat) (beyond enrol : Bool) (auth : Option Bytes) (im : Image),
    num b 16 4 < floor → checkImage b rcvd beyond auth enrol floor ≠ .ok im) ∧
  (∀ (d : Dev) (nv : Secure) (im : Image) (src : Nat), (d.applyImage nv im src).1.floor = max nv.floor im.floor)

/-- Enrolment (R30, R161): while no authority is fused an image is accepted only with ENROLL, which counts only where SPI
owns the window; a passing image fuses the SHA-256 of its public key, SEC draws the index hash key where it holds none,
and the record is written; a fused authority never changes, and an image whose key hashes to anything else is not
accepted. -/
def Obligations.AuthorityEnrolment : Prop :=
  (∀ (b : Bytes) (rcvd floor : Nat) (beyond : Bool) (im : Image), checkImage b rcvd beyond none false floor ≠ .ok im) ∧
  (∀ (d : Dev) (task : Nat) (a : Bool), d.imgOwns .spi = false → (d.imgCheck task a).imgWin.enrol = false) ∧
  (∀ (d : Dev) (nv : Secure) (b : Bytes), nv.authority = none →
    let h := sha256 (slice b (b.length - 132) 64)
    let key := nv.indexKey.getD (d.draw 16).1
    let d1 := if nv.indexKey = none then (d.draw 16).2 else d
    d.enrol nv b = ({ nv with authority := some h, indexKey := some key },
      { d1 with ident := { d1.ident with indexKey := key } }.log evImgEnrolled (h.take 8))) ∧
  (∀ (s t : State) (h : Bytes), s.nv.authority = some h → step s = .next t → t.nv.authority = some h) ∧
  (∀ (b h : Bytes) (rcvd floor : Nat) (beyond enrol : Bool) (im : Image),
    sha256 (slice b (b.length - 132) 64) ≠ h → checkImage b rcvd beyond (some h) enrol floor ≠ .ok im)

/-- What reset leaves (R46, R51, R62, R386): the rails have risen, RESET_N holds the device in phase RESET with READY low,
no command waits, no session is open, no frame is held, no image is applied, and every register word is at its reset value
(that the rails have risen is the model's choice: log entry 13). -/
def Obligations.ResetState : Prop :=
  State.reset.pending = [] ∧ State.reset.dev.life.powered = true ∧ State.reset.dev.pins.resetLow = true ∧
    State.reset.dev.life.phase = .reset ∧ State.reset.dev.pins.ready = false ∧
    State.reset.dev.sess = [] ∧ State.reset.dev.cqe.queued = [] ∧ State.reset.dev.cqe.flights = [] ∧
    State.reset.dev.rx = [] ∧ State.reset.dev.image = none ∧ (∀ a, State.reset.dev.reg a = resetWord a)

/-- A sparse table keeps its canonical form under every operation, and reads back what was written. -/
def Obligations.TablesKeepTheirForm : Prop :=
  ∀ (α : Type) (t : Tab α) (k j : Nat) (v : α) (f : α → α) (p : Nat → α → Bool), t.wf = true →
    (t.put k v).wf = true ∧ (t.del k).wf = true ∧ (t.mod k f).wf = true ∧ (t.keep p).wf = true ∧
    (t.put k v).find j = (if j = k then some v else t.find j) ∧
    (t.del k).find j = (if j = k then none else t.find j)

/-! ## Registers -/

/-- Setting a register sets that register alone, and a table of registers in its canonical form, in which no register is
listed at its reset value, stays in it. -/
def Obligations.RegisterFile : Prop :=
  ∀ (d : Dev) (a b : Nat) (v : Word),
    (d.setReg a v).reg b = (if b = a then v else d.reg b) ∧
    (d.regs.wf = true ∧ (∀ p ∈ d.regs, p.2 ≠ resetWord p.1) →
      (d.setReg a v).regs.wf = true ∧ ∀ p ∈ (d.setReg a v).regs, p.2 ≠ resetWord p.1)

/-- A write sets the RW and RWL bits of a register, clears the W1C bits written 1, and leaves every other bit (R12). -/
def Obligations.WriteActsByAccessType : Prop :=
  ∀ (d : Dev) (a w : Nat) (r : RegRow), regRow a = some r → w < 2 ^ 32 → ∀ i < 32,
    bit ((d.writeFields a w).regN a) i =
      if bit (r.rw ||| r.rwl) i then bit w i && !(bit w i && bit r.w1c i)
      else bit (d.regN a) i && !(bit w i && bit r.w1c i)

/-- A plain register's write, accepted, sets its fields and nothing else in the device; shown for the test register
CHIP_SCRATCH and every interrupt enable register (R388, R394). A write to an address that holds no register changes
nothing and is not recorded (R386). -/
def Obligations.RegisterWrites : Prop :=
  ∀ (s : State) (i : Iface) (a w : Nat),
    (a ∈ ([0x14, 0x24, 0x1044, 0x2008, 0x305C, 0x4004, 0x1001C, 0x1101C, 0x1201C, 0x1301C, 0x20034, 0x3004C, 0x40034,
      0x50024, 0x60144, 0x70084, 0x700D4, 0x8003C, 0x9002C, 0x9022C, 0xA0054, 0xB0034] : List Nat) →
      s.dev.accepts s.nv i a w = true → Does (.regWriteWord i a w) s (s.dev.writeFields a w)) ∧
    (s.dev.view s.nv a = none → a ≠ 0x40 → s.dev.wholeRefusal i a w = none → Does (.regWriteWord i a w) s s.dev)

/-- A write that would change a locked field is refused whole (R14, R388): no register but the records of the refusal
changes, CHIP_ACC_ERR takes the first such write, and CHIP_REFUSED counts it. -/
def Obligations.LockedFieldsHold : Prop :=
  ∀ (s : State) (sid a w : Nat) (im : Image), s.dev.image = some im → s.dev.changesLocked a w = true →
    s.dev.reaches (.inBand sid) = true →
    Makes (.regWriteWord (.inBand sid) a w) s fun nv d =>
      nv = s.nv ∧ (∀ b, b ≠ 0x28 → b ≠ 0x2C → b ≠ 0xA0050 → b ≠ evjCnt 3 → d.reg b = s.dev.reg b) ∧
      d.regN 0x2C = satAdd 0xFFFFFFFF (s.dev.regN 0x2C) 1 ∧
      (bit (s.dev.regN 0x28) 31 = false → d.regN 0x28 = 2 ^ 31 + 2 ^ 29 + 2 ^ 26 + a) ∧
      (bit (s.dev.regN 0x28) 31 = true → d.regN 0x28 = s.dev.regN 0x28)

/-- A register of a domain that is not ON reads 0 and takes no write; each access is counted, and PWR_ACC holds the first
such address (R364). Nothing else in the device changes. -/
def Obligations.DomainOffRegisters : Prop :=
  ∀ (s : State) (i : Iface) (a w : Nat), s.dev.reaches i = true → s.dev.regOff a = true → (s.dev.view s.nv a).isSome = true →
    Does (.rcRead i a) s { s.dev.offAccess a with readData := 0 } ∧
    (s.dev.wholeRefusal i a w = none → Does (.regWriteWord i a w) s (s.dev.offAccess a)) ∧
    (s.dev.offAccess a).regN 0x1110 = satAdd 0xFFFFFFFF (s.dev.regN 0x1110) 1 ∧
    (s.dev.offAccess a).regN 0x1048 = if bit (s.dev.regN 0x1048) 31 then s.dev.regN 0x1048 else (2 ^ 31 + a) % 2 ^ 32

/-- A read of a counter that clears on read gives its value and leaves it at zero, and changes nothing else (R12).
Reading LO latches HI for the path that reads (R387): the read gives LO; the path's next read of HI gives what HI was
then, whatever it has become, and uses the latch up; no other path's latch changes. -/
def Obligations.RegisterReads : Prop :=
  (∀ (s : State) (i : Iface) (a : Nat) (r : RegRow), regRow a = some r → r.rc = 0xFFFFFFFF → s.dev.shows s.nv a = none →
    s.dev.reaches i = true → s.dev.regOff a = false → s.dev.latches.find (latchKey i a) = none →
    ∃ d, Does (.rcRead i a) s d ∧ d.readData = s.dev.reg a ∧ d.regN a = 0 ∧ (∀ b, b ≠ a → d.reg b = s.dev.reg b) ∧
      d = { s.dev with regs := d.regs, readData := d.readData }) ∧
  ((∀ (s : State) (i : Iface) (a lo hi : Nat), latchesHi a = true → s.dev.reaches i = true → s.dev.regOff a = false →
    s.dev.view s.nv a = some lo → s.dev.view s.nv (a + 4) = some hi → s.dev.latches.find (latchKey i a) = none →
    Makes (.latchedRead i a) s fun nv d =>
      nv = s.nv ∧ d.readData = BitVec.ofNat 32 lo ∧ d.latches.find (latchKey i (a + 4)) = some (BitVec.ofNat 32 hi) ∧
      ∀ k, k ≠ latchKey i (a + 4) → d.latches.find k = s.dev.latches.find k) ∧
  (∀ (s : State) (i : Iface) (a w : Nat) (h : Word), s.dev.reaches i = true → s.dev.regOff a = false →
    s.dev.view s.nv a = some w → s.dev.latches.find (latchKey i a) = some h →
    Does (.rcRead i a) s { s.dev with readData := h, latches := s.dev.latches.del (latchKey i a) }))

/-- The tree of interrupts (R394): each branch bit of CHIP_IRQ_STATUS stands while a bit of one of its block's status
registers stands with its enable bit, MGMT's branch while one of MGMT_IRQ_STATUS does; IRQ_N, with RESET_N high, is low
while a bit of CHIP_IRQ_STATUS stands with its bit of CHIP_IRQ_EN. -/
def Obligations.InterruptTree : Prop :=
  ∀ d : Dev,
    (∀ i < 19, i ≠ 3 → bit d.chipIrq i =
      irqBranches.any fun b => b.1 == i && d.regN b.2.1 &&& d.regN b.2.2 != 0) ∧
    bit d.chipIrq 3 = (d.mgmtIrq &&& d.regN 0x4004 != 0) ∧
    (d.pins.resetLow = false → (d.irqLow = true ↔ ∃ i < 32, bit d.chipIrq i = true ∧ bit (d.regN 0x24) i = true))

/-- A frame that fails its length, its CRC, its command or its address does nothing but be counted and reported: the
next frame carries its STATUS (R391). Good SPI frames (R390 to R392): a NOP only counts; a READ reads the register
as it is before its own frame counts (R13), and the next frame carries the word; a WRITE writes it, and the next frame carries its STATUS and the word. A frame
returns the previous one's STATUS, ADDR and DATA under their CRC-8; before any frame NONE with CHIP_ID. -/
def Obligations.SpiFrames : Prop :=
  (∀ (s : State) (clocks cmd addr data crc : Nat), s.dev.spiUp = true →
    cmd < 256 → addr < 2 ^ 24 → data < 2 ^ 32 → crc < 256 →
    let sum := crc8 (be 1 cmd ++ be 3 addr ++ be 4 data)
    let reported := fun (status at_ : Nat) => Makes (.spiNop clocks cmd addr data crc) s fun nv d =>
      nv = s.nv ∧ d.spi = some ⟨status, at_, 0⟩ ∧ bit (d.regN 0x4000) 3 = true ∧
      (∀ b, b ∉ ([0x4000, 0x4010, 0x4014, 0x4018, 0x401C, 0xA0050, evjCnt 3] : List Nat) → d.reg b = s.dev.reg b) ∧
      d = { s.dev with regs := d.regs, evj := d.evj, rates := d.rates, spi := d.spi, spiErrs := d.spiErrs }
    (clocks ≠ 72 → reported 2 0) ∧
    (clocks = 72 → sum ≠ crc → reported 1 0) ∧
    (clocks = 72 → sum = crc → cmd ∉ ([0x5A, 0x3C, 0xC3] : List Nat) → reported 3 addr) ∧
    (clocks = 72 → sum = crc → cmd ∈ ([0x5A, 0x3C, 0xC3] : List Nat) → addr % 4 ≠ 0 → reported 4 addr)) ∧
  ((∀ (s : State) (addr data : Nat), s.dev.spiUp = true → addr < 2 ^ 24 → data < 2 ^ 32 → addr % 4 = 0 →
    let crc := fun (cmd : Nat) => crc8 (be 1 cmd ++ be 3 addr ++ be 4 data)
    let d0 := s.dev.count (spiCnt 0)
    Does (.spiNop 72 0x5A addr data (crc 0x5A)) s { d0 with spi := some ⟨0, addr, 0⟩ } ∧
    (∀ w, s.dev.view s.nv addr = some w → s.dev.regOff addr = false → s.dev.latches.find (latchKey .spi addr) = none →
      Makes (.spiRead 72 addr data (crc 0x3C)) s fun nv d =>
        nv = s.nv ∧ d.readData = BitVec.ofNat 32 w ∧ d.spi = some ⟨0, addr, w % 2 ^ 32⟩) ∧
    (Makes (.spiWrite 72 addr data (crc 0xC3)) s fun _ d =>
      let r := d0.regWrite s.nv .spi addr data
      d = { r.2.2 with spi := some ⟨r.1.spiStatus, addr, data⟩ })) ∧
  (∀ (d : Dev), d.spiResponse.length = 9 ∧ crc8 (d.spiResponse.take 8) = num d.spiResponse 8 1 ∧
    (d.spi = none → num d.spiResponse 0 1 = 0x0F ∧ num d.spiResponse 1 3 = 0 ∧ num d.spiResponse 4 4 = 0xEF5A1664) ∧
    (∀ st a w, d.spi = some ⟨st, a, w⟩ → num d.spiResponse 0 1 = st % 256 ∧ num d.spiResponse 1 3 = a % 2 ^ 24 ∧
      num d.spiResponse 4 4 = w % 2 ^ 32)))

/-- REG_READ and REG_WRITE in band (R393): a last word beyond 0xFF_FFFC ends them MALFORMED with DETAIL 2; REG_READ
answers with the words read in ascending order; a REG_WRITE with a word that is refused writes none and ends
NOT_AUTHORISED; one that writes CHIP_SCRATCH sets it and answers OK. -/
def Obligations.InBandRegisterAccess : Prop :=
  ∀ (s : State) (ctx : Nat) (f : Flight),
    (s.dev.runs ctx 0x60 f → num f.cmd.param 0 4 + 4 * num f.cmd.param 4 4 > 0x1000000 →
      Does (.regRead ctx) s (s.dev.finish ctx stMalformed 0 2)) ∧
    (s.dev.runs ctx 0x60 f → num f.cmd.param 0 4 + 4 * num f.cmd.param 4 4 ≤ 0x1000000 →
      let r := Dev.readWords s.nv (.inBand f.cmd.session) (num f.cmd.param 0 4) (num f.cmd.param 4 4) s.dev
      r.1.length = 4 * num f.cmd.param 4 4 ∧ Does (.regRead ctx) s (r.2.finishOk ctx 0 [] r.1)) ∧
    (s.dev.runs ctx 0x61 f → regSpaceOk (num f.cmd.param 0 4) (chunks 4 f.cmd.value).length = true →
      ∀ cause at_, s.dev.firstRefusal (.inBand f.cmd.session) (chunks 4 f.cmd.value) (num f.cmd.param 0 4) = some (cause, at_) →
      Does (.regWrite ctx) s ((s.dev.refuse (.inBand f.cmd.session) cause at_).finish ctx stNotAuthorised 0 0)) ∧
    (s.dev.runs ctx 0x61 f → num f.cmd.param 0 4 = 0x14 → f.cmd.value.length = 4 →
      s.dev.wholeRefusal (.inBand f.cmd.session) 0x14 (num f.cmd.value 0 4) = none →
      Does (.regWrite ctx) s ((s.dev.setRegN 0x14 (num f.cmd.value 0 4)).finishOk ctx 0 [] []))

/-! ## Starting, resets and power loss -/

/-- Power, RESET_N and rails (R43, R51, R221, R402): power leaves the device in phase RESET, FAULT_N low where SEC is
locked; RESET_N rising samples the
straps and begins phase AON where every rail is in range, and waits in phase RESET where one is not, until all are. -/
def Obligations.StartBegins : Prop :=
  ∀ (s : State) (straps uv ov : Nat), straps < 4 → uv < 512 → ov < 512 →
    (s.dev.life.powered = false →
      Does .powerOn s { s.dev with
        life := { s.dev.life with powered := true, faults := 2 * b2n s.dev.sec.locked }
        pins := { s.dev.pins with resetLow := true, faultLow := s.dev.sec.locked } }) ∧
    (s.dev.life.powered = true → s.dev.life.phase = .reset → s.dev.pins.resetLow = true → uv = 0 ∧ ov = 0 →
      Does (.resetNRise straps uv ov) s { s.dev with
        pins := { s.dev.pins with resetLow := false, straps := straps }
        life := { s.dev.life with phase := .aon, bootSrc := straps, startCycle := s.dev.cycles, pfWait := false }
        sup := { s.dev.sup with uv := 0, ov := 0 } }) ∧
    (s.dev.life.powered = true → s.dev.life.phase = .reset → s.dev.pins.resetLow = true → uv ≠ 0 ∨ ov ≠ 0 →
      Does (.resetNRise straps uv ov) s { s.dev with
        pins := { s.dev.pins with resetLow := false, straps := straps }
        life := { s.dev.life with bootSrc := straps, startCycle := s.dev.cycles }
        sup := { s.dev.sup with uv := uv, ov := ov } }) ∧
    (s.dev.life.powered = true → s.dev.life.phase = .reset → s.dev.pins.resetLow = false →
      Does .railsInRange s { s.dev with
        life := { s.dev.life with phase := .aon, bootSrc := s.dev.pins.straps, pfWait := false }
        sup := { s.dev.sup with uv := 0, ov := 0 } })

/-- The start runs its phases in the order of R46, each completing into the next: AON (at once, or after PWR_FAIL_N has
been high for 10 ms), ROM, FW, MEM, MEDIA, IMAGE, INDEX, META, PORTS, and RUN with READY asserted. BOOT_SRC 0b11 ends in
production test, 0b10 in recovery, 0b01 waits for an image, as does a start that finds no valid copy; where an image was
applied over SPI before phase IMAGE, it stands (R42, R44, R47; that it stands is the model's choice: log entry 77). -/
def Obligations.StartPhasesInOrder : Prop :=
  ∀ (s : State) (ok badA badB : Bool) (ms : Nat) (pages blocks : List (Nat × Option Bytes)),
    let at_ := fun (p : Phase) => s.dev.inPhase p = true
    let copies := fun (r : Except ImgErr Image → Prop) => r (s.dev.checkCopy s.nv s.dev.copyA) ∨ r (s.dev.checkCopy s.nv s.dev.copyB)
    (at_ .aon → s.dev.tooHot = false → s.dev.life.pfWait = false →
      Makes (.phaseAon true) s fun nv d => d.life.phase = .rom ∧ d.ident.serial = s.nv.serial ∧ nv = s.nv) ∧
    (at_ .aon → s.dev.tooHot = false → s.dev.life.pfWait = false → s.dev.sup.pfIgnored = false →
      Makes (.phaseAon false) s fun nv d =>
        d.life.phase = .aon ∧ d.life.pfWait = true ∧ d.ident.serial = s.nv.serial ∧ nv = s.nv) ∧
    (at_ .aon → s.dev.life.pfWait = true → s.dev.tooHot = false →
      Makes .pfStartWaitDone s fun nv d => d.life.phase = .rom ∧ d.life.pfWait = false ∧ d.pins.pfLow = false ∧ nv = s.nv) ∧
    (at_ .rom → s.dev.life.bootSrc ≠ 3 → Makes .phaseRom s fun nv d =>
      d.life.phase = .fw ∧ nv = s.nv ∧ ∀ k, s.nv.indexKey = some k → d.ident.indexKey = k) ∧
    (at_ .rom → s.dev.life.bootSrc = 3 → Makes .phaseRom s fun nv d =>
      d.life.phase = .test ∧ d.pins.faultLow = true ∧ nv = s.nv) ∧
    (at_ .fw → Makes (.phaseFw ok ms) s fun nv d =>
      d.life.phase = .mem ∧ nv.authority = s.nv.authority ∧ (s.dev.life.bootSrc = 2 → d.fw.running = .rom ∧ nv = s.nv)) ∧
    (at_ .mem → Does .phaseMem s { s.dev with life := { s.dev.life with phase := .media } }) ∧
    (at_ .media → Makes (.phaseMedia badA badB) s fun _ d =>
      d.life.phase = (if s.dev.life.bootSrc = 2 then .recovery else .image) ∧ d.life.bootSrc = s.dev.life.bootSrc ∧
      d.life.pfStatus = (s.dev.fmm.pf.map PfArea.status).getD 0) ∧
    (at_ .image → s.dev.image = none → s.dev.life.bootSrc = 1 → Makes .phaseImage s fun nv d =>
      d.life.phase = .waitImage ∧ d.image = none ∧ nv = s.nv) ∧
    (at_ .image → s.dev.image = none → s.dev.life.bootSrc ≠ 1 → ¬ copies (fun r => ∃ im, r = .ok im) →
      Makes .phaseImage s fun nv d => d.life.phase = .waitImage ∧ d.pins.faultLow = true ∧ d.image = none ∧ nv = s.nv) ∧
    (at_ .image → s.dev.image = none → s.dev.life.bootSrc ≠ 1 → copies (fun r => ∃ im, r = .ok im) →
      Makes .phaseImage s fun _ d => d.life.phase = .index ∧ d.image.isSome = true) ∧
    (at_ .image → ∀ im, s.dev.image = some im → Makes .phaseImage s fun nv d =>
      d.life.phase = .index ∧ d.image = some im ∧ nv = s.nv) ∧
    (at_ .index → Makes (.phaseIndex pages blocks) s fun nv d =>
      d.life.phase = .metadata ∧ d.life.replayMs = (s.dev.cycles - s.dev.idx.began) / 1250000 ∧ nv = s.nv) ∧
    (at_ .metadata → Makes .phaseMeta s fun nv d => d.life.phase = .ports ∧ d.fmm.pf = none ∧ nv.lateTriggers = []) ∧
    (at_ .ports → Makes .phasePorts s fun nv d => d.life.phase = .run ∧ nv = s.nv) ∧
    (at_ .run → s.dev.pins.ready = false → s.dev.life.datapathDown = false →
      Makes .phaseRun s fun nv d => d.life.phase = .run ∧ d.pins.ready = true ∧ nv = s.nv)

/-- PWR_FAIL_N (R55, R56): a pulse shorter than 0.5 µs starts nothing, is counted in CHIP_PF_STATUS.GLITCHES and writes
PF_GLITCH; a recognised fall in RUN drops READY and begins the power-fail flush; one before phase META has ended halts the
start. -/
def Obligations.PowerFailBegins : Prop :=
  ∀ s : State, s.dev.life.powered = true →
    (s.dev.life.phase ≠ .reset →
      let n := min 255 (s.dev.life.glitches + 1)
      Does .pfGlitch s (({ s.dev with life := { s.dev.life with glitches := n } }).log evPfGlitch (be 4 n))) ∧
    (s.dev.life.phase = .run → s.dev.life.flush = .none → s.dev.sup.pfIgnored = false →
      Makes .pwrFail s fun nv d => nv = s.nv ∧ d.life.flush = .powerFail ∧ d.life.flushStep = 2 ∧ d.pins.ready = false ∧
        d.pins.pfLow = true ∧ d.life.phase = .run ∧
        (s.dev.rod.flights = [] → s.dev.rod.waiting = [] → d.sess = s.dev.sess ∧ d.cqe = s.dev.cqe)) ∧
    (s.dev.life.phase ∈ ([.rom, .fw, .mem, .media, .image, .index, .metadata, .waitImage, .recovery] : List Phase) →
      s.dev.life.flush = .none → s.dev.sup.pfIgnored = false →
      Makes .pwrFail s fun _ d => d.life.phase = .halt ∧ d.pins.ready = false) ∧
    (s.dev.sup.pfIgnored = true → Does .pwrFail s s.dev)

/-- The power-fail flush goes through its events in order (R56), and ends in HALT with the marker written; 12 ms into it
PF_OVERTIME is written (R59). The suspension of program and erase above 100 °C holds none of them up (R58). -/
def Obligations.FlushEventsInOrder : Prop :=
  ∀ (s : State) (hot : Bool) (retries : Nat),
    let s := { s with dev := { s.dev with fmm := { s.dev.fmm with suspended := hot } } }
    (s.dev.atStep 2 = true → Makes .flushAdmissionStop s fun nv d =>
      nv = s.nv ∧ d.life.flushStep = 3 ∧ d.life.flush = .powerFail ∧ ∀ n < 4, (d.port n).link = .down) ∧
    (s.dev.atStep 3 = true → Makes .flushStagingCutoff s fun _ d =>
      d.life.flushStep = 4 ∧ d.cqe.queued = [] ∧ d.cqe.flights = []) ∧
    (s.dev.atStep 4 = true →
      Does .flushDiesReady s { s.dev with life := { s.dev.life with flushStep := 5 } }) ∧
    (s.dev.atStep 5 = true → Makes (.flushStagingWritten retries) s fun nv d =>
      nv = s.nv ∧ d.life.flushStep = 6 ∧ d.life.retries = retries ∧
      (s.dev.metaDone = true → ∀ p, s.dev.fmm.pf = some p → d.fmm.pf = some { p with staged := s.dev.fmm.staged })) ∧
    (s.dev.atStep 6 = true → Makes .flushMetadataWritten s fun nv d =>
      nv = s.nv.markErases s.dev ∧ d.life.flushStep = 7 ∧
      (s.dev.metaDone = true → (∀ r ∈ d.idx.deltas, r.kept = true) ∧ d.cap.windowsKept = s.dev.cap.windows ∧
        d.cap.streamsKept = s.dev.cap.streams)) ∧
    (s.dev.atStep 7 = true → Makes .flushJournalWritten s fun nv d =>
      nv = s.nv ∧ d.life.flushStep = 8 ∧ d.life.flush = .powerFail) ∧
    (s.dev.atStep 8 = true → s.dev.life.resetHeld = false → Makes .flushComplete s fun nv d =>
      nv = s.nv ∧ d.life.phase = .halt ∧ d.pins.ready = false ∧
      (s.dev.metaDone = true → ∀ p, s.dev.fmm.pf = some p → ∃ q, d.fmm.pf = some q ∧ q.marker = true ∧ q.staged = p.staged)) ∧
    (s.dev.life.flush = .powerFail → s.dev.life.phase ≠ .halt → s.dev.life.overtime = false →
      Does .flushOvertime s
        (({ s.dev with life := { s.dev.life with overtime := true } }).log evPfOvertime (be 4 s.dev.flushUs)))

/-- Loss of the rails and the leaving of HALT (R50, R51, R59, R60): everything volatile is gone, the counters resume at
their next blocks, and SEC's store and the copies of the image stand; leaving HALT begins a start with phase AON. -/
def Obligations.RailsLostAndHaltExit : Prop :=
  ∀ (s : State) (k straps : Nat), straps < 4 →
    (s.dev.life.powered = true → s.dev.imgWin.state ≠ .store → Makes (.railsLost k) s fun nv d =>
      nv = s.nv ∧ d.life.powered = false ∧ d.life.phase = .reset ∧ d.sess = [] ∧ d.cqe.queued = [] ∧ d.cqe.flights = [] ∧
      d.fmm.staged = [] ∧ d.sec.slots = [] ∧ d.sec.sas = [] ∧ d.image = none ∧ d.pins.ready = false ∧
      d.vpl.wctr = max 1 s.dev.vpl.reserved ∧ d.cap.sctr = max 1 s.dev.cap.sctrReserved ∧
      d.copyA = s.dev.copyA ∧ d.copyB = s.dev.copyB ∧ d.keyStore = s.dev.keyStore ∧
      d.regN 0x44 = (if s.dev.life.flush = .powerFail then 3 else 1) ∧ ∀ a, a ≠ 0x44 → d.reg a = resetWord a) ∧
    (s.dev.life.phase = .halt → s.dev.life.flush = .powerFail → s.dev.life.powered = true → Makes (.haltExit straps) s fun nv d =>
      nv = s.nv ∧ d.life.phase = .aon ∧ d.life.bootSrc = straps ∧ d.life.flush = .none ∧ d.sess = [] ∧
      d.fmm.pf = s.dev.fmm.pf ∧ ∀ a, a ≠ 0x44 → d.reg a = resetWord a)

/-- Resets by pin and by register (R51, R53, R62): a pin reset and a device reset begin their flush with READY low and
every session freed; a datapath reset takes the datapath down, READY low, every session freed, the ports DOWN, no
packet held and no MACsec association; a cores reset stops
the firmware and leaves the sessions. Where no command and no session is in the device, a pin reset and a device reset
over SPI change no register but CHIP_RST_CAUSE, which names them, and the journal's own. -/
def Obligations.ResetsBegin : Prop :=
  ∀ (s : State) (i : Iface) (straps : Nat), straps < 4 → s.dev.life.powered = true → s.dev.mayReset = true →
    s.dev.reaches i = true → i ≠ .firmware →
    Makes .pinReset s (fun _ d => d.life.flush = .pin ∧ d.life.flushStep = 0 ∧ d.pins.resetLow = true ∧
      d.pins.ready = false ∧ d.sess = []) ∧
    Makes (.deviceReset i straps) s (fun _ d => d.life.flush = .device ∧ d.life.flushStep = 0 ∧ d.pins.straps = straps ∧
      d.pins.ready = false ∧ d.sess = []) ∧
    (s.dev.life.datapathDown = false →
      Makes (.datapathReset i) s fun _ d => d.life.datapathDown = true ∧ d.pins.ready = false ∧ d.sess = [] ∧ d.rx = [] ∧
        d.cellsHeld = 0 ∧ d.sec.sas = [] ∧ ∀ n < 4, (d.port n).link = .down) ∧
    Makes (.coresReset i) s (fun nv d => nv = s.nv ∧ d.life.coresDown = true ∧ bit (d.regN 0x44) 3 = true ∧
      d.sess = s.dev.sess ∧ d.ports = s.dev.ports ∧ d.pins = s.dev.pins) ∧
    (s.dev.cqe.queued = [] → s.dev.cqe.flights = [] → s.dev.sess = [] →
      let quiet := fun (d : Dev) => ∀ b, b ∉ ([0x44, 0xA0050, evjCnt 3] : List Nat) → d.reg b = s.dev.reg b
      Makes .pinReset s (fun _ d => bit (d.regN 0x44) 2 = true ∧ quiet d ∧ d.ports = s.dev.ports ∧ d.idx = s.dev.idx) ∧
      Makes (.deviceReset .spi straps) s (fun _ d =>
        bit (d.regN 0x44) 3 = true ∧ quiet d ∧ d.ports = s.dev.ports ∧ d.idx = s.dev.idx))

/-- The ends of resets (R51, R79): the shutdown flush of a pin or device reset reloads the device, that of an ordered
shutdown ends in HALT with FAULT_N low; the end of a datapath reset leaves no command, READY high where the
device has started, and the ports as they are; after a cores reset the firmware runs. -/
def Obligations.ResetsEnd : Prop :=
  ∀ s : State,
    (s.dev.life.phase ≠ .halt → s.dev.life.flush = .pin → s.dev.pins.resetLow = true →
      Makes .shutdownFlushDone s fun _ d => d.life.phase = .reset ∧ d.life.flush = .none ∧ d.image = none ∧ d.sess = [] ∧
        ∀ a, a ≠ 0x44 → d.reg a = resetWord a) ∧
    (s.dev.life.phase ≠ .halt → s.dev.life.flush = .device →
      Makes .shutdownFlushDone s fun _ d => d.life.phase = .aon ∧ d.life.bootSrc = s.dev.pins.straps ∧
        d.life.flush = .none ∧ d.image = none ∧ d.sess = [] ∧ ∀ a, a ≠ 0x44 → d.reg a = resetWord a) ∧
    (s.dev.life.phase ≠ .halt → s.dev.life.flush = .shutdown → s.dev.life.resetHeld = false →
      Makes .shutdownFlushDone s fun _ d => d.life.phase = .halt ∧ d.pins.faultLow = true ∧ d.pins.ready = false) ∧
    (s.dev.life.datapathDown = true → s.dev.life.flush = .none → s.dev.life.phase = .run →
      Makes .datapathResetDone s fun nv d => nv = s.nv ∧ d.life.datapathDown = false ∧ d.pins.ready = s.dev.life.started ∧
        d.cqe.queued = [] ∧ d.cqe.flights = [] ∧ d.ports = s.dev.ports ∧ d.sess = s.dev.sess) ∧
    (s.dev.life.coresDown = true → s.dev.fw.heldAct = none → s.dev.ccOff = none →
      Does .coresResetDone s { s.dev with life := { s.dev.life with coresDown := false } })

/-! ## The image window -/

/-- The image window (R37 to R40): an OPEN that is accepted in HOME with a good length begins RECV for its interface; DATA
appends four bytes in order; APPLY, while no image is applied and not in recovery, and STORE, with the whole image received, begin the staged checks; ABORT fails the
window with code 0x0E and frees it. No register's word changes but MGMT_IMG_STATUS's FAIL bit. -/
def Obligations.ImageWindow : Prop :=
  ∀ (s : State) (i : Iface) (w : Nat),
    let x := s.dev.imgWin
    let takes := fun (bits_ : Nat) => s.dev.accepts s.nv i 0x4100 (s.dev.setWord 0x4100 bits_) = true
    let window := fun (nv : Secure) (d : Dev) => nv = s.nv ∧ d = { s.dev with imgWin := d.imgWin, regs := d.regs }
    let quiet := fun (d : Dev) => ∀ a, d.reg a = s.dev.reg a
    (takes 1 → x.state = .home → imgLenOk (s.dev.regF 0x4104 22 0) = true →
      Makes (.imgOpen i) s fun nv d => window nv d ∧ quiet d ∧ d.imgWin.state = .recv ∧ d.imgWin.owner = some i ∧
        d.imgWin.bytes = [] ∧ d.imgWin.rcvd = 0 ∧ d.imgWin.len = s.dev.regF 0x4104 22 0) ∧
    (s.dev.accepts s.nv i 0x4108 w = true → x.owner = some i → x.state = .recv → x.rcvd < x.len →
      Does (.imgData i w) s { s.dev with imgWin := { x with bytes := x.bytes ++ be 4 w, rcvd := x.rcvd + 4 } }) ∧
    (takes 2 → x.owner = some i → x.state = .recv → x.len ≤ x.rcvd → s.dev.image = none → s.dev.life.bootSrc ≠ 2 →
      Makes (.imgApply i) s fun nv d => window nv d ∧ quiet d ∧ d.imgWin = { x with
        state := .check, task := 0, copyA := false, enrol := decide (i = .spi) && s.dev.imgEnrol,
        persist := decide (i = .spi) && s.dev.imgPersist }) ∧
    (takes 4 → x.owner = some i → x.state = .recv → x.len ≤ x.rcvd → s.dev.imgTarget = 0 →
      Makes (.imgStore i) s fun nv d => window nv d ∧ quiet d ∧ d.imgWin.state = .check ∧ d.imgWin.task = 1 ∧
        d.imgWin.copyA = x.inactiveA ∧ d.imgWin.bytes = x.bytes) ∧
    (takes 8 → i = .spi ∨ x.owner = some i → x.state = .recv →
      Makes (.imgAbort i) s fun nv d => window nv d ∧ d.imgWin.state = .home ∧ d.imgWin.owner = none ∧
        d.imgWin.errCode = 0x0E ∧ d.imgWin.bytes = [] ∧ bit (d.regN 0x410C) 11 = true ∧
        ∀ a, a ≠ 0x410C → d.reg a = s.dev.reg a)

/-- The ends of the staged checks and of a copy write (R31, R33, R36, R39): a failure sets FAIL with its section,
stage and code and applies nothing; a good image to be stored begins its copy write, which replaces that copy alone; a
good image to be applied is the device's image, raises the rollback floor to its FLOOR, replaces both copies where
PERSIST asks for it, and sets DONE. -/
def Obligations.ImageChecks : Prop :=
  ∀ s : State, s.dev.coreUp = true → s.dev.life.flush = .none →
    let x := s.dev.imgWin
    let verdict := s.dev.checkAll s.nv x.bytes x.rcvd x.overrun x.enrol
    (∀ e, x.state = .check → verdict = .error e →
      Makes .imgCheckDone s fun nv d => nv = s.nv ∧ d.image = s.dev.image ∧ d.imgWin.state = .home ∧
        d.imgWin.errSection = e.section_ ∧ d.imgWin.errStage = e.stage ∧ d.imgWin.errCode = e.code ∧
        bit (d.regN 0x410C) 11 = true ∧ d.copyA = s.dev.copyA ∧ d.copyB = s.dev.copyB) ∧
    (∀ im, x.state = .check → verdict = .ok im → x.task = 1 →
      Makes .imgCheckDone s fun _ d => d.imgWin.state = .store ∧ d.imgWin.checked = some im ∧ d.image = s.dev.image) ∧
    (∀ im, x.state = .check → verdict = .ok im → x.task ≠ 1 →
      Makes .imgCheckDone s fun nv d => d.image = some im ∧ nv.floor = max s.nv.floor im.floor ∧
        d.imgWin.state = .home ∧ d.imgWin.src = 2 ∧ bit (d.regN 0x410C) 10 = true ∧
        (x.persist = true → d.copyA = some x.bytes ∧ d.copyB = some x.bytes) ∧
        (x.persist = false → d.copyA = s.dev.copyA ∧ d.copyB = s.dev.copyB) ∧
        (s.dev.life.phase = .waitImage → d.life.phase = .index)) ∧
    (∀ im, x.state = .store → x.checked = some im →
      Makes .imgStoreDone s fun nv d => nv = s.nv ∧ d.imgWin.state = .home ∧ bit (d.regN 0x410C) 10 = true ∧
        d.copyA = (if x.copyA then some x.bytes else s.dev.copyA) ∧
        d.copyB = (if x.copyA then s.dev.copyB else some x.bytes))

/-! ## Ports -/

/-- Link states (R66): signal on every lane takes a port from DOWN to SEEK; lock on every lane to HOLD; 1 ms of lock
without fault to UP, with its interrupt; a fault from UP or RFAULT back to SEEK with the queued frames discarded; loss
of signal to DOWN; Remote Fault from UP to RFAULT, where only MAC control frames stay queued; and its absence back to
UP, where data is sent. Other ports keep their state. Receive polarity (R65): a lane in SEEK whose timer expires without
lock, that has gained none since it last lost signal, and a Q10 lane with block lock and error blocks, invert their
polarity where the lane's POL_AUTO is set; each inversion is counted. -/
def Obligations.LinkStates : Prop :=
  (∀ (s : State) (n l cause : Nat) (fec : List Nat), n < 4 → l < 4 →
    let p := s.dev.port n
    let others := fun (nv : Secure) (d : Dev) => nv = s.nv ∧ (∀ m, m ≠ n → d.port m = s.dev.port m) ∧
      d = { s.dev with ports := d.ports, lanes := d.lanes, regs := d.regs, evj := d.evj }
    (p.link = .down → s.dev.portMayRun n = true →
      Makes (.linkSignalDetect n) s fun nv d => others nv d ∧
        d.port n = { p with
          link := .seek, seekSince := s.dev.cycles, stuckWritten := false
          sending := if p.sending = .electricalIdle then .idleOnly else p.sending } ∧
        ∀ l ∈ s.dev.lanesOf n, l < 4 → (d.lane l).sigDet = true) ∧
    (p.link = .seek →
      Makes (.laneLock n fec) s fun nv d => others nv d ∧ d.port n = { p with
        link := .hold, blockLock := true, aligned := decide (s.dev.portMode ≠ 0), hiBer := false, localFault := false } ∧
        ∀ l ∈ s.dev.lanesOf n, l < 4 → (d.lane l).locked = true ∧ (d.lane l).kept = true) ∧
    (p.link = .hold →
      Makes (.linkHoldDone n) s fun nv d => others nv d ∧ (d.port n).link = .up ∧ (d.port n).txq = p.txq ∧
        (d.port n).localFault = false ∧ (d.port n).sending = .data ∧
        bit (d.regN (irqEp n 0).addr) (irqEp n 0).bit = true) ∧
    (p.link.linked = true → cause ≤ 2 →
      Makes (.linkFault n cause) s fun nv d => others nv d ∧ (d.port n).link = .seek ∧ (d.port n).txq = [] ∧
        d.onWire n = none ∧ (d.port n).remoteFault = false ∧ (d.port n).seekSince = s.dev.cycles ∧
        (d.port n).sending = .remoteFault) ∧
    (s.dev.portOfLane l = some n → p.link ≠ .down →
      Makes (.linkSignalLoss l) s fun nv d => others nv d ∧ (d.port n).link = .down ∧ (d.port n).txq = [] ∧
        (d.lane l).sigDet = false ∧ (d.lane l).cdrLock = false ∧ (d.lane l).kept = false) ∧
    (p.link = .up →
      Makes (.remoteFaultRx n) s fun nv d => others nv d ∧ (d.port n).link = .rfault ∧ (d.port n).remoteFault = true ∧
        (d.port n).txq = (p.txq.filter fun f => f.body.isControl) ∧ d.onWire n = none ∧ (d.port n).sending = .idleOnly) ∧
    (p.link = .rfault →
      Makes (.remoteFaultClear n) s fun nv d => others nv d ∧
        d.port n = { p with link := .up, sending := .data, remoteFault := false } ∧ bit (d.regN (irqEp n 0).addr) (irqEp n 0).bit = true)) ∧
  (∀ (s : State) (n l : Nat), l < 4 → s.dev.portOfLane l = some n → s.dev.regF (0x18010 + 0x10 * l) 24 24 = 1 →
    let flipped := (s.dev.modLane l fun x => { x with rxInv := !x.rxInv, flips := satAdd 255 x.flips 1 }).portCount n 61 1
    ((s.dev.port n).link = .seek → (s.dev.lane l).locked = false → (s.dev.lane l).kept = false →
      Does (.polarityTimer l) s flipped) ∧
    (s.dev.portMode = 0 → (s.dev.port n).link = .hold → (s.dev.lane l).locked = true →
      Does (.polarityErrorBlocks l) s flipped) ∧
    (flipped.lane l).rxInv = !(s.dev.lane l).rxInv)

/-- Received frames (R67 to R69, R71, R76, R77), on a port whose EP domain is ON: a frame with an error block, of a bad
length or with a bad FCS is counted in exactly one drop counter, that of the pool where it runs out under a frame that is
too long, and holds no cell after; a good frame that the address filter rejects is counted as such and dropped; a PAUSE
frame sets the pause of a port that honours it, and a PFC frame that of each enabled priority. -/
def Obligations.FramesAreSorted : Prop :=
  ∀ (s : State) (f : Frame), f.port < 4 → (s.dev.port f.port).admits = true → s.dev.epOn f.port = true →
    let n := f.port
    let was := fun (m k : Nat) => (s.dev.port m).counters.getD k 0
    let now := fun (d : Dev) (m k : Nat) => (d.port m).counters.getD k 0
    let counted := fun (nv : Secure) (d : Dev) => nv = s.nv ∧ d = { s.dev with ports := d.ports, regs := d.regs } ∧
      ∀ m, m ≠ n → d.port m = s.dev.port m
    let drops := ([10, 11, 12, 13, 14, 15, 16, 17, 18, 19] : List Nat)
    let bad := f.errorBlock = true ∨ f.len < 64 ∨ s.dev.maxLen n < f.len ∨ f.fcsOk = false
    let starved := s.dev.usesPool n f = true ∧ 256 * s.dev.cellsFree < s.dev.maxLen n
    let cause := if f.errorBlock then 15 else if f.len < 64 then (if f.fcsOk then 11 else 12)
      else if s.dev.maxLen n < f.len then (if starved then 17 else if f.fcsOk then 13 else 14) else 10
    (bad → Makes (.rxFrame f) s fun nv d => nv = s.nv ∧
      d = { s.dev with ports := d.ports, regs := d.regs, evj := d.evj, rates := d.rates, poolLow := d.poolLow,
                       belowXoff := d.belowXoff } ∧
      now d n 1 = (was n 1 + f.len) % 2 ^ 48 ∧ (∀ m, (d.port m).link = (s.dev.port m).link) ∧
      ∀ m, ∀ k ∈ drops, now d m k = if m = n ∧ k = cause then (was m k + 1) % 2 ^ 48 else was m k) ∧
    (¬ bad → s.dev.mine n f = false → Makes (.rxFrame f) s fun nv d => counted nv d ∧
      now d n 2 = (was n 2 + 1) % 2 ^ 48 ∧ ∀ k ∈ drops, now d n k = if k = 16 then (was n k + 1) % 2 ^ 48 else was n k) ∧
    (¬ bad → s.dev.mine n f = true → f.etherType = 0x8808 → ∀ q v t,
      (f.body = .macControl 1 q v t → s.dev.regF (epReg n 0xC) 8 8 = 1 →
        Makes (.pauseRx f) s (fun nv d => counted nv d ∧ (d.port n).pauseLeft = q ∧ (d.port n).pauseSince = s.dev.cycles) ∧
        Makes (.rxFrame f) s fun nv d => counted nv d ∧ (d.port n).pauseLeft = q) ∧
      (f.body = .macControl 0x101 q v t → s.dev.regF (epReg n 0xC) 7 0 ≠ 0 →
        Makes (.pfcRx f) s fun nv d => counted nv d ∧ (d.port n).pfcSince = s.dev.cycles ∧
          ∀ i < 8, bit v i = true → bit (s.dev.regF (epReg n 0xC) 7 0) i = true →
            (d.port n).pfcLeft.find i = if t.getD i 0 = 0 then none else some (t.getD i 0)))

/-- A datagram of a session (R69, R70, R84, R86, R89): a good frame to a port without MACsec, whose datagram is for
the device and whose tuple classifies to a session and is that session's, and whose header agrees with it, is kept in the
cell pool for its transport step. -/
def Obligations.SessionPacketsAreKept : Prop :=
  ∀ (s : State) (f : Frame) (g : Datagram) (sid : Nat) (ss : Sess), f.port < 4 →
    let n := f.port
    let h := DktHdr.ofBytes g.payload
    (s.dev.port n).admits = true → f.errorBlock = false → 64 ≤ f.len → f.len ≤ s.dev.maxLen n → f.fcsOk = true →
    s.dev.mine n f = true → f.etherType = 0x0800 ∨ f.etherType = 0x86DD → s.dev.macsecOn n = false → f.sec = none →
    ceilDiv f.len 256 ≤ s.dev.cellsFree → f.body = .udp g → g.fragment = false → g.options = false → g.csumZero = false →
    g.csumOk = true → s.dev.ownIp n g.v6 g.dst = true → g.dstPort = s.dev.regF 0x20000 31 16 → s.dev.domOn 45 = true →
    (∃ c, classOf (s.dev.search s.dev.profile0 (classWord (keyOf n 0 g))) = .session c) →
    s.dev.keySession (keyOf n 0 g) = some sid → s.dev.session sid = some ss →
    32 ≤ g.payload.length → crc32c (g.payload.take 28) = num g.payload 28 4 → num g.payload 0 1 / 16 = 1 → h.type ≤ 9 →
    h.payLen + 40 = g.udpLen → h.type ≠ 2 → h.type ≠ 9 → ss.wireErr h = none →
    Makes (.rxFrame f) s fun nv d => nv = s.nv ∧ d.rxNext = s.dev.rxNext + 1 ∧
      d.cellsHeld = s.dev.cellsHeld + ceilDiv f.len 256 ∧ d.pins.act0 = true ∧ d.cqe = s.dev.cqe ∧
      d.session sid = some { ss with mac := f.src, heardAt := some s.dev.cycles } ∧
      ∃ k, d.rx.find s.dev.rxNext = some k ∧ k.session = some sid ∧ k.hdr = h ∧ k.payload = g.payload.drop 32

/-- Transmission and pauses (R72 to R78, R225, R227): a port in UP begins the frame chosen: while it is paused only a MAC
control frame, one at a time, and counts it where its EP domain is ON; a data frame on a port with MACsec takes the next
PN of the active association, and is discarded where there is none; the end of a pause lets data go on and counts the
quanta held; XOFF is repeated while the pool is below XON; a cut-through underrun ends the frame after the bytes sent with
a stomped FCS and raises CT_CUR by 1,024 bytes up to 9,216, and CT_RESTORE takes it back to CT_START; STAT_CLEAR zeroes a
port's counters (R80). -/
def Obligations.TransmissionAndPauses : Prop :=
  ∀ (s : State) (n i sent : Nat) (f : TxFrame) (rest : List TxFrame), n < 4 →
    let p := s.dev.port n
    let on := s.dev.epOn n = true
    let count := fun (q : Port) (k : Nat) => q.counters.getD k 0
    (p.nextFrame = some (f, rest) → p.pauseLeft ≠ 0 → f.body.isControl = true) ∧
    (p.link = .up → p.nextFrame = some (f, rest) → s.dev.macsecOn n = false ∨ f.body.isControl = true →
      Makes (.txFrameStart n) s fun nv d => nv = s.nv ∧ (d.port n).txq = rest ∧
        (d.port n).current = some ⟨f, s.dev.cycles, none⟩ ∧
        (on → count (d.port n) 32 = (count p 32 + f.len) % 2 ^ 48 ∧ count (d.port n) 33 = (count p 33 + 1) % 2 ^ 48) ∧
        (∀ m, m ≠ n → d.port m = s.dev.port m) ∧ d = { s.dev with ports := d.ports, regs := d.regs }) ∧
    (p.link = .up → p.nextFrame = some (f, rest) → s.dev.macsecOn n = true → f.body.isControl = false →
      (s.dev.activeSa n = none →
        Makes (.txFrameStart n) s fun nv d => nv = s.nv ∧ d.port n = { p with txq := rest, current := none } ∧
          d.regN (secCnt 8) = satAdd 0xFFFFFFFF (s.dev.regN (secCnt 8)) 1) ∧
      (∀ k sa, s.dev.activeSa n = some (k, sa) → s.dev.sec.sas.find k = some sa →
        Makes (.txFrameStart n) s fun nv d => nv = s.nv ∧ (d.port n).txq = rest ∧
          (d.port n).current = some ⟨f, s.dev.cycles, some (k, sa)⟩ ∧
          ∃ t, d.sec.sas.find k = some t ∧ t.pn = sa.pn + 1)) ∧
    (p.pauseSince ≠ s.dev.cycles →
      Makes (.pauseExpiry n none) s fun nv d => nv = s.nv ∧ (d.port n).pauseLeft = 0 ∧
        (on → count (d.port n) 60 = (count p 60 + p.pauseLeft) % 2 ^ 48) ∧ (∀ m, m ≠ n → d.port m = s.dev.port m)) ∧
    (∀ q, p.pfcLeft.find i = some q → p.pfcSince ≠ s.dev.cycles →
      Makes (.pauseExpiry n (some i)) s fun nv d => nv = s.nv ∧
        ∀ j, (d.port n).pfcLeft.find j = if j = i then none else p.pfcLeft.find j) ∧
    (s.dev.belowXoff = true → s.dev.cellsFree < s.dev.regF 0x1800C 31 16 → s.dev.flowControls n = true →
      let quanta := s.dev.regF (epReg n 0xC) 31 16
      let prios := s.dev.regF (epReg n 0xC) 7 0
      Makes (.xoffRepeat n) s fun nv d => nv = s.nv ∧ d = { s.dev with ports := d.ports } ∧
        d.port n = { p with txq := p.txq ++
          [⟨0x0180C2000001, 0, 64, if prios = 0 then .pause quanta else .pfc prios quanta⟩] }) ∧
    (∀ now, n = 0 → s.dev.onWire 0 = some now → s.dev.portMode = 3 → s.dev.regF 0x10004 16 16 = 1 →
      p.ctCur < now.frame.len → p.ctCur ≤ sent → sent + 4 < now.frame.len →
      let out := (now.bytes (s.dev.portMac 0) (s.dev.portVlan 0)).take sent
      Makes (.txUnderrun 0 sent) s fun nv d => nv = s.nv ∧ (d.port 0).current = none ∧
        (d.port 0).stomped = out ++ stompedFcs out ∧
        (d.port 0).ctCur = min 9216 (p.ctCur + 1024) ∧ bit (d.regN (irqEp 0 3).addr) (irqEp 0 3).bit = true ∧
        (on → count (d.port 0) 40 = (count p 40 + 1) % 2 ^ 48)) ∧
    (∀ j, s.dev.accepts s.nv j 0x10004 (s.dev.setWord 0x10004 0x20000) = true →
      Makes (.ctRestore j) s fun nv d => nv = s.nv ∧ (∀ a, d.reg a = s.dev.reg a) ∧
        d.port 0 = { s.dev.port 0 with ctCur := s.dev.regF 0x10004 13 0 } ∧ (∀ m, m ≠ 0 → d.port m = s.dev.port m) ∧
        d = { s.dev with ports := d.ports, regs := d.regs }) ∧
    (∀ j, s.dev.accepts s.nv j (epReg n 0x20) 1 = true →
      Does (.statClear j n) s (s.dev.modPort n fun p => { p with counters := [] }))

/-! ## Dialur Key Transport -/

/-- An OPEN with a credential and privileges that it grants, a window in range and room for a session, is challenged
under the lowest free session ID, whose epoch rises by 1 modulo 16 (R90, R91, R93). -/
def Obligations.OpenIsChallenged : Prop :=
  ∀ (s : State) (pid sid granted : Nat) (k : RxPkt) (key : KeyGen),
    let d := s.dev
    let p := k.payload
    d.admits = true → d.rx.find pid = some k → k.hdr.type = 2 → d.keySession k.key = none → p.length = 32 → d.league.role = 0 →
    d.credential (num p 16 2) = some (granted, key) → 1 ≤ num p 18 1 → num p 18 1 < 32 →
    num p 18 1 &&& granted = num p 18 1 → d.halfOpen < 256 → d.freeId = some sid →
    bit (num p 18 1) 0 = true ∨ d.regF 0x20004 6 0 < d.freeIds → d.classFree k.key = true →
    1 ≤ num p 20 2 → num p 20 2 ≤ 1024 →
    Makes (.openPkt pid) s fun nv e => nv = s.nv ∧ e.rx.find pid = none ∧ e.cqe = d.cqe ∧ ∃ ss,
      e.session sid = some ss ∧ ss.state = .challenged ∧ ss.key = k.key ∧ ss.wireId = sid ∧
      ss.epoch = (d.epochs.getD sid 0 + 1) % 16 ∧ e.epochs.getD sid 0 = ss.epoch ∧ ss.bound = some key ∧
      ss.rxNext = k.hdr.seq ∧ ss.privReq = num p 18 1 ∧ ss.cn = slice p 0 16

/-- A PROOF (R92, R94, R104): the right one establishes the session with the privileges that its OPEN asked for; any
other refuses it and frees the session. A ticket that nothing refuses establishes a session at once under the lowest
free session ID, with the privileges that it names, and is noted so that it opens no second one (R105, R106). -/
def Obligations.SessionsAreEstablished : Prop :=
  (∀ (s : State) (pid sid : Nat) (k : RxPkt) (ss : Sess) (key : KeyGen),
    s.dev.admits = true → s.dev.rx.find pid = some k → k.hdr.type = 4 → s.dev.sessionOf k = .ok sid →
    s.dev.session sid = some ss → ss.opener = false → ss.state = .challenged → ss.bound = some key →
    let proof := proofOf key.key ss.cn ss.dn ss.epoch sid ss.slot ss.privReq ss.hostIsn
    (k.payload = proof → Makes (.proofPkt pid) s fun nv d => nv = s.nv ∧ d.rx.find pid = none ∧ ∃ t,
      d.session sid = some t ∧ t.state = .established ∧ t.priv = ss.privReq ∧ t.bound = none ∧ t.epoch = ss.epoch) ∧
    (k.payload ≠ proof → Makes (.proofPkt pid) s fun _ d => d.rx.find pid = none ∧ d.session sid = none ∧
      bit (d.regN (irqDkt 2).addr) (irqDkt 2).bit = true)) ∧
  (∀ (s : State) (pid sid : Nat) (k : RxPkt),
    let d := s.dev
    let p := k.payload
    d.admits = true → d.rx.find pid = some k → k.hdr.type = 9 → d.keySession k.key = none → p.length = 32 →
    d.ticketCause k = none → d.freeId = some sid → bit (num p 1 1) 0 = true ∨ d.regF 0x20004 6 0 < d.freeIds →
    d.classFree k.key = true → 1 ≤ num p 28 2 → num p 28 2 ≤ 1024 →
    Makes (.openTicket pid) s fun nv e => nv = s.nv ∧ e.rx.find pid = none ∧
      (e.lge.tickets.any fun t => t.1 == slice p 12 16) = true ∧ ∃ ss, e.session sid = some ss ∧
        ss.state = .established ∧ ss.ticket = true ∧ ss.priv = num p 1 1 ∧ ss.key = k.key ∧
        ss.epoch = (d.epochs.getD sid 0 + 1) % 16)

/-- Opens that this device makes (R91, R92, R313, R315): CHALLENGE is answered under the peer's session and epoch; the
right DPROOF establishes the session, any other frees it, and so does REFUSE. -/
def Obligations.OwnOpens : Prop :=
  ∀ (s : State) (pid sid : Nat) (k : RxPkt) (ss : Sess) (key : KeyGen),
    s.dev.admits = true → s.dev.rx.find pid = some k → s.dev.sessionOf k = .ok sid → s.dev.session sid = some ss →
    ss.opener = true → ss.bound = some key →
    let proof := dproofOf key.key ss.dn ss.cn ss.wireEpoch ss.wireId (num k.payload 0 1) ss.devIsn
    (k.hdr.type = 3 → ss.state = .opening → Makes (.challengePkt pid) s fun nv d => nv = s.nv ∧ ∃ t,
      d.session sid = some t ∧ t.state = .challenged ∧ t.wireId = k.hdr.session ∧ t.wireEpoch = k.hdr.epoch ∧
      t.dn = k.payload ∧ t.rxNext = k.hdr.seq) ∧
    (k.hdr.type = 5 → ss.state = .challenged →
      (slice k.payload 8 32 = proof → Makes (.acceptPkt pid) s fun nv d => nv = s.nv ∧ ∃ t,
        d.session sid = some t ∧ t.state = .established ∧ t.priv = num k.payload 0 1) ∧
      (slice k.payload 8 32 ≠ proof → Makes (.acceptPkt pid) s fun _ d => d.session sid = none)) ∧
    (k.hdr.type = 6 → ss.state = .opening ∨ ss.state = .challenged →
      Makes (.refusePkt pid) s fun _ d => d.session sid = none)

/-- A request that comes whole in one packet of its session, next in sequence (R88, R89, R95 to R97, R114, R119, R314), not
on queue 7 of a session that is no League session: the command is queued under the next arrival number with its TAG
taken. The same for a request wrapped in LG_RELAY or LG_REPLICATE, which queue the command that they carry. A packet
received before is counted, acknowledged and dropped, and one beyond the advertised LIMIT too (R97, R98): neither reaches
a command. -/
def Obligations.RequestsAreQueuedOnce : Prop :=
  (∀ (s : State) (pid sid : Nat) (k : RxPkt) (ss : Sess),
    let d := s.dev
    let h := k.hdr
    let a := arrivalOf k.payload
    let c := cmdOf sid h.queue h.tag a.req true a.mirror k.cells
    d.admits = true → d.rx.find pid = some k → h.type = 0 → d.sessionOf k = .ok sid → d.session sid = some ss →
    (h.queue = 7 → ss.league = true) →
    ss.opener = false → ss.state = .established → ss.held = [] → ss.inMsgs.find h.queue = none → h.seq = ss.rxNext →
    seqLe h.seq ss.advLimit = true → h.som = true → h.eom = true → h.offset = 0 → h.seq < 2 ^ 32 →
    d.messageRefusal ss h.queue h.tag k.payload.length a true = none → k.payload.length = a.outer.total → d.noRoom c = 0 →
    let queued := fun (nv : Secure) (e : Dev) => nv = s.nv ∧ e.rx.find pid = none ∧
      e.cqe.arrivals = d.cqe.arrivals + 1 ∧ e.cqe.queued.find d.cqe.arrivals = some c ∧
      e.cqe.flights = d.cqe.flights ∧ ∃ t, e.session sid = some t ∧ t.rxNext = seqAdd ss.rxNext 1 ∧
        t.tags = h.tag :: ss.tags
    Makes (.dataPkt pid) s queued ∧
    (num k.payload 0 1 = 0x6D → Makes (.lgRelay pid) s queued) ∧
    (num k.payload 0 1 = 0x6C → Makes (.lgReplicate pid) s queued)) ∧
  (∀ (s : State) (pid sid : Nat) (k : RxPkt) (ss : Sess),
    s.dev.admits = true → s.dev.rx.find pid = some k → k.hdr.type = 0 → s.dev.sessionOf k = .ok sid →
    s.dev.session sid = some ss → ss.state = .established →
    let dropped := fun (c : Nat) => Makes (.dataPkt pid) s fun nv d => nv = s.nv ∧ d.cqe = s.dev.cqe ∧
      d.rx.find pid = none ∧ d.regN (dktCnt c) = satAdd 0xFFFFFFFF (s.dev.regN (dktCnt c)) 1 ∧
      ∃ t, d.session sid = some t ∧ t.rxNext = ss.rxNext ∧ t.inMsgs = ss.inMsgs ∧ t.held = ss.held
    (seqLt k.hdr.seq ss.rxNext = true → dropped 5) ∧
    (seqLt k.hdr.seq ss.rxNext = false → ss.held.has k.hdr.seq = false → seqLe k.hdr.seq ss.advLimit = false → dropped 6))

/-- Acknowledgement (R88, R100, R102): an ACK or KEEPALIVE that acknowledges something new drops what it covers from
the packets held for retransmission and resets the retry count and the timeout; and a keepalive due is sent as one
frame of the session, or counted as dropped while its port is not UP. The first 12 expiries of the retransmission
timer, in a core cycle in which no acknowledgement made progress (R15), resend the oldest packet held, double the timeout up to 128 ms and count a retry; the next ends the session. -/
def Obligations.AcknowledgementsAndKeepalives : Prop :=
  ∀ (s : State) (pid sid : Nat) (k : RxPkt) (ss : Sess), s.dev.admits = true → s.dev.session sid = some ss →
    ss.state = .established →
    let h := k.hdr
    let acked := fun (nv : Secure) (d : Dev) => nv = s.nv ∧ d.rx.find pid = none ∧ d.cqe = s.dev.cqe ∧
      ∃ t, d.session sid = some t ∧ t.retries = 0 ∧ t.timeoutUs = 64 ∧ t.state = .established ∧
        (ss.out = [] → t.unacked.map (·.seq) = ((ss.unacked.filter fun p => !seqLt p.seq h.ack).map (·.seq)))
    (s.dev.rx.find pid = some k → s.dev.sessionOf k = .ok sid → seqLt ss.una h.ack = true → seqLe h.ack ss.txNext = true →
      h.type = 1 → Makes (.ackPkt pid) s acked) ∧
    (s.dev.rx.find pid = some k → s.dev.sessionOf k = .ok sid → seqLt ss.una h.ack = true → seqLe h.ack ss.txNext = true →
      h.type = 7 → Makes (.keepalivePkt pid) s acked) ∧
    (ss.key.port < 4 → Makes (.keepaliveSend sid) s fun nv d =>
      nv = s.nv ∧ d = { s.dev with ports := d.ports, regs := d.regs, sess := d.sess } ∧
      let was := s.dev.port ss.key.port
      let now := d.port ss.key.port
      if was.link = .up then ∃ f, now.txq = was.txq ++ [f] ∧ f.dst = ss.mac
      else now.txq = was.txq ∧
        (s.dev.epOn ss.key.port = true → now.counters.getD 42 0 = (was.counters.getD 42 0 + 1) % 2 ^ 48)) ∧
    (∀ (p : TxPkt) (rest : List TxPkt), ss.unacked = p :: rest →
      (ss.retries < 12 → ss.ackedAt ≠ some s.dev.cycles → Makes (.retxTimeout sid) s fun nv d => nv = s.nv ∧
        d = { s.dev with ports := d.ports, regs := d.regs, sess := d.sess } ∧
        d.regN (dktCnt 10) = satAdd 0xFFFFFFFF (s.dev.regN (dktCnt 10)) 1 ∧ ∃ t, d.session sid = some t ∧
          t.retries = ss.retries + 1 ∧ t.timeoutUs = min 128000 (2 * ss.timeoutUs) ∧
          t.unacked.map (·.seq) = ss.unacked.map (·.seq)) ∧
      (12 ≤ ss.retries → ss.ackedAt ≠ some s.dev.cycles → Makes (.retxTimeout sid) s fun _ d => d.session sid = none))

/-- How sessions end (R102 to R104): the open timer frees a session still challenged; keepalive loss ends an
established or draining one on which nothing came in the same core cycle (R15); DKT_SESS_KILL with the key ends any; a CLOSE in sequence with nothing left to send is
answered by CLOSE. -/
def Obligations.SessionsEnd : Prop :=
  ∀ (s : State) (sid : Nat) (ss : Sess), s.dev.session sid = some ss →
    (s.dev.admits = true → ss.state = .challenged → ss.opener = false →
      Makes (.openTimerExpiry sid) s fun _ d => d.session sid = none) ∧
    (s.dev.admits = true → ss.state = .established ∨ ss.state = .draining → ss.heardAt ≠ some s.dev.cycles →
      Makes (.keepaliveLoss sid) s fun _ d => d.session sid = none) ∧
    (∀ i, sid < 4096 → s.dev.accepts s.nv i 0x20018 (0xD1A10000 + sid) = true →
      Makes (.sessKill i sid) s fun _ d => d.session sid = none) ∧
    (∀ (pid : Nat) (k : RxPkt), s.dev.admits = true → s.dev.rx.find pid = some k → k.hdr.type = 8 →
      s.dev.sessionOf k = .ok sid → ss.state = .established → ss.opener = false → ss.inMsgs = [] → ss.out = [] →
      ss.unacked = [] → ss.held = [] → k.hdr.seq = ss.rxNext → k.hdr.seq < 2 ^ 32 → seqLe k.hdr.seq ss.advLimit = true →
      seqLe ss.txNext ss.txLimit = true → k.hdr.ack = ss.txNext → k.hdr.limit = ss.txLimit →
      (∀ q ∈ s.dev.cqe.queued, q.2.session ≠ sid) → (∀ q ∈ s.dev.cqe.flights, q.2.cmd.session ≠ sid) →
      Makes (.closePkt pid) s fun nv d => nv = s.nv ∧ ∃ t, d.session sid = some t ∧ t.state = .closing ∧
        t.unacked.map (fun (p : TxPkt) => (p.type, p.seq)) = [(8, ss.txNext)])

/-! ## The command engine -/

/-- Privileges (R96, R112, R313): a record that needs a privilege the session lacks is refused at arrival, NOT_AUTHORISED
where nothing else is wrong; the admin privilege stands for every other; queue 7 of a session between devices needs no
privilege, and a message on queue 7 of any other session is MALFORMED with DETAIL 5. -/
def Obligations.PrivilegesAtArrival : Prop :=
  (∀ (s : Sess) (queue tag carried : Nat) (r : Req) (outer : Option Nat) (whole : Bool),
    let refusal := Dev.arrivalRefusal s queue tag carried r outer whole
    (¬ (s.league = true ∧ queue = 7) → privOk s.priv r.op = false → refusal ≠ none) ∧
    (¬ (s.league = true ∧ queue = 7) → privOk s.priv r.op = false →
      Dev.arrivalRefusal { s with priv := 1 } queue tag carried r outer whole = none →
      refusal = some (stNotAuthorised, 0, 0)) ∧
    (bit s.priv 0 = true → privOk s.priv r.op = true) ∧
    (s.league = true → queue = 7 → refusal ≠ some (stNotAuthorised, 0, 0))) ∧
  (∀ (d : Dev) (sid : Nat) (s : Sess) (k : RxPkt), k.hdr.queue = 7 → s.league = false → k.hdr.eom = true →
    d.firstPacket sid s k =
      (d.refuseTag sid 7 k.hdr.tag (num k.payload 0 1) stMalformed 0 5).freeCells k.cells)

/-- Dispatch (R116, R118 to R121, R197): the command chosen leaves its queue for a context with the keys of its namespaces
bound, is charged its cost, and stays there for its opcode to run where its checks pass; a new window keeps the last one's costs and takes the
arbitration policy from its registers; a queued command whose TIMEOUT passes is removed and answered, and one without
a TIMEOUT stays. -/
def Obligations.DispatchAndTimeouts : Prop :=
  ∀ (s : State) (n cls : Nat) (c : Cmd) (beyond : Bool) (e : Engine),
    (let d := s.dev.ctxWatch
     s.dev.dispatches = true → d.choose = (some (n, c, cls), beyond, e) → s.dev.dispatchRefusal c = none →
      s.dev.places c = false →
      Makes .dispatch s fun nv t => nv = s.nv ∧ t.cqe.queued.find n = none ∧
        t.cqe.flights.find n = some
          ⟨{ c with cells := 0 }, cls, e.dispatched, s.dev.bindKeys c, false, false, .fresh⟩ ∧
        t.cqe.dispatched = e.dispatched + 1 ∧ t.cqe.allCost = e.allCost + s.dev.cost c) ∧
    (let q := s.dev.cqe
     Does .arbWindow s { s.dev with cqe := { q with
      lastU := min 0xFFFFFFFF q.uCost, lastAll := min 0xFFFFFFFF q.allCost, uCost := 0, allCost := 0, mgmt := []
      weights := [s.dev.regF 0x30000 7 0, s.dev.regF 0x30000 15 8, s.dev.regF 0x30000 23 16, s.dev.regF 0x30000 31 24]
      urgentPct := s.dev.regF 0x30004 6 0, mRate := s.dev.regF 0x30004 31 16 } }) ∧
    (s.dev.admits = true → s.dev.cqe.queued.find n = some c → s.dev.cqe.paused = false → s.dev.life.coresDown = false →
      (c.timeout = 0 → Does (.commandTimeout n) s s.dev) ∧
      (c.timeout ≠ 0 → Makes (.commandTimeout n) s fun nv d => nv = s.nv ∧ d.cqe.queued = s.dev.cqe.queued.del n ∧
        d.regN (cqeCnt 5) = satAdd 0xFFFFFFFF (s.dev.regN (cqeCnt 5)) 1 ∧
        bit (d.regN (irqCqe 4).addr) (irqCqe 4).bit = true))

/-! ## Hash and Extent values -/

/-- Reads of Hash and Extent namespaces whose index is there (R140, R142, R143, R180, R201 to R204): an absent key ends
NOT_FOUND, and where a candidate's header failed its checks INTEGRITY; a present one's length is EXISTS's DETAIL, GET,
GET_RANGE and EXTENT_READ begin to read the segments that their bytes lie in and an empty value is answered at once;
unmapped segments read as zeros; ITERATE answers the entries from its cursor on, and refuses a cursor that was not issued
for the namespace. Where the index has left, each ends RESOURCE_OFF. `hdrs` are the headers as flash gives them. -/
def Obligations.ReadsAnswer : Prop :=
  ∀ (s : State) (ctx : Nat) (hdrs : List (Nat × Bytes)) (f : Flight) (n : Namespace), s.dev.activeNs f.cmd.ns = some n →
    let runs := fun (op : Nat) => s.dev.runs ctx op f
    (∀ dom, n.entry.type ≤ 1 → s.dev.idxOff = some dom →
      let gone := s.dev.finish ctx stResourceOff 0 dom
      (runs 0x01 → Does (.get ctx hdrs) s gone) ∧ (runs 0x04 → Does (.existsKey ctx hdrs) s gone) ∧
      (runs 0x06 → Does (.getRange ctx hdrs) s gone) ∧ (runs 0x07 → Does (.iterate ctx hdrs) s gone) ∧
      (runs 0x11 → Does (.extentRead ctx hdrs) s gone)) ∧
    (2 ≤ n.entry.type ∨ s.dev.idxOff = none →
      let bad := s.dev.badHeaders hdrs
      let l := s.dev.lookup ⟨f.cmd.ns, f.cmd.key, none, none⟩ bad
      let d0 := s.dev.countLook l
      (l.hit = none →
        let gone := d0.finish ctx (if l.bad.isEmpty then stNotFound else stIntegrity) 0
          (if l.bad.isEmpty then 0 else 0xFFFFFFFFFFFFFFFF)
        (runs 0x01 → Does (.get ctx hdrs) s gone) ∧ (runs 0x06 → Does (.getRange ctx hdrs) s gone) ∧
        (runs 0x04 → Does (.existsKey ctx hdrs) s gone) ∧ (runs 0x11 → Does (.extentRead ctx hdrs) s gone)) ∧
      (∀ k e v, l.hit = some (k, e, v) → d0.headerOff e.loc v = none →
        let d1 := if d0.onFlash e.loc v.hdrGrains then d0.countReads (locBushel e.loc) 1 else d0
        let lo := min v.valueLen (num f.cmd.param 0 8)
        let hi := min v.valueLen (lo + num f.cmd.param 8 4)
        let ready := fun (j : ReadJob) => needsDz j.segs = false ∨ d1.dzOff = none
        let whole := readJobOf e.loc v 0 v.valueLen
        let part := readJobOf e.loc v lo hi
        (runs 0x04 → Does (.existsKey ctx hdrs) s
          (d1.finishWith ctx (response 0x04 stOk 0 0 v.version v.valueLen [] []))) ∧
        (runs 0x01 → f.cmd.raw = false → ready whole → Acts (.get ctx hdrs) s (d1.startRead ctx whole)) ∧
        (runs 0x01 → f.cmd.raw = true → ready (rawJobOf e.loc v) →
          Acts (.get ctx hdrs) s (d1.startRead ctx (rawJobOf e.loc v))) ∧
        (runs 0x01 → f.cmd.raw = false → v.valueLen = 0 → Makes (.get ctx hdrs) s fun _ d => d.flight ctx = none) ∧
        (runs 0x06 → ready part → Acts (.getRange ctx hdrs) s (d1.startRead ctx part)) ∧
        (runs 0x06 → hi ≤ lo → Makes (.getRange ctx hdrs) s fun _ d => d.flight ctx = none) ∧
        (part.total = hi - lo ∧ part.version = v.version ∧ part.raw = false ∧
          ∀ x ∈ part.segs, x.src = some v ∧ x.loc = e.loc ∧ x.ready = none ∧ x.off + x.len ≤ 65536 ∧
            lo ≤ 65536 * x.idx + x.off ∧ 65536 * x.idx + x.off + x.len ≤ hi) ∧
        (runs 0x11 →
          let nos := if hi ≤ lo then [] else (List.range ((hi - 1) / 65536 + 1 - lo / 65536)).map (· + lo / 65536)
          let r := Dev.extentSegs f.cmd.ns f.cmd.key v.createVer lo hi bad nos d1
          r.1.length = nos.length ∧
          Acts (.extentRead ctx hdrs) s (r.2.beginRead ctx
            { segs := r.1, raw := false, flags := 0, version := v.version, param := [], total := hi - lo, sent := false
              delivered := 0 }))) ∧
      (∀ seg a b, (s.dev.lookup ⟨f.cmd.ns, f.cmd.key, some seg, some n.createVer⟩ bad).hit = none →
        (s.dev.lookup ⟨f.cmd.ns, f.cmd.key, some seg, some n.createVer⟩ bad).bad = [] →
        (s.dev.extentSeg f.cmd.ns f.cmd.key n.createVer bad seg a b).1.ready = some (zeros (b - a))) ∧
      (runs 0x07 → cursorOk n (num f.cmd.param 0 8) = false → Does (.iterate ctx hdrs) s (s.dev.finish ctx stMalformed 0 2)) ∧
      (runs 0x07 → cursorOk n (num f.cmd.param 0 8) = true →
        let from_ := bits (num f.cmd.param 0 8) 31 0 - 1
        let cands := s.dev.idx.slots.filter fun p => from_ ≤ p.1 && !p.2.seg && p.2.tag == f.cmd.ns % 512
        let failed := bad.filter fun b => cands.any fun p => p.2.loc == b.1
        let hits := cands.filterMap fun p =>
          if failed.any (fun b => b.1 == p.2.loc) then none
          else (s.dev.fmm.values.find p.2.loc).bind fun v => if v.ns = f.cmd.ns then some (p.1, v) else none
        let m := num f.cmd.param 8 2
        let data := (hits.take m).flatMap fun h => iterEntry h.2
        let next := (((hits.drop m).head?).map fun h => cursorAt n h.1).getD 0
        Does (.iterate ctx hdrs) s (((s.dev.reportHeaders failed).chargeLate ctx data.length).finishWith ctx
          (response 0x07 stOk (if next = 0 then 0 else 4) data.length 0 0 (be 8 next) data))))

/-- What a read may release (R193, R201, R202): a segment passes its checks only where its bytes have its original length
and the CRC of its descriptor; a segment that holds the lane and the engine that it needs and passes is released once
every segment before it is, and the last one ends the command; one that fails ends the read with the status of its
failure. -/
def Obligations.ReadSegmentsAreChecked : Prop :=
  (∀ (d : Dev) (h : EngineHold) (loc k : Nat) (v : Value) (r : MediaRead) (plain stored : Bytes),
    d.checkSeg h loc v k r = .pass plain stored →
    ∃ x, v.segs[k]? = some x ∧ plain.length = v.segLen k ∧ crc32c plain = x.crc) ∧
  (∀ (s : State) (ctx pos : Nat) (r : MediaRead) (f : Flight) (j : ReadJob) (x : ReadSeg) (v : Value),
    s.dev.flight ctx = some f → f.job = .read j → j.segs[pos]? = some x → x.src = some v → x.ready = none → x.stop = none →
    s.dev.reclaimed v = false → s.dev.mayCheck (v.need x.idx ⟨ctx, 0, x.no⟩) = true →
    let c := s.dev.checkedSeg ⟨ctx, 0, x.no⟩ x.loc v x.idx r
    (∀ plain stored, c.1 = .pass plain stored →
      let y := { x with ready := some (if j.raw then stored else slice plain x.off x.len) }
      (∀ z rest, j.segs = z :: rest → 0 < pos → z.ready = none → z.stop = none →
        Makes (.segmentChecked ctx pos r) s fun _ d => ∃ e : Dev, e.sess = s.dev.sess ∧ d = e.assign ∧
          e.flight ctx = some { f with job := .read { j with segs := j.segs.set pos y } }) ∧
      (j.segs = [x] → Makes (.segmentChecked ctx pos r) s fun _ d => d.flight ctx = none)) ∧
    ((∀ plain stored, c.1 ≠ .pass plain stored) → pos = 0 →
      Makes (.segmentChecked ctx pos r) s fun _ d => d.flight ctx = none ∧
        (j.sent = false → ∃ e : Dev, e.sess = s.dev.sess ∧ e.flight ctx = some { f with job := .read { j with segs :=
          [{ x with stop := some (c.1.status x.detail) }] } } ∧
          d = ((e.finish ctx (c.1.status x.detail).1 0 (c.1.status x.detail).2).cleanEngines).assign)))

/-- Writes of Hash and Extent namespaces begin (R139 to R141, R144 to R146, R156, R160, R166, R180, R197, R199): where the
namespace takes writes under the key bound at dispatch, its index is there, the key limit does not stand in the way and
CAS_PUT finds the version that it expects, the command's job is its write, which moves on as far as its bytes allow;
otherwise it ends with the status that the rules give and changes no key. QUIRE applies its check pass, and FLUSH waits
for the writes of its session before it. -/
def Obligations.WritesBegin : Prop :=
  ∀ (s : State) (ctx : Nat) (f : Flight) (n : Namespace),
    let d := s.dev
    let was := d.root f.cmd.ns f.cmd.key
    let looked := d.countLook (d.lookup ⟨f.cmd.ns, f.cmd.key, none, none⟩ [])
    let found := d.activeNs f.cmd.ns = some n ∧ (2 ≤ n.entry.type ∨ d.idxOff = none)
    let full := idxLimit ≤ d.idx.used
    let begun := fun (e : Dev) (job : WriteJob) => (e.modFlight ctx fun g => { g with job := .write job }).advance ctx
    let own := fun (kind off : Nat) =>
      WriteJob.start [WOp.empty f.cmd.op kind f.cmd.ns f.cmd.key (d.boundKey f n) 0] false off
    let p0 := num f.cmd.param 0 8
    (found → d.writeRefusal f n = none →
      (d.runs ctx 0x02 f → was.isSome = true ∨ ¬full → Acts (.put ctx) s (begun d (d.putJob f n))) ∧
      (d.runs ctx 0x02 f → was.isNone = true → full →
        Does (.put ctx) s ((d.keysFull n.entry.nsId).finish ctx stNoSpace 0 0)) ∧
      (d.runs ctx 0x05 f → (was = none ∧ p0 = 0 ∧ ¬full) ∨ (∃ k e v, was = some (k, e, v) ∧ v.version = p0 ∧ p0 ≠ 0) →
        Acts (.casPut ctx) s (begun looked (d.putJob f n))) ∧
      (d.runs ctx 0x10 f → was.isSome = true ∨ ¬full → Acts (.extentWrite ctx) s (begun d (own 1 p0))) ∧
      (d.runs ctx 0x12 f → was.isSome = true → Acts (.discard ctx) s (begun looked (own 1 p0))) ∧
      (d.runs ctx 0x03 f → was.isSome = true → Acts (.delete ctx) s (begun looked (own 0 0))) ∧
      (d.runs ctx 0x05 f → was = none → p0 ≠ 0 → Does (.casPut ctx) s (looked.finish ctx stVersionMismatch 0 0)) ∧
      (∀ k e v, d.runs ctx 0x05 f → was = some (k, e, v) → p0 = 0 →
        Does (.casPut ctx) s (looked.finish ctx stExists v.version 0)) ∧
      (∀ k e v, d.runs ctx 0x05 f → was = some (k, e, v) → p0 ≠ 0 → p0 ≠ v.version →
        Does (.casPut ctx) s (looked.finish ctx stVersionMismatch v.version 0)) ∧
      (d.runs ctx 0x03 f → was = none → Does (.delete ctx) s (looked.finish ctx stNotFound 0 0)) ∧
      (d.runs ctx 0x12 f → was = none → Does (.discard ctx) s (looked.finish ctx stNotFound 0 0))) ∧
    (found → ∀ status detail, d.writeRefusal f n = some (status, detail) →
      let refused := (d.reportRefusal status).finish ctx status 0 detail
      (d.runs ctx 0x02 f → Does (.put ctx) s refused) ∧ (d.runs ctx 0x05 f → Does (.casPut ctx) s refused) ∧
      (d.runs ctx 0x03 f → Does (.delete ctx) s refused) ∧ (d.runs ctx 0x10 f → Does (.extentWrite ctx) s refused) ∧
      (d.runs ctx 0x12 f → Does (.discard ctx) s refused)) ∧
    (∀ subs, d.runs ctx 0x30 f → subRecords (num f.cmd.param 0 1) 0 f.cmd.value = .ok subs →
      (∀ i status v, d.quireOps f 0 [] subs = .error (i, status, v, false) →
        Does (.quire ctx) s (((d.reportRefusal status).count (cqeCnt 10)).finish ctx status v i)) ∧
      (∀ ops, d.quireOps f 0 [] subs = .ok ops → ¬full →
        Acts (.quire ctx) s (d.modFlight ctx fun g => { g with job := .write (WriteJob.start ops false 0) }).assign)) ∧
    (d.runs ctx 0x38 f → d.channelOff = none →
      Acts (.flush ctx) s ((((d.modFlight ctx fun g => { g with job := .flush }).flushMembers ctx
        f.cmd.session).flushesDone).leaguePump))

/-- Commits (R17, R139, R175, R180, R198, R200): a write whose segments are all in place commits; it waits while index
changes are held, and ends RESOURCE_OFF where the index has left. Versions and COUNTERs come from one counter that
never returns a value twice. -/
def Obligations.WritesCommit : Prop :=
  (∀ (s : State) (ctx : Nat) (f : Flight) (w : WriteJob), s.dev.flight ctx = some f → f.write = some w →
    w.phase = .building → w.complete f.cmd = true →
    let indexed := w.through = false ∧ ∃ o ∈ w.ops, o.kind ≤ 2
    (¬ indexed ∨ (s.dev.idxOff = none ∧ s.dev.idx.held = false) →
      Acts (.stagingComplete ctx) s (((s.dev.commit ctx f w).flushesDone).leaguePump)) ∧
    (indexed → s.dev.idxOff = none → s.dev.idx.held = true → Does (.stagingComplete ctx) s s.dev.holdIndex) ∧
    (∀ dom, indexed → s.dev.idxOff = some dom →
      Does (.stagingComplete ctx) s ((s.dev.failWrite ctx stResourceOff 0 dom).flushesDone))) ∧
  (∀ (d e : Dev) (v : Nat), d.drawCtr = (some v, e) → v = d.vpl.wctr ∧ v ≤ wctrLast ∧ e.vpl.wctr = v + 1 ∧
    d.vpl.reserved ≤ e.vpl.reserved) ∧
  (∀ (d e : Dev), d.drawCtr = (none, e) → wctrLast < d.vpl.wctr ∧ e.vpl.wctr = d.vpl.wctr)

/-- The pipeline of a write (R186, R190, R191, R193, R194): a value is cut into segments of 64 KiB whose bytes are the
value's, in order; a CZ engine's stream is kept where it is an output of the engine's for its segment, in its COMP and
DEPTH, that fits, a longer one leaves the segment raw, and the engine is free again; a sealed segment is placed and its
lane is free again. -/
def Obligations.PipelineStages : Prop :=
  (∀ v : Bytes, (cutValue v).flatMap (·.plain) = v ∧
    ∀ x ∈ cutValue v, x.plain.length = x.len ∧ 1 ≤ x.len ∧ x.len ≤ 65536 ∧ x.crc = crc32c x.plain) ∧
  (∀ (s : State) (n ng e comp depth : Nat) (stream : Bytes) (h : EngineHold) (f : Flight) (o : WOp) (x : SegWork),
    s.dev.segOf h = some (f, o, x) →
    (s.dev.vpl.cz.find n = some h → x.stage = .compressing e ng comp depth →
      let freed := { s.dev with vpl := { s.dev.vpl with cz := s.dev.vpl.cz.del n } }
      let as_ := fun (form : Nat) (body : Bytes) (d : Dev) => (d.modWrite h.ctx fun w => w.modSeg h.op h.seg fun g =>
        { g with form := form, body := body, stage := afterCompress o }).assign
      (stream.length ≤ lMax x.len ng → czOutput comp depth x.plain stream = true →
        inflate stream = some x.plain ∧ Acts (.segmentCompressed n stream) s (as_ 1 stream freed)) ∧
      (lMax x.len ng < stream.length →
        Acts (.segmentCompressed n stream) s (as_ 0 x.plain (freed.count (vplCnt 2)))) ∧
      (stream.length ≤ lMax x.len ng → czOutput comp depth x.plain stream = false →
        Does (.segmentCompressed n stream) s s.dev)) ∧
    (s.dev.vpl.ae.find n = some h → x.stage.atLane = true →
      let freed := { s.dev with vpl := { s.dev.vpl with ae := s.dev.vpl.ae.del n } }
      Acts (.segmentSealed n) s ((freed.count (vplCnt 4)).modWrite h.ctx fun w => w.modSeg h.op h.seg fun g =>
        { g with stage := .placed }).assign))

/-! ## Furlong, Fathom and Chain -/

/-- Furlong records and Fathom windows (R271 to R280): an append whose TIME is not before its stream's last begins its
write, one before it is MALFORMED with DETAIL 2; a scan answers the records of its stream in its range, each once, at
most as many as asked and within the size bound, and stops at one whose header fails its checks; a pin opens the lowest free window, or is BUSY with DETAIL 4; a
release waits for the window table, whose commit answers the pins, gives up the windows released, and makes the table
on flash the present one. -/
def Obligations.FurlongAndFathom : Prop :=
  ∀ (s : State) (ctx : Nat) (hdrs : List (Nat × Bytes)) (f : Flight) (n : Namespace),
    let d := s.dev
    let p := f.cmd.param
    let last := (d.cap.streams.getD (streamKey f.cmd.ns (num p 0 2)) ⟨0, 0⟩).last
    let found := d.activeNs f.cmd.ns = some n ∧ (2 ≤ n.entry.type ∨ d.idxOff = none)
    (found → d.runs ctx 0x20 f →
      (last ≤ num p 4 8 → d.writeRefusal f n = none → Acts (.streamAppend ctx) s ((d.modFlight ctx fun g => { g with
        job := .write (WriteJob.start [{ WOp.empty 0x20 3 f.cmd.ns (be 2 (num p 0 2)) (d.boundKey f n) f.cmd.valLen with
          time := num p 4 8 }] (atomicSize < f.cmd.valLen) 0) }).advance ctx)) ∧
      (num p 4 8 < last → Does (.streamAppend ctx) s (d.finish ctx stMalformed 0 2))) ∧
    (found → d.runs ctx 0x21 f →
      let bad := d.badHeaders hdrs
      let recs := d.streamRecs f.cmd.ns (num p 0 2) (num p 4 4) (num p 8 8) (num p 16 8)
      let out := takeScan (fun (x : Nat × Value) => x.2.valueLen) (num p 24 4) 0 recs
      (num p 16 8 < num p 8 8 → Does (.streamScan ctx hdrs) s (d.finish ctx stMalformed 0 2)) ∧
      (num p 8 8 ≤ num p 16 8 → recs = [] → Does (.streamScan ctx hdrs) s (d.finish ctx stNotFound 0 0)) ∧
      (num p 8 8 ≤ num p 16 8 → recs ≠ [] → Acts (.streamScan ctx hdrs) s
        ((d.reportScan bad (out.map Prod.fst)).beginScan ctx (scanSegs bad Prod.fst (fun x =>
          recordSegs x.1 x.2 (be 8 (recTime x.2) ++ be 4 (recSeq x.2) ++ be 4 x.2.valueLen)) out) (out.length < recs.length)
          ((out.map fun x => scannedLen x.2.valueLen).sum))) ∧
      (∀ x ∈ recs, x ∈ d.fmm.values ∧ x.2.kind = 3 ∧ x.2.ns = f.cmd.ns ∧ num x.2.key 0 2 = num p 0 2 ∧
        num p 8 8 ≤ recTime x.2 ∧ recTime x.2 ≤ num p 16 8) ∧
      (recs.map fun x => x.2.key).Nodup ∧ out.length ≤ num p 24 4 ∧ out <+: recs ∧
      (out.length ≤ 1 ∨ (out.map fun x => scannedLen x.2.valueLen).sum ≤ scanBound)) ∧
    (d.runs ctx 0x22 f →
      (d.freeWindow = none → Does (.fathomPin ctx) s (d.finish ctx stBusy 0 4)) ∧
      (∀ w, d.freeWindow = some w → w < 16 ∧ d.cap.windows.find w = none ∧ Makes (.fathomPin ctx) s fun nv e =>
        let t := if num p 0 8 = 0 then d.now else num p 0 8
        nv = s.nv ∧ e.flight ctx = some { f with job := .window w none } ∧ e.cap.windowDirty = true ∧ e.sess = d.sess ∧
          e.cap.windows.find w = some ⟨0, t, t - num p 8 4 * 1000000, min timeTop (t + num p 12 4 * 1000000), d.tq, 0⟩ ∧
          e.cap.windowsKept = d.cap.windowsKept)) ∧
    (d.runs ctx 0x23 f →
      (d.cap.windows.has (num p 0 1) = true → d.releasing (num p 0 1) = false →
        Does (.fathomRelease ctx) s ({ d with cap := { d.cap with windowDirty := true } }.modFlight ctx fun g =>
          { g with job := .window (num p 0 1) (some 0) })) ∧
      (d.cap.windows.has (num p 0 1) = false ∨ d.releasing (num p 0 1) = true → Does (.fathomRelease ctx) s (d.finish ctx stNotFound 0 0))) ∧
    (d.mediaOn = true → Makes .windowTableCommit s fun _ e =>
      e.cap.windowDirty = false ∧ e.cap.windowsKept = e.cap.windows ∧
      ∀ c g w back, d.flight c = some g → g.job = .window w back →
        e.flight c = none ∧ (back.isSome = true → e.cap.windows.has w = false))

/-- Chain commands (R283 to R289): an append begins its write, or is CHAIN_FULL after the last sequence; a read
answers the records from FROM or the first kept on; a seal answers the one that ends the Chain, or writes one; an
expiry removes records from the front while they are at or below its sequence and past their retention, and is
RETENTION_LOCKED where the first is not. A Chain record (R281, R282): its sequence, its PREV and its tag, the HMAC
under the Chain tag key of `DKR1` and the rest of the record, stand where the format puts them. -/
def Obligations.ChainCommands : Prop :=
  (∀ (s : State) (ctx : Nat) (hdrs : List (Nat × Bytes)) (f : Flight) (n : Namespace), s.dev.activeNs f.cmd.ns = some n →
    2 ≤ n.entry.type ∨ s.dev.idxOff = none →
    let d := s.dev
    let l := d.ledger f.cmd.ns
    let p := f.cmd.param
    (d.runs ctx 0x28 f → d.writeRefusal f n = none → d.chainRefusal false = none →
      (l.next < lastSeq → Acts (.chainAppend ctx) s ((d.modFlight ctx fun g => { g with
        job := .write (WriteJob.start [WOp.empty 0x28 4 f.cmd.ns [] (d.boundKey f n) 0] false 0) }).advance ctx)) ∧
      (lastSeq ≤ l.next → l.ended = true →
        Does (.chainAppend ctx) s ((d.raise (irqXt 4)).finish ctx stChainFull 0 0))) ∧
    (d.runs ctx 0x29 f →
      let recs := l.recs.filter fun r => decide (max (num p 0 8) l.first ≤ r.1)
      let out := takeScan (fun (x : Nat × ChainRec) => x.2.len) (num p 8 4) 0 recs
      let bad := d.badHeaders hdrs
      let loc := fun (x : Nat × ChainRec) => x.2.loc
      (recs = [] → Does (.chainRead ctx hdrs) s (d.finish ctx stNotFound 0 0)) ∧
      (recs ≠ [] → Acts (.chainRead ctx hdrs) s ((d.reportScan bad (out.map loc)).beginScan ctx
        (scanSegs bad loc d.chainSegs out) (out.length < recs.length) ((out.map fun x => scannedLen x.2.len).sum)))) ∧
    (d.runs ctx 0x2A f → d.writeRefusal f n = none → d.chainRefusal true = none → l.next ≤ lastSeq →
      (∀ c, l.dueCause = some c → Acts (.chainSeal ctx) s (d.beginSeal ctx f n l c (be 8 l.next))) ∧
      (∀ k r, l.dueCause = none → l.lastRec = some (k, r) → r.sealRec = true →
        Does (.chainSeal ctx) s (d.finishOk ctx (d.versionAt r.loc) (be 8 k) [])) ∧
      (∀ k r, l.dueCause = none → l.lastRec = some (k, r) → r.sealRec = false →
        Acts (.chainSeal ctx) s (d.beginSeal ctx f n l 2 (be 8 l.next))) ∧
      (l.dueCause = none → l.lastRec = none → Acts (.chainSeal ctx) s (d.beginSeal ctx f n l 2 (be 8 l.next)))) ∧
    (d.runs ctx 0x2B f → d.keyRefusal f n = none → d.chainRefusal true = none →
      let upTo := num p 0 8
      let count := d.expirable n.entry.retention upTo l.recs
      (l.recs = [] → Does (.chainExpire ctx) s (d.finishOk ctx 0 (zeros 16) [])) ∧
      (l.recs ≠ [] → upTo < l.first → Does (.chainExpire ctx) s (d.finishOk ctx 0 (zeros 8 ++ be 8 l.first) [])) ∧
      (l.recs ≠ [] → l.first ≤ upTo → l.first ≠ lastSeq → count = 0 →
        Does (.chainExpire ctx) s (d.finish ctx stRetentionLocked 0 l.first)) ∧
      (l.first ≤ upTo → l.first ≠ lastSeq → 0 < count → d.channelOff = none →
        Makes (.chainExpire ctx) s fun _ e => (e.ledger f.cmd.ns).recs = l.recs.drop count ∧
          (e.ledger f.cmd.ns).first = l.firstAfter count ∧ (e.ledger f.cmd.ns).next = l.next) ∧
      (∀ x ∈ l.recs.take count, x.1 ≤ upTo ∧ x.1 ≠ lastSeq) ∧ (tqTrusted d.tq = false → count = 0))) ∧
  (∀ (rtype ns cseq : Nat) (st : Nat × Nat × Nat) (prev key payload : Bytes), prev.length = 32 →
    let r := chainRecord rtype ns cseq st prev key payload
    r.length = 104 + payload.length ∧ num r 0 2 = rtype % 2 ^ 16 ∧ num r 4 2 = ns % 2 ^ 16 ∧ num r 8 8 = cseq % 2 ^ 64 ∧
      num r 16 8 = st.1 % 2 ^ 64 ∧ num r 32 8 = st.2.2 % 2 ^ 64 ∧ slice r 40 32 = prev ∧
      slice r 72 payload.length = payload ∧
      r.drop (72 + payload.length) = hmac256 key ([0x44, 0x4B, 0x52, 0x31] ++ r.take (72 + payload.length)))

/-! ## Namespaces -/

/-- Namespace commands (R149 to R158): a creation or deletion that nothing refuses waits for its table write, whose
commit, while firmware runs, makes the namespace active as its entry says, or puts it into DELETING; queries answer the record of 128 bytes
or the summary of 192; the end of a purge frees the ID; a policy write in range changes the four policy fields of the
selected namespace, and one out of range none. -/
def Obligations.NamespaceCommands : Prop :=
  ∀ (s : State) (ctx : Nat) (f : Flight),
    let d := s.dev
    (d.runs ctx 0x40 f →
      (createEntry f.cmd.param = none → Does (.nsCreate ctx) s (d.finish ctx stMalformed 0 2)) ∧
      (∀ e, createEntry f.cmd.param = some e →
        (d.createRefusal e = none → Does (.nsCreate ctx) s (d.modFlight ctx fun g => { g with
          job := .nsCreate { e with nsId := if e.nsId = 0 then d.freeNs.getD 0 else e.nsId } })) ∧
        (∀ status detail, d.createRefusal e = some (status, detail) →
          Does (.nsCreate ctx) s ((d.reportRefusal status).finish ctx status 0 detail)))) ∧
    (∀ e, d.flight ctx = some f → f.job = .nsCreate e → d.life.coresDown = false → d.vpl.wctr ≤ wctrLast →
      Makes (.nsTableCommit ctx) s fun _ t => t.flight ctx = none ∧ (∀ m, m ≠ e.nsId → t.ns m = d.ns m) ∧
        ∃ n, t.ns e.nsId = some n ∧ n.entry = { e with depth := heldDepth e.comp e.depth } ∧ n.state = .active ∧
          n.comp = e.comp ∧ n.depth = heldDepth e.comp e.depth ∧ n.noGain = e.noGain ∧ n.cls = e.cls ∧
          n.createVer = d.vpl.wctr ∧ n.salt.length = (if e.enc = 1 then 4 else 0)) ∧
    (∀ n, d.runs ctx 0x41 f → d.activeNs f.cmd.ns = some n →
      (d.deleteRefusal f.cmd.ns n = none →
        Does (.nsDelete ctx) s (d.modFlight ctx fun g => { g with job := .nsDelete })) ∧
      (∀ at_, d.deleteRefusal f.cmd.ns n = some at_ → Does (.nsDelete ctx) s (d.finish ctx stRetentionLocked 0 at_))) ∧
    (∀ n, d.flight ctx = some f → f.job = .nsDelete → d.life.coresDown = false → d.activeNs f.cmd.ns = some n →
      Makes (.nsTableCommit ctx) s fun nv t => nv = s.nv ∧ t.flight ctx = none ∧ t.activeNs f.cmd.ns = none ∧
        t.idx.sweep.isSome = true ∧ ∃ m, t.ns f.cmd.ns = some m ∧ m.state = .deleting ∧ m.entry = n.entry) ∧
    (d.runs ctx 0x42 f →
      (f.cmd.ns = 0 → Does (.nsQuery ctx) s (d.finishOk ctx 0 [] d.nsSummary)) ∧
      (∀ n, f.cmd.ns ≠ 0 → d.ns f.cmd.ns = some n →
        Does (.nsQuery ctx) s (d.finishOk ctx 0 [] (d.nsRecord f.cmd.ns n)) ∧ (d.nsRecord f.cmd.ns n).length = 128) ∧
      (f.cmd.ns ≠ 0 → d.ns f.cmd.ns = none → Does (.nsQuery ctx) s (d.finish ctx stNsUnknown 0 0))) ∧
    d.nsSummary.length = 192 ∧
    (∀ w x, d.mediaOn = true → d.idx.sweep = some w → (d.sweepUnits w.ns w.next unitEnd).idx.sweep = some x →
      unitEnd ≤ x.next → (d.sweepUnits w.ns w.next unitEnd).mayPurge = true →
      Makes .purgeDone s fun nv t => nv = s.nv ∧ t.ns w.ns = none ∧ t.cap.ledgers.find w.ns = none ∧
        (∀ m, m ≠ w.ns → (t.ns m).map (·.entry) = (d.ns m).map (·.entry))) ∧
    (∀ i w n, s.dev.accepts s.nv i 0x50008 w = true → d.ns d.policyNs = some n →
      let bad := 2 < bits w 1 0 ∨ bits w 15 8 < 2 ∨ 5 < bits w 7 5 ∨ (bits w 1 0 ≠ 0 ∧ (bits w 24 16 < 4 ∨ 256 < bits w 24 16))
      let depth := if bits w 1 0 = 0 then 0 else bits w 24 16
      (¬ bad → Makes (.nsPolicyWrite i w) s fun nv t => nv = s.nv ∧
        t.nss = d.nss.put d.policyNs { n with comp := bits w 1 0, depth := depth, noGain := bits w 15 8, cls := bits w 7 5 } ∧
        t = { d with nss := t.nss, evj := t.evj, regs := t.regs }) ∧
      (bad → Does (.nsPolicyWrite i w) s d))

/-! ## The index -/

/-- The index (R154, R175 to R182): a checkpoint begins with the units changed since the last one and the present
counts, at a block that passes a multiple of 8,192 or by IDX_CP_CTL.FORCE; its commit makes its page the one that a start
replays from; RESCAN with its key begins a rescan, and its end, as that of a rebuild, leaves the index READY; a purge
sweep examines the next unit; a segment removal removes the next stale entry of the first object on the list, and takes
an object off it that is present again or has none left. -/
def Obligations.IndexUpkeep : Prop :=
  ∀ (s : State) (i : Iface),
    let d := s.dev
    let x := d.idx
    (d.mediaOn = true → d.idxOff = none → x.run = none → x.committed.origin / 8192 < x.block / 8192 →
      Does .checkpointBegin s d.cpBegin) ∧
    (d.accepts s.nv i 0x40020 1 = true → d.idxOff = none → x.run = none → Does (.cpForce i) s d.cpBegin) ∧
    (∃ r, d.cpBegin.idx.run = some r ∧ r.startCycle = d.cycles ∧
      r.page = ⟨x.committed.gen + 1, x.block, x.used, x.keys, x.cursor⟩ ∧
      (d.mayProgram = false → d.cpBegin.idx.dirty = [] ∧ ∀ u ∈ x.dirty, u ∈ r.units)) ∧
    (∀ r t, d.mediaOn = true → x.run = some r → d.mayProgram = true → d.cpCommit r = some t →
      Acts .checkpointCommit s (t.programsDone.flushesDone.leaguePump) ∧ t.idx.committed = r.page ∧ t.idx.run = none ∧
        t.idx.heldSince = none ∧ (∀ c ∈ t.idx.deltas, r.page.origin ≤ c.pos / 128)) ∧
    (d.accepts s.nv i 0x40000 0xD1A10001 = true → d.idxOff = none →
      Makes (.rescan i) s fun nv t => nv = s.nv ∧ t = { d with idx := t.idx, regs := t.regs } ∧
        t.idx = { x with state := .rescan, began := d.cycles, cause := 255 }) ∧
    (∀ pages blocks, d.mediaOn = true → (∀ n ∈ ([53, 54, 55, 56, 63] : List Nat), d.domOn n = true) →
      x.state = .rebuild ∨ (x.state = .rescan ∧ d.rescan.isSome = true) →
      Makes (.indexRebuildDone pages blocks) s fun nv t =>
        nv = s.nv ∧ t.idx.state = .ready ∧ t.sess = d.sess ∧ t.cqe = d.cqe) ∧
    (∀ w, d.mediaOn = true → d.mayPurge = true → x.sweep = some w → w.next < unitEnd →
      Makes .purgeSweepStep s fun nv t => nv = s.nv ∧ ∃ v, t.idx.sweep = some v ∧ v.ns = w.ns ∧ w.removed ≤ v.removed ∧
        (v.next = w.next + 1 ∨ (v.next = w.next ∧ t.mayPurge = false))) ∧
    (∀ r rest, d.mediaOn = true → d.mayPurge = true → x.removals = r :: rest →
      (d.revived r = true → Does .segmentRemoval s { d with idx := { x with removals := rest } }) ∧
      (∀ e, d.revived r = false → Dev.staleSegment r r.next (r.limit - r.next) d = (none, e) →
        Does .segmentRemoval s { e with idx := { e.idx with removals := rest } }) ∧
      (∀ seg k en e, d.revived r = false → Dev.staleSegment r r.next (r.limit - r.next) d = (some (seg, k, en), e) →
        Makes .segmentRemoval s fun nv t => nv = s.nv ∧ t.idx.slots.find k = none ∧
          t.idx.removals = { r with next := seg + 1 } :: rest))

/-! ## The event journal -/

/-- The journal (R332, R335 to R340): a part has 32 bytes under its CRC; one part at a time drains into the ring under
the next sequence, the oldest leaving a full ring; records that await persistence enter the store, 512 parts at once
or sooner where one is CRITICAL, or on command; JOURNAL_READ answers whole records from its sequence on, with MORE
where COUNT cut it short, passes over the slots whose CRC fails, and counts them; EVJ_RD gives the part at its
sequence. -/
def Obligations.JournalCommands : Prop :=
  (∀ (p : JPart) (seq : Nat), (p.bytes seq).length = 32 ∧ num (p.bytes seq) 0 5 = seq % 2 ^ 40 ∧
    num (p.bytes seq) 28 4 = crc32c ((p.bytes seq).take 28)) ∧
  (∀ (s : State) (i : Iface),
    let d := s.dev
    let j := d.evj
    let one := fun (r : List RingPart) => d.awaiting = [r] ∧ r ≠ [] ∧ r.length ≤ pageSize ∧ j.stored + r.length + 1 ≤ storeSize
    let kept := fun (r : List RingPart) (nv : Secure) (t : Dev) => nv = s.nv ∧
      t.evj.store = j.store ++ [r.map fun p => (p.seq, p.p)] ∧ t.evj.nextSeq = j.nextSeq ∧ t.evj.fifo = j.fifo ∧
      (∀ p ∈ t.evj.ring, p.seq ∈ r.map (·.seq) → p.kept = true) ∧ t.sess = d.sess
    (∀ p rest, d.coreUp = true → j.fifo = p :: rest → d.ringStalled = false → j.ended = false → j.lost = 0 →
      (p.part = 0 → j.nextSeq + partCount (p :: rest) ≤ jrnLast) →
      Makes .journalDrain s fun nv t => nv = s.nv ∧ t.evj.fifo = rest ∧ t.evj.nextSeq = j.nextSeq + 1 ∧
        t.evj.ring = (if ringSize ≤ j.ring.length then j.ring.drop 1 else j.ring) ++ [⟨j.nextSeq, false, false, p⟩] ∧
        t.regN (evjCnt 0) = satAdd 0xFFFFFFFF (d.regN (evjCnt 0)) 1 ∧ t = { d with evj := t.evj, regs := t.regs }) ∧
    (∀ r, d.flushBefore 4 = true → d.mediaUp = true → d.mayProgram = true → one r →
      r.length = pageSize ∨ (∃ p ∈ r, 5 ≤ p.p.sev) → Makes .journalPageProgram s (kept r)) ∧
    (∀ r, d.accepts s.nv i 0xA0000 (d.setWord 0xA0000 0x100) = true → d.mediaUp = true → d.mayProgram = true → one r →
      Makes (.journalPersist i) s (kept r)) ∧
    (∀ ctx f bad, d.runs ctx 0x5A f →
      let from_ := num f.cmd.param 0 8
      let later := j.held.filter fun r => decide (from_ ≤ (r.head?.map (·.1)).getD 0)
      let good := later.filter fun r => !(r.any fun p => bad.contains p.1)
      let recs := takeRecs (num f.cmd.param 8 4) true good
      let parts := recs.flatMap id
      let next := (parts.getLast?.map (·.1 + 1)).getD from_
      let cut := decide (recs.length < good.length)
      let skipped := (later.flatMap id).countP fun p => bad.contains p.1 && (!cut || decide (p.1 < next))
      Does (.journalRead ctx bad) s
        ((((d.findBad bad).countN (evjCnt 6) skipped).chargeLate ctx (32 * parts.length)).finishData ctx
          (if cut then 4 else 0) 0 (be 8 next) (parts.flatMap fun p => p.2.bytes p.1)) ∧
        ((∀ r ∈ j.held, r ≠ []) → recs.length ≤ 1 ∨ parts.length ≤ num f.cmd.param 8 4)) ∧
    (∀ p bad, d.accepts s.nv i 0xA0028 1 = true → bad.contains d.rdSeq = false →
      (j.store.flatMap id ++ j.ring.map fun p => (p.seq, p.p)).find? (fun p => p.1 == d.rdSeq) = some p →
      Makes (.journalRd i bad) s fun nv t => nv = s.nv ∧
        t.evj = { j with rdHit := true, rdData := p.2.bytes d.rdSeq, badSlots := bad } ∧
        t = { d with evj := t.evj, regs := t.regs } ∧ bit (t.regN 0xA0028) 1 = true))

/-! ## Keys, alarms, MACsec and time -/

/-- Key slots (R208, R211 to R215): a load whose checks pass waits for both key-store copies, in band and over SPI; a
load that fails one is counted and answered; the commit makes the key the slot's newest generation, in SEC and in both
copies; an erase takes the key out of its slot, and its commit out of SEC and of both copies. A load passes only into an unlocked
SEC, to a slot that exists, under a policy that exists, as the slot's next generation. -/
def Obligations.KeySlots : Prop :=
  ∀ (s : State) (ctx : Nat) (f : Flight),
    let d := s.dev
    let slot := num f.cmd.param 0 2
    (∀ sl po pr len b g, d.checkLoad s.nv sl po pr len b = .ok g → d.sec.locked = false ∧ sl ≤ 511 ∧ 1 ≤ po ∧ po ≤ 4 ∧
      g.gen = s.nv.slotGen.getD sl 0 + (d.loadsOf sl).length + 1 ∧ g.gen ≤ 0xFFFFFFFF ∧ len = 124) ∧
    (d.runs ctx 0x48 f →
      let r := d.checkLoad s.nv slot (num f.cmd.param 2 1) (num f.cmd.param 3 1)
        (if num f.cmd.param 4 4 = 0 then f.cmd.valLen else 0) f.cmd.value
      (∀ status detail, r = .error (status, detail) →
        Does (.keyslotLoad ctx) s ((d.count (secCnt 1)).finish ctx status 0 detail)) ∧
      (∀ g, r = .ok g → Makes (.keyslotLoad ctx) s fun nv e => nv = s.nv ∧ e.sec.slots = d.sec.slots ∧
        e.flight ctx = some { f with job := .keyCommit } ∧ e.sec.loads = d.sec.loads ++
          [⟨slot, ⟨num f.cmd.param 2 1, num f.cmd.param 3 1, [g]⟩, g.gen, some ctx, .inBand f.cmd.session⟩])) ∧
    (∀ l g rest, d.secOn = true → d.sec.loads = l :: rest → l.entry.gens = [g] → (∀ e ∈ d.sec.erases, e.1 ≠ l.slot) →
      Makes .keystoreCommit s fun nv e =>
        nv = { s.nv with slotGen := s.nv.slotGen.put l.slot l.gen, erased := false } ∧ e.sec.loads = rest ∧
        e.keyStore = ⟨some (s.nv.eraseEpoch, e.sec.slots), some (s.nv.eraseEpoch, e.sec.slots)⟩ ∧
        (∃ k, e.sec.slots.find l.slot = some k ∧ k.policy = l.entry.policy ∧ k.priv = l.entry.priv ∧
          k.gens.head? = some g ∧ k.gens.length ≤ (if l.entry.policy = 1 then 16 else 1)) ∧
        (∀ k, k ≠ l.slot → e.sec.slots.find k = d.sec.slots.find k) ∧ (∀ c, l.ctx = some c → e.flight c = none) ∧
        (l.ctx = none → bits (e.regN 0x60088) 7 0 = stOk ∧ bit (e.regN 0x60088) 8 = true)) ∧
    (d.runs ctx 0x49 f → d.loadsOf slot = [] → (∀ e ∈ d.sec.erases, e.1 ≠ slot) →
      (d.slotHeld slot = false → Does (.keyslotErase ctx) s (d.finish ctx stNotFound 0 0)) ∧
      (d.slotHeld slot = true → Makes (.keyslotErase ctx) s fun nv e => nv = s.nv ∧ e.sec.slots = d.sec.slots.del slot ∧
        ∃ n, e.sec.erases = d.sec.erases ++ [(slot, some ctx, n)])) ∧
    (∀ k c n rest, d.secOn = true → d.sec.erases = (k, c, n) :: rest → Makes .keyEraseCommit s fun nv e =>
      nv = { s.nv with eraseMarks := s.nv.eraseMarks.del k } ∧ e.sec.erases = rest ∧
        e.sec.slots = d.sec.slots.del k ∧ (∀ x, e.keyStore.copyA = some x → x.2.find k = none) ∧ (∀ x, e.keyStore.copyB = some x → x.2.find k = none) ∧
        ∀ m, c = some m → e.flight m = none) ∧
    (∀ w, d.accepts s.nv .spi 0x60084 w = true → Does (.kloadData w) s { d with
      sec := { d.sec with kload := (d.sec.kload ++ be 4 w).take 124, kloadCount := d.sec.kloadCount + 4 } }) ∧
    (∀ sl po pr, sl < 512 → po < 8 → pr < 256 →
      d.accepts s.nv .spi 0x60080 (2 ^ 31 + po * 2 ^ 24 + pr * 2 ^ 16 + sl) = true →
      let r := d.checkLoad s.nv sl po pr d.sec.kloadCount d.sec.kload
      (∀ status detail, r = .error (status, detail) → Makes (.kloadGo sl po pr) s fun nv e => nv = s.nv ∧
        bits (e.regN 0x60088) 7 0 = status % 256 ∧ bit (e.regN 0x60088) 8 = true ∧ e.sec.kload = [] ∧ e.sec.loads = d.sec.loads) ∧
      (∀ g, r = .ok g → Makes (.kloadGo sl po pr) s fun nv e => nv = s.nv ∧ e.sec.kload = [] ∧ e.sec.kloadCount = 0 ∧
        e.sec.loads = d.sec.loads ++ [⟨sl, ⟨po, pr, [g]⟩, g.gen, none, .spi⟩]))

/-- Alarms and unlock (R219 to R224): a source that trips latches its bit, counts, zeroizes every key, locks SEC and
holds FAULT_N low; with HARD_ALARM it also raises ERASE_EPOCH by 1, after which both key-store copies are erased. An
unlock over SPI unlocks only where it is not blocked, no source is active and its signature verifies; one that fails
is counted and blocks until 1 s has passed. -/
def Obligations.AlarmsAndUnlock : Prop :=
  ∀ (s : State) (src active : Nat),
    let d := s.dev
    let nv := s.nv
    let hard := d.hardAlarm && (!d.sec.locked || !nv.erased)
    (d.life.powered = true → src % 16 ≠ 0 → d.life.bootSrc ≠ 3 → Makes (.alarm src active) s fun t e =>
      t.alarmLatch = nv.alarmLatch ||| src % 16 ∧ t.alarms = satAdd 0xFFFF nv.alarms 1 ∧
      e.sec.locked = true ∧ e.sec.slots = [] ∧ e.sec.ksk = none ∧ e.sec.ik = none ∧ e.sec.lk = none ∧ e.sec.loads = [] ∧
      e.sec.sources = active % 16 ∧ e.pins.faultLow = true ∧
      (hard = true → t.erased = true ∧ (nv.eraseEpoch ≠ 0xFFFFFFFF → t.eraseEpoch = nv.eraseEpoch + 1)) ∧
      (hard = false → t.erased = nv.erased ∧ t.eraseEpoch = nv.eraseEpoch)) ∧
    (d.mediaUp = true → nv.erased = true → d.sec.locked = true →
      Does .cryptoEraseDone s { d with keyStore := ⟨none, none⟩ }) ∧
    (let d' := { d with sec := { d.sec with sources := active % 16 } }
     let fails := Makes (.unlock active) s fun t e => t = { nv with unlockFails := satAdd 0xFFFF nv.unlockFails 1 } ∧
       e.sec.blocked = true ∧ e.sec.locked = true ∧ e.sec.slots = d.sec.slots ∧ e.pins = d.pins
     d'.accepts nv .spi 0x6001C 1 = true →
      (d.sec.locked = false → Does (.unlock active) s d') ∧
      (d.sec.locked = true → d.sec.blocked = true ∨ active % 16 ≠ 0 ∨ d'.unlockOk nv = false → fails) ∧
      (d.sec.locked = true → d.sec.blocked = false → active % 16 = 0 → d'.unlockOk nv = true →
        Makes (.unlock active) s fun t e => t = { nv with alarmLatch := 0 } ∧ e.sec.locked = false ∧
          e.sec.ksk = some nv.kskOf)) ∧
    Does .unlockBlockExpiry s { d with sec := { d.sec with blocked := false } }

/-- MACsec associations and time (R225 to R231): INSTALL takes a key of policy 2 into the selected association, a
transmit one only under a key generation not used before; CLEAR removes it; ACTIVATE makes a READY transmit
association the one in use. The next edge of PPS_IN after SEC_TOD_NEXT_HI is written slews the time by up to 1 ms and
steps it past that; SYNCED goes to HOLDOVER, and HOLDOVER to UNTRUSTED. -/
def Obligations.MacsecAndTime : Prop :=
  ∀ (s : State) (i : Iface),
    let d := s.dev
    let n := d.saSel
    let rx := bit n 4
    let slot := d.regF 0x60104 8 0
    let xpn := d.regF 0x60104 28 28 == 1
    let acts := fun (bits_ : Nat) => d.accepts s.nv i 0x60104 (d.setWord 0x60104 bits_) = true ∧
      (rx = true ∨ d.regF 0x60104 23 23 = 0 ∨ d.regF 0x60104 25 24 ≠ n % 4)
    let t := d.sec.time
    (∀ g, acts 0x80000000 → d.bindKey slot 2 = some g → (rx = true ∨ s.nv.txGen.getD slot 0 < g.gen) →
      (∀ p ∈ d.sec.sas, p.1 / 32 = n / 32 → p.1 ≠ n → p.2.xpn = xpn) → d.macsecOn (n / 32) = true → d.saPeers n < 2 →
      Makes (.saInstall i) s fun nv e => (∃ a, e.sec.sas.find n = some a ∧ a.key = g ∧ a.slot = slot ∧ a.xpn = xpn ∧
        a.state = (if rx then SaState.active else SaState.ready) ∧ (rx = false → a.pn = 1)) ∧ e.sec.msaErr = 0 ∧
        nv = (if rx then s.nv else { s.nv with txGen := s.nv.txGen.put slot g.gen })) ∧
    (acts 0x80000000 → d.bindKey slot 2 = none →
      Makes (.saInstall i) s fun nv e => nv = s.nv ∧ e.sec.msaErr = 1 ∧ ∀ j, j ≠ n → e.sec.sas.find j = d.sec.sas.find j) ∧
    (acts 0x40000000 → Makes (.saClear i) s fun nv e => nv = s.nv ∧ e.sec.sas.find n = none ∧ e.sec.msaErr = 0 ∧
      ∀ j, j ≠ n → e.sec.sas.find j = d.sec.sas.find j) ∧
    (∀ a, acts 0x20000000 → rx = false → d.sec.sas.find n = some a → a.state = .ready →
      Makes (.saActivate i) s fun nv e => nv = s.nv ∧ e.sec.msaErr = 0 ∧
        ∃ b, e.sec.sas.find n = some b ∧ b.state = .active ∧ b.key = a.key ∧ b.pn = a.pn) ∧
    (∀ w, w < 2 ^ 32 → d.accepts s.nv i 0x6009C w = true → Makes (.todArm i w) s fun nv e => nv = s.nv ∧
      e.sec.time = { t with armed := true, armedAt := w * 2 ^ 32 + d.regN 0x60098 } ∧
      e = { d with regs := e.regs, sec := { d.sec with time := e.sec.time } }) ∧
    (d.coreUp = true →
      let off : Int := (t.armedAt : Int) - (d.now : Int)
      (t.armed = false → Does .ppsEdge s (d.count (secCnt 10))) ∧
      (t.armed = true → Makes .ppsEdge s fun nv e => nv = s.nv ∧ e.sec.time.armed = false ∧
        (off.natAbs ≤ 1000000 → e.sec.time.fs = t.fs ∧ e.sec.time.slew = (t.armedAt * 1000000 : Nat) - (t.fs : Int)) ∧
        (1000000 < off.natAbs → e.sec.time.fs = t.armedAt * 1000000 ∧ e.sec.time.slew = 0 ∧
          e.sec.time.stepped = (t.stepped || decide (off < 0))) ∧
        e.sec.time.edge = some (d.cycles, t.armedAt) ∧
        e.sec.time.state = if t.srcLost then t.state else .synced)) ∧
    (d.coreUp = true →
      (t.state = .synced → Makes .timeHoldover s fun nv e => nv = s.nv ∧
        e.sec.time = { t with state := .holdover, holdSince := d.cycles }) ∧
      (t.state ≠ .synced → Does .timeHoldover s d) ∧
      (t.state = .holdover → Makes .timeUntrusted s fun nv e => nv = s.nv ∧ e.sec.time = { t with state := .untrusted }) ∧
      (t.state ≠ .holdover → Does .timeUntrusted s d) ∧
      DoesBoth .timeSave s { s.nv with savedTime := d.now } d ∧
      Does .ppsOutRise s { d with pins := { d.pins with ppsOut := true } } ∧
      Does .ppsOutFall s { d with pins := { d.pins with ppsOut := false } }) ∧
    (d.accepts s.nv i 0x600A0 (d.setWord 0x600A0 0x80000000) = true → Makes (.srcLostSet i) s fun nv e => nv = s.nv ∧
      e.sec.time.srcLost = true ∧ e.sec.time.fs = t.fs ∧
      e.sec.time.state = if t.state = .synced then .holdover else t.state)

/-! ## Firmware -/

/-- Firmware (R342 to R352): an image is staged only if its layout, its target, its signature and its SVN pass, in
band and over SPI; the end of the staging write leaves it STAGED or EMPTY; an activation pauses dispatch, and the new
firmware's report makes it run and ends the pause, while without one in time the old one runs again; a watchdog
missed, and not kicked in that very cycle, resets the cores, and the third within 600 s falls back; a policy write in range sets its register. -/
def Obligations.Firmware : Prop :=
  ∀ (s : State) (ctx : Nat) (f : Flight),
    let d := s.dev
    let w := d.fw
    (∀ busy b, fwCheck s.nv busy b = none → busy = false ∧ fwLayoutOk b = true ∧ num b 12 4 = 0x1664 ∧
      s.nv.svnFloor ≤ num b 20 2 ∧ s.nv.fwAuthority.contains (sha256 (slice b (b.length - 128) 64)) = true ∧
      ecdsaVerify (num b (b.length - 128) 32, num b (b.length - 96) 32) (sha256 (b.take (b.length - 128)))
        (num b (b.length - 64) 32) (num b (b.length - 32) 32) = true) ∧
    (d.runs ctx 0x50 f →
      (∀ check, fwCheck s.nv (d.fwBusy || w.loadOpen) f.cmd.value = some check → Does (.fwStage ctx) s
        ((d.stageRefused check f.cmd.value).finish ctx (fwStatus check).1 0 (fwStatus check).2)) ∧
      (fwCheck s.nv (d.fwBusy || w.loadOpen) f.cmd.value = none → Makes (.fwStage ctx) s fun nv e => nv = s.nv ∧
        e.fw = { w with staging := .writing, stagedImage := none, stage := some (some ctx, FwImage.ofBytes f.cmd.value) } ∧
        e.flight ctx = some { f with job := .fwStage })) ∧
    (∀ img, d.coreUp = true → d.life.flush = .none → d.life.coresDown = false → w.stage = some (some ctx, img) →
      Makes (.fwStageWriteDone true) s (fun nv e => nv = s.nv ∧ e.flight ctx = none ∧
        e.fw = { w with stage := none, staging := .staged, stagedImage := some img }) ∧
      Makes (.fwStageWriteDone false) s fun nv e => nv = s.nv ∧ e.flight ctx = none ∧
        e.fw = { w with stage := none, staging := .empty, stagedImage := none }) ∧
    (d.runs ctx 0x51 f →
      (w.staging = .writing ∨ d.fwBusy = true ∨ w.loadOpen = true → Does (.fwActivate ctx) s (d.finish ctx stBusy 0 5)) ∧
      (w.staging = .empty → d.fwBusy = false → w.loadOpen = false →
        Does (.fwActivate ctx) s (d.finish ctx stNotFound 0 0)) ∧
      (∀ img, w.staging = .staged → w.stagedImage = some img → d.fwBusy = false → w.loadOpen = false →
        (fwVerify s.nv img.bytes = none → Makes (.fwActivate ctx) s fun nv e => nv = s.nv ∧ e.cqe.paused = true ∧
          e.fw = { w with act := some (ctx, d.cycles, w.running, w.runImage) } ∧
          e.flight ctx = some { f with job := .fwActivate }) ∧
        (fwVerify s.nv img.bytes ≠ none → Makes (.fwActivate ctx) s fun nv e => nv = s.nv ∧ e.flight ctx = none ∧
          e.fw = { w with staging := .empty, stagedImage := none }))) ∧
    (∀ since run img, w.act = some (ctx, since, run, img) →
      (d.ccOff = none → Makes .fwReady s fun nv e => nv = s.nv ∧ e.flight ctx = none ∧ e.cqe.paused = false ∧
        e.cqe.deficits = [0, 0, 0, 0] ∧
        e.fw = { w with act := none, running := .live, runImage := w.stagedImage, wdogTimes := [] }) ∧
      Makes .fwReadyTimeout s fun nv e => nv = s.nv ∧ e.flight ctx = none ∧ e.cqe.paused = false ∧
        e.fw = { w with act := none, running := run, runImage := img, staging := .empty, stagedImage := none }) ∧
    (d.accepts s.nv .spi 0xB0040 1 = true → w.stage = none → w.act = none → w.heldAct = none →
      Does .fwLoadOpen s { d with fw := { w with loadOpen := true, loadBytes := [] } }) ∧
    (∀ v, d.accepts s.nv .spi 0xB0048 v = true → w.loadOpen = true → w.loadBytes.length < 8388608 →
      Does (.fwLoadData v) s { d with fw := { w with loadBytes := w.loadBytes ++ be 4 v } }) ∧
    (d.accepts s.nv .spi 0xB0040 2 = true → w.loadOpen = true → d.regN 0xB0044 = w.loadBytes.length →
      d.regN 0xB0044 ≤ 8388608 →
      (d.domOn 66 = false → Makes .fwLoadGo s fun nv e => nv = s.nv ∧
        e.fw = { w with loadOpen := false, loadBytes := [], loadCode := stResourceOff }) ∧
      (d.domOn 66 = true → fwCheck s.nv d.fwBusy w.loadBytes = none → Makes .fwLoadGo s fun nv e => nv = s.nv ∧ e = { d with fw := e.fw } ∧
        e.fw.loadOpen = false ∧ e.fw.staging = .writing ∧ e.fw.stage = some (none, FwImage.ofBytes w.loadBytes)) ∧
      (∀ check, d.domOn 66 = true → fwCheck s.nv d.fwBusy w.loadBytes = some check → Makes .fwLoadGo s fun nv e => nv = s.nv ∧
        e.fw = { w with loadOpen := false, loadBytes := [], loadCode := (fwStatus check).1 })) ∧
    (d.accepts s.nv .spi 0xB0040 4 = true →
      Does .fwLoadAbort s { d with fw := { w with loadOpen := false, loadBytes := [] } }) ∧
    (∀ c, d.accepts s.nv .firmware 0xB0014 (d.setWord 0xB0014 (2 ^ 31 + c % 2 * 2 ^ 30)) = true →
      Makes (.wdogKick c) s fun nv e => nv = s.nv ∧ (∀ a, e.reg a = d.reg a) ∧
        e = { d with regs := e.regs, fw := { w with kicked := w.kicked.put (c % 2) d.cycles } }) ∧
    (∀ c, w.running ≠ .none → d.life.flush = .none → d.life.phase ≠ .halt → d.life.coresDown = false → w.act = none →
      d.ccOff = none → w.kicked.find (c % 2) ≠ some d.cycles →
      let times := d.wdogRecent ++ [d.cycles]
      (times.length < 3 → Makes (.wdogExpiry c) s fun nv e => nv = s.nv ∧ e.life.coresDown = true ∧
        e.fw = { w with wdogTimes := times } ∧ bit (e.regN 0x44) 4 = true ∧ e.sess = d.sess) ∧
      (3 ≤ times.length → w.running = .slot → Makes (.wdogExpiry c) s fun nv e => nv = s.nv ∧ e.life.coresDown = true ∧
        e.fw.running = .rom ∧ e.fw.active = .bad) ∧
      (3 ≤ times.length → w.running = .live → w.active = .valid → Makes (.wdogExpiry c) s fun nv e => nv = s.nv ∧
        e.life.coresDown = true ∧ e.fw.running = .slot ∧ e.fw.runImage = w.activeImage ∧ e.fw.staging = .empty)) ∧
    (∀ i k v, k < 4 → v < 2 ^ 32 → d.accepts s.nv i (0xB0020 + 4 * k) v = true →
      (fwPolicyOk (0xB0020 + 4 * k) v = true → Makes (.fwPolicyWrite i k v) s fun nv e => nv = s.nv ∧
        e.regN (0xB0020 + 4 * k) = (if k = 3 then bits v 7 0 else v) ∧ e = { d with regs := e.regs, evj := e.evj } ∧
        ∀ a, a ∉ ([0xB0020 + 4 * k, 0xA0050, evjCnt 3] : List Nat) → e.reg a = d.reg a) ∧
      (fwPolicyOk (0xB0020 + 4 * k) v = false → Does (.fwPolicyWrite i k v) s d))

/-! ## Power, clocks and supervision -/

/-- Power domains and clocks (R356 to R362, R368, R377): a request that R362 refuses changes no domain; one for
another state begins the domain's sequence, whose end gives it that state; one that meets a running sequence is held;
a domain drains once nothing works in it. A lost clock clears its bit of CLK_STATUS, a returned one sets it; loss of a
core PLL or a rail orders a shutdown. -/
def Obligations.PowerAndClocks : Prop :=
  ∀ (s : State) (ctx n state c : Nat) (f : Flight) (i : Iface),
    let d := s.dev
    let x := d.dom n
    let target := domStateOf state
    (d.runs ctx 0x58 f → n = num f.cmd.param 0 1 → state = num f.cmd.param 1 1 →
      let me := Iface.inBand f.cmd.session
      (66 < n ∨ 3 < state → Does (.powerSet ctx) s (d.finish ctx stMalformed 0 2)) ∧
      (n ≤ 66 → state ≤ 3 →
        (∀ code, d.domRefusal n target me = some code → Does (.powerSet ctx) s
          ((d.domRefused n state code).finish ctx stNotAuthorised 0 0)) ∧
        (d.domRefusal n target me = none →
          (x.running = none → x.state = target → Makes (.powerSet ctx) s fun nv e => nv = s.nv ∧ e.flight ctx = none ∧
            e.power = d.power) ∧
          (x.running = none → x.state ≠ target → Makes (.powerSet ctx) s fun _ e =>
            (e.dom n).running = some ⟨target, some ctx, me⟩ ∧ (e.dom n).state = x.state) ∧
          (x.running.isSome = true → x.held = none → Makes (.powerSet ctx) s fun nv e => nv = s.nv ∧
            (e.dom n).held = some ⟨target, some ctx, me⟩ ∧ (e.dom n).running = x.running)))) ∧
    (n < 128 → state < 4 → d.accepts s.nv i 0x1000 (2 ^ 31 + n * 2 ^ 16 + state) = true →
      (66 < n → Makes (.pwrReq i n state) s fun nv e => nv = s.nv ∧ e.power.resultCode = 1 ∧ e.power.doms = d.power.doms) ∧
      (∀ code, n ≤ 66 → d.domRefusal n target i = some code → Makes (.pwrReq i n state) s fun nv e => nv = s.nv ∧
        e.power = { d.power with resultDomain := n, resultCode := code, resultPrev := x.state.code, resultState := x.state.code }) ∧
      (n ≤ 66 → d.domRefusal n target i = none → x.running = none → x.state ≠ target →
        Makes (.pwrReq i n state) s fun _ e => (e.dom n).running = some ⟨target, none, i⟩ ∧ (e.dom n).state = x.state)) ∧
    (x.running.isSome = true → d.domBusy n = false → d.life.flush = .none →
      Does (.domainDrained n) s (d.modDom n fun y => { y with drained := true })) ∧
    (∀ r, n < 67 → x.running = some r → x.drained = true → x.held = none → d.life.flush = .none →
      Makes (.domainSeqDone n) s fun _ e => e.dom n = { x with state := r.target, running := none, drained := false } ∧
        (∀ m, r.ctx = some m → e.flight m = none) ∧
        (r.ctx = none → e.power.resultDomain = n ∧ e.power.resultCode = 0 ∧ e.power.resultState = r.target.code)) ∧
    (d.life.powered = true → c ≤ 6 → bit d.clocks.status c = true → Makes (.clockLost c) s fun _ e =>
      bit e.clocks.status c = false ∧ e.clocks.lostAt.find c = some d.cycles ∧
      (c = 1 ∨ c = 2 → d.mayReset = true → e.life.flush = .shutdown ∧ e.pins.ready = false ∧ e.sess = [])) ∧
    (d.life.powered = true → c ≤ 6 → bit d.clocks.status c = false → Makes (.clockRestored c) s fun nv e => nv = s.nv ∧
      bit e.clocks.status c = true ∧ e.clocks.lostAt.find c = none) ∧
    (∀ beyond, d.life.powered = true → n ≤ 8 → Makes (.railTrip n beyond) s fun _ e =>
      bit (if beyond then e.sup.ov else e.sup.uv) n = true ∧
      (d.mayReset = true → e.life.flush = .shutdown ∧ e.pins.ready = false ∧ e.sess = []))

/-- Supervision (R262, R277, R374 to R382, R400): a sample sets its input's level and its band, which changes only
past a boundary by 20 mV; an input that has read ACTIVE for its debounce fires once, and in service opens a window, or
merges into one that its span meets; faults are set and cleared; a thermal sample sets its sites, drives THERM_N and
suspends programs and erases; a site without samples has failed; a stuck PWR_FAIL_N drives FAULT_N and may be ignored
by command; a port stuck in SEEK is recorded once; activity balls are released. -/
def Obligations.SupervisionEvents : Prop :=
  (∀ cur mv, cur ≤ 4 →
    (mv ≤ 130 → classify cur mv = 0) ∧ (170 ≤ mv ∧ mv ≤ 580 → classify cur mv = 1) ∧
    (620 ≤ mv ∧ mv ≤ 1180 → classify cur mv = 2) ∧ (1220 ≤ mv ∧ mv ≤ 1630 → classify cur mv = 3) ∧
    (1670 ≤ mv → classify cur mv = 4) ∧
    (∀ b, 1 ≤ b → b ≤ 4 → bandFrom b < mv + 20 → mv < bandFrom b + 20 → cur = b ∨ cur + 1 = b → classify cur mv = cur)) ∧
  (∀ (s : State) (t mv : Nat), s.dev.life.powered = true → t < 4 →
    let d := s.dev
    let x := d.trigger t
    (Makes (.trigSample t mv) s fun nv e => nv = s.nv ∧ (e.trigger t).level = min 0xFFF mv ∧
      (e.trigger t).state = stateOf (classify (bandOf x.state) mv) ∧ (e.trigger t).fault = x.fault ∧
      (∀ u, u ≠ t → e.trigger u = d.trigger u) ∧ e = { d with sup := e.sup }) ∧
    (d.trigOn t = true → x.state = 2 → x.fired = false → d.debounce t ≤ x.activeFor → Makes (.trigFire t) s fun nv e =>
      e.trigger t = { x with fired := true } ∧
      (d.life.phase = .halt → nv = { s.nv with lateTriggers := s.nv.lateTriggers ++ [(t, x.activeAt)] }) ∧
      (d.life.phase = .index → d.life.flush = .none → nv = s.nv ∧ e.cap.firings = d.cap.firings ++ [(t, x.activeAt)]) ∧
      (d.life.phase = .run → d.life.flush = .none → d.cap.windows = [] → nv = s.nv ∧
        let span := d.trigSpan t
        e.cap.windows = [(0, ⟨t + 1, x.activeAt.1, x.activeAt.1 - span.1 * 1000000,
          min timeTop (x.activeAt.1 + span.2 * 1000000), x.activeAt.2, 0⟩)])) ∧
    (d.trigOn t = true → x.fault = false → x.state ∈ ([0, 3, 4] : List Nat) → Makes (.trigFault t) s fun nv e =>
      nv = s.nv ∧ e.trigger t = { x with fault := true, faultSince := d.cycles } ∧
      bit (e.regN (irqSup 0).addr) (irqSup 0).bit = true) ∧
    (x.fault = true → x.state = 1 → Makes (.trigClear t) s fun nv e => nv = s.nv ∧ e.trigger t = { x with fault := false }) ∧
    (t < 2 → Does (.actTimeout t) s { d with pins := if t = 0 then { d.pins with act0 := false } else { d.pins with act1 := false } })) ∧
  (∀ (s : State) (temps : List (Option Int)) (n i : Nat) (v : Int), s.dev.life.powered = true → i < 12 →
    let d := s.dev
    let good := ∀ k < 12, ∀ u, temps.getD k none = some u → -60 ≤ u ∧ u ≤ 160
    (good → temps.getD i none = some v → (∀ k < 4, ∀ u, temps.getD k none = some u → u ≤ 125) →
      (∀ k < 4, (d.site k).hot < 3) → Makes (.thermalSample temps) s fun nv e => nv = s.nv ∧
        (e.site i).now = v ∧ (e.site i).failed = false ∧ (e.site i).peak = max (d.site i).peak v ∧
        (4 ≤ i → 100 < v → d.fmm.suspended = false → e.fmm.suspended = true) ∧
        (d.warnLevel i < v → e.pins.thermLow = true)) ∧
    (good → temps.getD i none = some v → i < 4 → 125 < v → 2 ≤ (d.site i).hot → d.mayReset = true →
      Makes (.thermalSample temps) s fun _ e => e.life.flush = .shutdown ∧ e.pins.ready = false ∧ e.sess = []) ∧
    ((d.site i).failed = false → Makes (.thermalSiteFail i) s fun _ e => (e.site i).failed = true ∧
      ((∃ k < 4, k ≠ i ∧ (d.site k).failed = false) → bit (e.regN (irqSup 2).addr) (irqSup 2).bit = true)) ∧
    (d.life.phase = .halt → d.life.flush = .powerFail → d.pins.pfLow = true → d.sup.uv = 0 → d.sup.ov = 0 →
      d.sup.pfStuck = false → Makes .pfStuck s fun nv e => nv = s.nv ∧ e.sup.pfStuck = true ∧ e.pins.faultLow = true ∧
        bit (e.regN (irqSup 3).addr) (irqSup 3).bit = true) ∧
    (d.accepts s.nv .spi 0x3054 0xD1A10001 = true → Makes .pfIgnoreSet s fun nv e => nv = s.nv ∧ e.sup.pfIgnored = true ∧
      (d.inPhase .aon = true → d.life.pfWait = true → d.tooHot = false → e.life.phase = .rom)) ∧
    (n < 4 → (d.port n).link = .seek → (d.port n).stuckWritten = false → (∀ l ∈ d.lanesOf n, (d.lane l).sigDet = true) →
      Makes (.laneStuck n) s fun nv e => nv = s.nv ∧ e.port n = { d.port n with stuckWritten := true } ∧
        bit (e.regN (irqSup 4).addr) (irqSup 4).bit = true ∧ e = { d with ports := e.ports, regs := e.regs, evj := e.evj }))

/-! ## The flash media -/

/-- The media (R238, R247 to R267): HEALTH_READ answers the 512-byte health page; a group that is ready, staged data
that is 1 s old and a Bushel parked for 60 s are committed; a failed program closes its Bushel; an erase that ends
frees its Bushel and raises its count, and one that fails retires the block: a spare replaces it, else the Bushel
becomes narrow, or is retired; a collection starts on the Bushel asked for, unless a floor overrules it, and ends by releasing it, where no
change of the index waits; a commanded fold
starts and stops; a wear step moves the source into the most worn free Bushel; patrol goes on by one page set or ends
its sweep; a lost die has no spare left; a STALE Bushel takes the count of its walk. -/
def Obligations.MediaCommands : Prop :=
  ∀ (s : State) (i : Iface),
    let d := s.dev
    let x := d.fmm
    (∀ ctx f, d.runs ctx 0x59 f →
      Does (.healthRead ctx) s (d.finishOk ctx 0 [] d.healthPage) ∧ d.healthPage.length = 512) ∧
    (∀ b, d.mediaOn = true → d.groupReady b = true → Acts (.groupCommit b) s (d.groupDone b).leaguePump) ∧
    (∀ h b, d.mediaOn = true → d.mayProgram = true → (d.head h).bushel = some b →
      (d.bushel b).committed < (d.bushel b).written → Acts (.stagingAgeTimer h) s (d.groupDone b).leaguePump) ∧
    (∀ b, d.mediaOn = true → d.mayProgram = true → (d.bushel b).state = .parked →
      let y := d.bushel b
      let e := d.fill b (min y.capacity (y.group * ceilDiv y.written y.group))
      Acts (.parkTimeout b) s (((e.closeBushel b).maybeRelease b).nextColl).leaguePump) ∧
    (∀ b die, d.mediaOn = true → d.idx.held = false → d.mayProgram = true →
      (d.bushel b).state = .opened ∨ (d.bushel b).state = .parked →
      ((d.bushel b).dataDies b).contains die = true →
      Acts (.progFail b die) s ((d.programFail b die).exhaustWaits).leaguePump) ∧
    (∀ b, d.mediaOn = true → d.mayProgram = true → x.bushels.wf = true → (d.bushel b).state = .erasing →
      let y := d.bushel b
      y.tlcErases + 1 < eraseLast → y.pslcErases + 1 < eraseLast →
      Makes (.eraseDone b) s fun nv t => nv = s.nv ∧
        t = { d with fmm := t.fmm, pins := { d.pins with act1 := true }, regs := t.regs, evj := t.evj } ∧
        (t.bushel b).state = .free ∧ (t.bushel b).valid = 0 ∧ (t.bushel b).written = 0 ∧ (t.bushel b).pin = 0 ∧
        (t.bushel b).tlcErases = y.tlcErases + (if y.mode = 0 then 1 else 0) ∧
        (t.bushel b).pslcErases = y.pslcErases + (if y.mode = 1 then 1 else 0)) ∧
    (∀ b die, d.mediaOn = true → d.mayProgram = true → (d.bushel b).state = .erasing → die < 64 →
      ¬((d.bushel b).narrow = true ∧ (d.bushel b).absentDie = die) →
      let e := (((d.count (0x71024 + 0x100 * (die / 4))).health 132 1).raise (irqFmm 3)).log evEraseFail
        (be 2 b ++ be 1 die ++ be 6 (d.blockMap b die))
      Acts (.eraseFail b die) s ((e.retireBlock b die).exhaustWaits).nextColl) ∧
    (∀ b die, ¬((d.bushel b).narrow = true ∧ (d.bushel b).absentDie = die) →
      let t := d.retireBlock b die
      (0 < d.spares die ∧ x.lostDies.contains die = false →
        (b < 10752 → t.blockMap b die = 10752 + x.spareUsed.getD die 0) ∧ t.spares die = d.spares die - 1) ∧
      (d.spares die = 0 ∨ x.lostDies.contains die = true →
        ((d.bushel b).narrow = false → (t.bushel b).narrow = true ∧ (t.bushel b).absentDie = die) ∧
        ((d.bushel b).narrow = true → (t.bushel b).state = .retired))) ∧
    (∀ b k bad, d.mediaOn = true → x.colls.find b = some k → (d.bushel b).state = .victim → d.copiesRun = true →
      let e := d.collect b k bad
      (d.idx.held = false ∨ d.pointedIn b = [] →
        Acts (.collectionDone b bad) s (if (d.bushel b).area = 2 then e.writeDueSeals else e).leaguePump) ∧
      (d.idx.held = true → d.pointedIn b ≠ [] → Does (.collectionDone b bad) s d.holdIndex)) ∧
    (∀ b, d.accepts s.nv i 0x7001C (0x4000 + b % 0x4000) = true →
      let pick := if b % 0x4000 = 0x3FFF then d.gcBest.map (·.1)
        else if (d.bushel (b % 0x4000)).eligible = true then some (b % 0x4000) else none
      (∀ v, pick = some v → d.gcRuns = false → x.floor = 0 → d.copiesRun = true →
        Makes (.gcReq i b) s fun nv t => nv = s.nv ∧ t = { d with fmm := t.fmm, regs := t.regs } ∧
          t.fmm = { x with bushels := t.fmm.bushels, colls := x.colls.put v .gc, moving := x.moving ++ d.pointedIn v } ∧
          (t.bushel v).state = .victim) ∧
      (∀ v h, pick = some v → 1 ≤ x.floor → d.floorVictim = some h → h ≠ v →
        Makes (.gcReq i b) s fun nv t => nv = s.nv ∧ t = { d with regs := t.regs, evj := t.evj }) ∧
      (pick = none → Makes (.gcReq i b) s fun nv t => nv = s.nv ∧ t = { d with regs := t.regs })) ∧
    (∀ b, d.accepts s.nv i 0x70000 (d.setWord 0x70000 0x100) = true → x.fold = none → d.copiesRun = true →
      x.bushels.wf = true → d.foldRuns = false → d.foldNext = some b →
      Makes (.foldGo i) s fun nv t => nv = s.nv ∧ t = { d with fmm := t.fmm, regs := t.regs, evj := t.evj } ∧
        t.fmm.fold = some ⟨0, 0, d.cycles⟩ ∧ t.fmm.colls.find b = some .fold ∧ (t.bushel b).state = .victim) ∧
    (d.accepts s.nv i 0x70000 (d.setWord 0x70000 0x200) = true → x.fold.isSome = true →
      Makes (.foldStop i) s fun nv t => nv = s.nv ∧ t = { d with fmm := t.fmm, regs := t.regs } ∧ t.fmm.fold = none ∧
        (∀ p ∈ t.fmm.colls, p.2 ≠ .fold) ∧ ∀ b, x.colls.find b = some .fold → (t.bushel b).state = .closed) ∧
    (∀ b y u, d.mediaOn = true → d.wearSource = some (b, y) → d.freeBushel true = some u → d.wearRuns = false →
      d.copiesRun = true → d.life.coresDown = false → d.regF 0xB0024 31 16 < d.eMax - y.erases →
      Does .wearStep s (d.startColl b (.wear u))) ∧
    (∀ corr cws r, d.mediaOn = true → d.life.coresDown = false → d.channelOff = none →
      Makes (.patrolStep corr cws r) s fun nv t => nv = s.nv ∧
        t = { d with fmm := t.fmm, cap := t.cap, regs := t.regs, rates := t.rates, evj := t.evj } ∧
        t.fmm.values = (if (d.patrolNext x.patrol).isSome then x.values else t.fmm.values) ∧
        t.fmm.patrol = (match d.patrolNext x.patrol with
          | some (b, set) => (b, set + 1)
          | none => (0, 0))) ∧
    (∀ die, d.mediaOn = true → die < 64 → x.lostDies.contains die = false →
      Makes (.dieLost die) s fun nv t => nv = s.nv ∧ t.fmm.lostDies = x.lostDies ++ [die] ∧ t.spares die = 0 ∧
        (∀ k, k ≠ die → t.spares k = d.spares k) ∧ (x.waits = [] → t.fmm.values = x.values)) ∧
    (∀ b, d.mediaOn = true → bit (d.bushel b).flags 2 = true →
      Does (.staleWalkDone b) s ((d.modBushel b fun y =>
        { y with valid := d.walkValid b, flags := y.flags - 4 }).maybeRelease b).nextColl)

/-! ## Leagues -/

/-- League requests and timers on the head and on the others (R315 to R323, R325 to R328): a join is refused or makes
its member JOINING or UP; a keepalive clears the missed count; a deputy stores and writes an entry, or closes its
portion; a fence raises FENCE_TIME and ends every ticket session; a member leaves once nothing relayed to it waits; an
answer to a relay or a replication ends the command that waits for it; joins are tried again; five missed keepalives
lose the member. -/
def Obligations.LeagueCommands : Prop :=
  ∀ (s : State) (ctx : Nat) (f : Flight),
    let d := s.dev
    let l := d.lge
    let role := d.league.role
    let p := f.cmd.param
    let id := num p 0 1
    (d.runs ctx 0x68 f →
      let ip4 := num p 16 4
      let ip6 := num p 20 16
      let held := fun (m : Member) => m.state = .up ∨ m.state = .joining
      let misplaced := num p 1 1 = 2 ∧ (num p 2 1 = 0 ∨ d.rod.deputies < num p 2 1)
      let deputy := num p 1 1 = 2 ∧ num p 4 8 ≠ l.dirGen
      let other := fun (m : Member) => m.ipv4 ≠ ip4 ∨ m.ipv6 ≠ ip6
      let clash := id = d.league.memberId ∨ ∃ m, l.members.find id = some m ∧ held m ∧ other m
      (role ≠ 1 → Does (.lgJoin ctx) s (d.finish ctx stNotAuthorised 0 0)) ∧
      (role = 1 → clash → Does (.lgJoin ctx) s (d.refuseJoin ctx id (memberIp16 ip4 ip6) stExists id)) ∧
      (role = 1 → ¬clash → misplaced →
        Does (.lgJoin ctx) s (d.refuseJoin ctx id (memberIp16 ip4 ip6) stNotAuthorised 0)) ∧
      (role = 1 → ¬clash → ¬misplaced → Makes (.lgJoin ctx) s fun nv t => nv = s.nv ∧ t.flight ctx = none ∧
        t.lge.dirGen = l.dirGen ∧ (∀ j, j ≠ id → t.lge.members.find j = l.members.find j) ∧
        ∃ m, t.lge.members.find id = some m ∧ m.inSess = some f.cmd.session ∧ m.ipv4 = ip4 ∧ m.ipv6 = ip6 ∧
          ((∀ o, l.members.find id = some o → ¬held o) → m.role = num p 1 1 ∧ m.pos = num p 2 1 ∧
            m.port = num p 12 2 ∧ m.missed = 0 ∧ (deputy → m.state = .joining) ∧ (¬deputy → m.state = .up)))) ∧
    (d.runs ctx 0x69 f →
      (role ≠ 1 → Does (.lgKeepalive ctx) s (d.finish ctx stNotAuthorised 0 0)) ∧
      (role = 1 →
        let heard := fun (m : Member) => { m with missed := 0, heardAt := some d.cycles, flags := num p 1 1 }
        Does (.lgKeepalive ctx) s
          (({ d with lge := { l with members := l.members.mod id heard } }).finish ctx stOk 0 0))) ∧
    (d.runs ctx 0x6A f →
      let bank := num p 8 1
      let w := widthBits (d.mat.width bank)
      let a := d.mat.addr bank (num p 10 2)
      let clear := bit (num p 16 1) 0
      let e : MatEntry := ⟨num f.cmd.value 0 (w / 8), num f.cmd.value (w / 8) (w / 8), num p 12 4⟩
      let gen := num p 0 8
      (role ≠ 2 → Does (.lgDirSet ctx) s (d.finish ctx stNotAuthorised 0 0)) ∧
      (role = 2 → bank = 0xFF → Does (.lgDirSet ctx) s
        (({ d with lge := { l with dirGen := gen, headGen := gen, busy := false, dirStored := true } }).finish ctx stOk 0 0)) ∧
      (role = 2 → bank ≠ 0xFF → f.cmd.value.length ≠ w / 4 → Does (.lgDirSet ctx) s (d.finish ctx stMalformed 0 1)) ∧
      (role = 2 → bank ≠ 0xFF → f.cmd.value.length = w / 4 → clear = false →
        (d.entryErr bank (num p 10 2) e.value e.mask e.result ≠ 0 → Does (.lgDirSet ctx) s
          (d.finish ctx stOk 0 (d.entryErr bank (num p 10 2) e.value e.mask e.result))) ∧
        (d.entryErr bank (num p 10 2) e.value e.mask e.result = 0 → Makes (.lgDirSet ctx) s fun nv t => nv = s.nv ∧
          t.flight ctx = none ∧ t.mat.entries = d.mat.entries.put a e ∧
          t.lge.dir = l.dir.put (d.league.rodPos * 2 ^ 17 + a) e ∧ t.lge.headGen = gen ∧
          (l.busy = false → t.lge.dirGen = gen))) ∧
      (role = 2 → bank ≠ 0xFF → f.cmd.value.length = w / 4 → clear = true → num p 10 2 < bankCapacity (d.mat.width bank) →
        4 ≤ bank → d.domOn (bankDomain bank) = true → Makes (.lgDirSet ctx) s fun nv t => nv = s.nv ∧ t.flight ctx = none ∧
          t.mat.entries = d.mat.entries.del a ∧ t.lge.dir = l.dir.del (d.league.rodPos * 2 ^ 17 + a))) ∧
    (d.runs ctx 0x6B f →
      (role = 0 ∨ role = 1 → Does (.lgFence ctx) s (d.finish ctx stNotAuthorised 0 0)) ∧
      (¬(role = 0 ∨ role = 1) → Makes (.lgFence ctx) s fun nv t => nv = s.nv ∧ t.flight ctx = none ∧
        t.lge.fenceTime = max l.fenceTime (num p 8 8) ∧ ∀ sid y, t.session sid = some y → y.ticket = false)) ∧
    (d.runs ctx 0x6E f →
      (role ≠ 1 ∨ (∀ m, l.members.find id = some m → m.state ≠ .up) →
        Does (.lgLeave ctx) s (d.finish ctx stNotAuthorised 0 0)) ∧
      (∀ m, role = 1 → l.members.find id = some m → m.state = .up →
        ((d.memberWaits id).isEmpty = true → Makes (.lgLeave ctx) s fun nv t => nv = s.nv ∧ t.flight ctx = none ∧
          ∃ n, t.lge.members.find id = some n ∧ n.state = .left ∧ n.inSess = none ∧ n.outSess = none) ∧
        ((d.memberWaits id).isEmpty = false → Does (.lgLeave ctx) s
          ({ d with lge := { l with members := l.members.put id { m with leaving := some ctx } } }.modFlight ctx
            fun g => { g with job := .closed })))) ∧
    (∀ sid tag member msg e, d.takeAnswer sid tag = some (.relay ctx member, msg, e) →
      Acts (.relayResponse sid tag) s (e.relayAnswered ctx member msg).leaguePump ∧
      ((e.relayAnswered ctx member msg).leaguePump).flight ctx = none) ∧
    (∀ sid tag mirror msg e, d.takeAnswer sid tag = some (.replicate ctx mirror, msg, e) →
      Acts (.replicateResponse sid tag) s (e.replicaAnswered ctx mirror msg).leaguePump ∧
      (num msg 1 1 ≠ stOk → ((e.replicaAnswered ctx mirror msg).leaguePump).flight ctx = none)) ∧
    (d.admits = true → d.joins = true → l.head ≠ .up → l.queued = [] →
      (∀ t ∈ l.targets, ∃ y, d.session t.1 = some y ∧ y.state = .established) →
      (∀ sid, d.readyTo .toHead = some sid → (∀ c ∈ l.calls, c.kind ≠ .join) → Makes .lgJoinRetry s fun nv t =>
        nv = s.nv ∧ t.lge = { l with
          head := .joining, nextTag := (l.nextTag + 1) % 65536, calls := l.calls ++ [⟨sid, l.nextTag, .join⟩] }) ∧
      (d.sessionTo .toHead = none → Acts .lgJoinRetry s (d.openLeague .toHead []))) ∧
    (∀ sid, d.admits = true → d.readyTo .toHead = some sid → d.joins = true → l.head = .up →
      Makes .lgKeepaliveSend s fun nv t => nv = s.nv ∧ t.lge = { l with
        nextTag := (l.nextTag + 1) % 65536, calls := l.calls ++ [⟨sid, l.nextTag, .keepalive⟩] }) ∧
    (∀ k m, d.admits = true → role = 1 → l.members.find k = some m → m.state = .up ∨ m.state = .joining →
      m.heardAt ≠ some d.cycles →
      (m.missed + 1 < 5 → Does (.lgKeepaliveMiss k) s
        (({ d with lge := { l with members := l.members.put k { m with missed := m.missed + 1 } } }).count (lgeCnt 8))) ∧
      (5 ≤ m.missed + 1 → Makes (.lgKeepaliveMiss k) s fun nv t => nv = s.nv ∧
        (∀ c ∈ d.memberWaits k, t.flight c = none) ∧
        ∃ n, t.lge.members.find k = some n ∧ n.state = .lost ∧ n.inSess = none ∧ n.outSess = none))

/-- The directory on the head (R319, R320): a COMMIT or CLEAR that R300 or the deputy's state forbids sets ERR alone;
one that may be made enters the stored directory under the next DIR_GEN, and for POS 0 the head's own array at once,
with the fence; one written while a change is under way does nothing. A lost rule entry is rewritten from the stored
portion. -/
def Obligations.DirectoryCommands : Prop :=
  ∀ (s : State) (i : Iface) (pos : Nat),
    let d := s.dev
    let l := d.lge
    let q := pos % 4
    let bank := d.entSel.1
    let index := d.entSel.2
    let e := d.entData bank
    let a := d.mat.addr bank index
    let idle := fun (nv : Secure) (t : Dev) => nv = s.nv ∧ t = { d with regs := t.regs }
    let refused := fun (err : Nat) (nv : Secure) (t : Dev) =>
      nv = s.nv ∧ t = { d with regs := t.regs, lge := { l with err := err } }
    let changed := fun (clear : Bool) (nv : Secure) (t : Dev) => nv = s.nv ∧ t.lge.err = 0 ∧ t.lge.dirGen = l.dirGen + 1 ∧
      t.lge.dirStored = true ∧ t.lge.members = l.members ∧ t.fmm = d.fmm ∧
      t.lge.dir = (if clear then l.dir.del (q * 2 ^ 17 + a) else l.dir.put (q * 2 ^ 17 + a) e) ∧
      (q = 0 → t.lge.busy = false ∧ t.lge.fenceTime = max l.fenceTime d.now ∧
        (4 ≤ bank → t.mat.entries.find a = if clear then none else some e)) ∧
      (q ≠ 0 → t.lge.busy = true ∧ t.lge.fenceTime = l.fenceTime)
    (d.accepts s.nv i 0x90208 (q * 16 + 1) = true →
      let err := d.dirErr q bank index e false
      (l.busy = true → Makes (.dirCommit i pos) s idle) ∧
      (l.busy = false → err ≠ 0 → Makes (.dirCommit i pos) s (refused err)) ∧
      (l.busy = false → err = 0 → Makes (.dirCommit i pos) s (changed false))) ∧
    (d.accepts s.nv i 0x90208 (q * 16 + 2) = true →
      let err := d.dirErr q bank index e true
      (l.busy = true → Makes (.dirClear i pos) s idle) ∧
      (l.busy = false → err ≠ 0 → Makes (.dirClear i pos) s (refused err)) ∧
      (l.busy = false → err = 0 → Makes (.dirClear i pos) s (changed true))) ∧
    (∀ k r, d.coreUp = true → l.dir.find (d.league.rodPos * 2 ^ 17 + k) = some r → (∃ x ∈ l.lostRules, x.1 = k) →
      Makes (.dirRestore k) s fun nv t => nv = s.nv ∧ t.mat = { d.mat with entries := d.mat.entries.put k r } ∧
        t.lge = { l with lostRules := l.lostRules.filter fun x => x.1 != k } ∧
        t = { d with mat := t.mat, lge := t.lge, regs := t.regs, evj := t.evj })

/-! ## The match array and the Rod bus -/

/-- The match array and the Rod bus (R295 to R308, R320): entries written, read and cleared through the registers,
refused by the ERR of R300; a diagnostic search; a scrub step that passes, repairs or loses the entry of its unit; a
slot that sends or takes a word; a token that comes home or goes on; a lost token, of which the third in a row takes
the cascade down; its lines, its clock, the discovery token that each device marks, and its line check. -/
def Obligations.MatchingCommands : Prop :=
  ∀ (s : State) (i : Iface),
    let d := s.dev
    let m := d.mat
    let r := d.rod
    let bank := d.entSel.1
    let index := d.entSel.2
    let a := m.addr bank index
    let w := widthBits (m.width bank)
    let e := d.entData bank
    (d.accepts s.nv i 0x80024 1 = true →
      let err := d.entryErr bank index e.value e.mask e.result
      (err ≠ 0 → Does (.matEntWrite i) s (d.entDone err m.entValid)) ∧
      (err = 0 → Makes (.matEntWrite i) s fun nv t => nv = s.nv ∧ t.mat = { m with entries := m.entries.put a e, entErr := 0 } ∧
        t.regN (matCnt 6) = satAdd 0xFFFFFFFF (d.regN (matCnt 6)) 1 ∧ t = { d with mat := t.mat, lge := t.lge, regs := t.regs })) ∧
    (d.accepts s.nv i 0x80024 2 = true →
      (bankCapacity (m.width bank) ≤ index → Does (.matEntRead i) s (d.entDone 1 false)) ∧
      (index < bankCapacity (m.width bank) → Makes (.matEntRead i) s fun nv t => nv = s.nv ∧
        t = { d with mat := { m with entErr := 0, entValid := (m.entries.find a).isSome }, regs := t.regs } ∧
        ∀ o, m.entries.find a = some o → o.value < 2 ^ w → o.mask < 2 ^ w → o.result < 2 ^ 32 → t.entData bank = o)) ∧
    (d.accepts s.nv i 0x80024 4 = true →
      (bankCapacity (m.width bank) ≤ index → Does (.matEntClear i) s (d.entDone 1 m.entValid)) ∧
      (index < bankCapacity (m.width bank) → bank < 4 → d.sessionAt a = true → Does (.matEntClear i) s (d.entDone 2 m.entValid)) ∧
      (index < bankCapacity (m.width bank) → ¬(bank < 4 ∧ d.sessionAt a = true) →
        (d.domOn (bankDomain bank) = false → Does (.matEntClear i) s (d.entDone 5 m.entValid)) ∧
        (d.domOn (bankDomain bank) = true → Makes (.matEntClear i) s fun nv t => nv = s.nv ∧
          t.mat = { m with entries := m.entries.del a, entErr := 0 } ∧ t = { d with mat := t.mat, lge := t.lge, regs := t.regs }))) ∧
    (∀ n, n % 4 = 2 ∨ n % 4 = 3 → d.accepts s.nv i 0x800E8 (n % 4 * 2 + 1) = true →
      let found := d.search (d.regN (if n % 4 = 3 then 0x8001C else 0x80018)) (d.wide 0x800C0)
      Makes (.matSearch i n) s fun nv t => nv = s.nv ∧ t = { d with regs := t.regs, mat := { m with
        srchHit := found.win.isSome, srchMulti := found.multi, srchResult := (found.win.map fun x => x.2.result).getD 0,
        srchAddr := (found.win.map (·.1)).getD 0 } }) ∧
    (∀ k, d.coreUp = true → d.domOn (bankDomain (d.scrubUnit m.scrub / 4096)) = true →
      let u := d.scrubUnit m.scrub
      let next := (u + 1) % 131072
      Makes (.scrubStep k) s fun nv t => nv = s.nv ∧ t.mat.scrub = next ∧
        (k = .same → t = { d with mat := { m with scrub := next } }) ∧
        (k = .differs → t = { d with mat := { m with scrub := next }, regs := t.regs, rates := t.rates, evj := t.evj } ∧
          t.regN (matCnt 4) = satAdd 0xFFFFFFFF (d.regN (matCnt 4)) 1) ∧
        (∀ b o, k = .shadowLost → d.entryAt u = some (b, o) → t.mat.entries.find b = none ∧
          (b / 4096 < 4 → o.result / 2 ^ 28 = 1 → t.session (o.result % 4096) = none) ∧
          (4 ≤ b / 4096 → (d.lge.dir.find (d.league.rodPos * 2 ^ 17 + b)).isSome = true →
            t.lge.lostRules = d.lge.lostRules ++ [(b, o)]))) ∧
    (∀ word, d.coreUp = true → r.state = .up →
      (∀ x rest, d.rodRole = 1 → r.waiting = x :: rest →
        (r.full = true → Does (.rodSlot word) s ({ d with rod := { r with wordOut := none } }.count (rodCnt 4))) ∧
        (r.full = false → Makes (.rodSlot word) s fun nv t => nv = s.nv ∧
          t.rod.flights = r.flights ++ [⟨x.1, x.2, d.ownSearch (d.waitingWord x) != .miss⟩] ∧
          t.rod.state = .up ∧ t.rod.wordOut = some (d.waitingWord x) ∧ (d.ownSearch (d.waitingWord x) = .miss →
            t.rod.waiting = rest ∧ t.rod.tokenOut = 0 ∧ t.cqe = d.cqe))) ∧
      (∀ x, d.rodRole = 2 → word = some x → r.words.length < 16 → Does (.rodSlot word) s
        ({ d with rod := { r with words := r.words ++ [x], full := r.full || 12 ≤ r.words.length + 1 } }.count (rodCnt 0)))) ∧
    (∀ t0, d.coreUp = true →
      (∀ x rest, d.rodRole = 1 → r.flights = x :: rest → Makes (.rodToken t0) s fun nv t => nv = s.nv ∧
        t.rod.flights = rest ∧ t.rod.lostRow = 0 ∧ t.rod.state = r.state ∧ (x.own = true → t.cqe = d.cqe)) ∧
      (d.rodRole = 1 → r.flights = [] → r.state = .check → r.disc = none → Makes (.rodToken t0) s fun nv t => nv = s.nv ∧
        t.rod = { r with disc := some (t0 % 2 ^ 20), ringOk := true }) ∧
      (d.rodRole = 2 → r.state = .check → r.ringOk = false → Makes (.rodToken t0) s fun nv t => nv = s.nv ∧
        t.rod = { r with ringOk := true, tokenOut := discoveryOn (t0 % 2 ^ 20) d.league.rodPos }) ∧
      (∀ x rest, d.rodRole = 2 → r.state ≠ .check → r.words = x :: rest → Makes (.rodToken t0) s fun nv t => nv = s.nv ∧
        t.rod = { r with words := rest, tokenOut := d.tokenOn (t0 % 2 ^ 20) x, full := r.full && 4 < rest.length })) ∧
    (∀ t0 word, t0 < 2 ^ 20 → d.league.rodPos < 4 →
      (bit t0 19 = true ∨ bit t0 18 = true → d.tokenOn t0 word = t0) ∧
      (∀ x, bit t0 19 = false → bit t0 18 = false → d.lge.headGen ≠ 0 → d.lge.dirGen = d.lge.headGen → d.ownSearch word = .hit x →
        bit (d.tokenOn t0 word) 19 = true ∧ bits (d.tokenOn t0 word) 17 16 = d.league.rodPos ∧
        bits (d.tokenOn t0 word) 15 0 = x % 65536) ∧
      (bit t0 19 = false → bit t0 18 = false → d.lge.headGen = 0 ∨ d.lge.dirGen ≠ d.lge.headGen →
        bit (d.tokenOn t0 word) 18 = true) ∧
      (∀ x, bit t0 19 = false → bit t0 18 = false → d.ownSearch word = .unusable x → bit (d.tokenOn t0 word) 18 = true)) ∧
    (∀ k < 4, discoveryOn (2 ^ k - 1) k = 2 ^ (k + 1) - 1 ∧ discovered (some (2 ^ (k + 1) - 1)) = (k, 0)) ∧
    (∀ x rest, d.coreUp = true → r.flights = x :: rest → Makes .tokenLost s fun nv t => nv = s.nv ∧
      (r.lostRow + 1 < 3 ∨ r.state ≠ .up → t.rod.flights = rest ∧ t.rod.lostRow = r.lostRow + 1 ∧ t.rod.state = r.state) ∧
      (3 ≤ r.lostRow + 1 → r.state = .up → t.rod.state = .down ∧ t.rod.alive = false ∧ t.rod.flights = []) ∧
      (x.own = false → ∀ g, d.flight x.ctx = some g → g.job = .placing → t.flight x.ctx = none)) ∧
    (∀ low, d.coreUp = true → Does (.rodFull low) s { d with rod := { r with full := low } }) ∧
    (d.coreUp = true → r.state = .down →
      let up := { r with alive := true, clkOk := r.clkOk || !r.alive, state := .check, ringOk := false }
      (d.rodRole = 1 → Does .rodAliveUp s
        ({ d with rod := { up with wordOut := none, tokenOut := 1, disc := none } }.count (rodCnt 5))) ∧
      (d.rodRole ≠ 1 → Does .rodAliveUp s { d with rod := up })) ∧
    (d.coreUp = true → r.state = .up →
      let fell := fun (nv : Secure) (t : Dev) => nv = s.nv ∧ t.rod.state = .down ∧ t.rod.alive = false ∧
        t.rod.flights = [] ∧ t.rod.waiting = [] ∧ t.rod.words = []
      Makes .rodAliveLow s fell ∧
      (d.rodRole = 2 → Makes .rodClkLost s fun nv t => fell nv t ∧ t.rod.clkOk = false)) ∧
    (d.accepts s.nv i 0x90000 (d.setWord 0x90000 1) = true → d.rodRole = 1 → r.state = .up →
      Makes (.rodCheck i) s fun nv t => nv = s.nv ∧ t.rod.state = .check ∧ t.rod.waiting = [] ∧ t.rod.flights = r.flights) ∧
    (∀ first second third back, d.coreUp = true → r.state = .check →
      let found := if d.rodRole = 1 then checked r.disc back else (0, if r.ringOk then 0 else 6)
      let bad := if d.rodRole = 1 ∧ found.2 = 0 then badLines found.1 [first, second, third] else []
      Makes (.rodCheckDone first second third back) s fun nv t => nv = s.nv ∧ t = { d with rod := t.rod, regs := t.regs, evj := t.evj } ∧
        t.rod = { r with deputies := found.1, ringCode := found.2, lostRow := 0, results := t.rod.results, state := t.rod.state } ∧
        (t.rod.state = .up ↔ found.2 = 0 ∧ bad = []) ∧ (t.rod.state ≠ .up → t.rod.state = .down) ∧
        (bad = [] → t.rod.results = [])) ∧
    (d.coreUp = true → d.rodRole = 1 → r.state = .down → r.alive = true →
      Does .rodCheckRetry s ({ d with rod := { r with
        state := .check, wordOut := none, tokenOut := 1, disc := none, ringOk := false } }.count (rodCnt 5)))

/-! ## Frames -/

/-- What the commands that are no register accesses leave unchanged: beyond the fields of the device that each group
names, nothing in the device, in SEC's store or in the queue changes, whatever the state. Reads and queries leave
namespaces, keys, firmware, the image, power and supervision as they are; writes leave sessions' keys, the match array
and the League as they are; packets leave every stored value, key and setting as they are; ports, time, triggers,
scrubbing and the phases of a start each change their own block with its counters and records. Register words are
among what a command may change: its counters, its interrupt bits and its status. -/
def Obligations.CommandsLeaveTheRest : Prop :=
  ∀ (s : State) (n k b : Nat) (l : List Nat) (y : Bytes) (h : List (Nat × Bytes))
    (u v : List (Nat × Option Bytes)) (r : MediaRead) (ok : Bool),
    let d := s.dev
    (∀ c ∈ ([.get n h, .getRange n h, .iterate n h] : List Instr), LeavesNv c s fun t =>
      { d with regs := t.regs, rates := t.rates, evj := t.evj, ports := t.ports, sess := t.sess, cqe := t.cqe, vpl := t.vpl,
               fmm := t.fmm }) ∧
    (∀ c ∈ ([.existsKey n h, .extentRead n h, .streamScan n h, .chainRead n h, .segmentCompressed n y, .segmentSealed n,
        .segmentChecked n k r] : List Instr), LeavesNv c s fun t =>
      { d with regs := t.regs, rates := t.rates, evj := t.evj, ports := t.ports, sess := t.sess, cqe := t.cqe,
               vpl := t.vpl, fmm := t.fmm }) ∧
    (∀ c ∈ ([.healthRead n, .journalRead n l, .nsQuery n, .nsDelete n] : List Instr), Leaves c s fun t =>
      { d with regs := t.regs, evj := t.evj, ports := t.ports, sess := t.sess, cqe := t.cqe }) ∧
    (∀ c ∈ ([.put n, .delete n, .casPut n, .extentWrite n, .discard n, .quire n, .streamAppend n, .chainAppend n, .chainSeal n,
        .chainExpire n, .fathomPin n, .fathomRelease n, .windowTableCommit] : List Instr), LeavesNv c s fun t =>
      { d with free := t.free, regs := t.regs, rates := t.rates, sec := t.sec, evj := t.evj, ports := t.ports,
               sess := t.sess, cqe := t.cqe, idx := t.idx, vpl := t.vpl, fmm := t.fmm, cap := t.cap }) ∧
    (∀ c ∈ ([.nsCreate n, .nsTableCommit n] : List Instr), LeavesNv c s fun t =>
      { d with free := t.free, regs := t.regs, evj := t.evj, ports := t.ports, sess := t.sess, cqe := t.cqe,
               nss := t.nss, idx := t.idx, vpl := t.vpl }) ∧
    (∀ c ∈ ([.stagingComplete n, .flush n, .groupCommit b, .stagingAgeTimer n, .parkTimeout b, .progFail b n, .dieLost n,
        .collectionDone b (some k), .collectionDone b none, .checkpointCommit] : List Instr), LeavesNv c s fun t =>
      { d with free := t.free, pins := t.pins, regs := t.regs, rates := t.rates, sec := t.sec, evj := t.evj, ports := t.ports,
               sess := t.sess, epochs := t.epochs, cqe := t.cqe, mat := t.mat, lge := t.lge, nss := t.nss, idx := t.idx,
               vpl := t.vpl, fmm := t.fmm, cap := t.cap }) ∧
    (∀ c ∈ ([.eraseDone b, .eraseFail b n, .staleWalkDone b, .journalPageProgram, .journalDrain] : List Instr),
      LeavesNv c s fun t =>
      { d with pins := t.pins, regs := t.regs, evj := t.evj, ports := t.ports, sess := t.sess, cqe := t.cqe, vpl := t.vpl,
               fmm := t.fmm, cap := t.cap }) ∧
    (∀ c ∈ ([.patrolStep n k r, .wearStep, .checkpointBegin, .indexRebuildDone u v, .purgeSweepStep, .purgeDone,
        .segmentRemoval] : List Instr), LeavesNv c s fun t =>
      { d with regs := t.regs, rates := t.rates, evj := t.evj, nss := t.nss, idx := t.idx, fmm := t.fmm, cap := t.cap }) ∧
    (∀ c ∈ ([.openPkt n, .openTicket n, .challengePkt n] : List Instr), Leaves c s fun t =>
      { d with free := t.free, regs := t.regs, rates := t.rates, evj := t.evj, ports := t.ports, belowXoff := t.belowXoff,
               rx := t.rx, cellsHeld := t.cellsHeld, sess := t.sess, epochs := t.epochs, mat := t.mat, lge := t.lge }) ∧
    (∀ c ∈ ([.proofPkt n, .acceptPkt n, .refusePkt n, .openTimerExpiry n, .ackPkt n, .keepalivePkt n, .retxTimeout n,
        .keepaliveSend n, .keepaliveLoss n] : List Instr), LeavesNv c s fun t =>
      { d with free := t.free, regs := t.regs, latches := t.latches, imgWin := t.imgWin, evj := t.evj, ports := t.ports,
               belowXoff := t.belowXoff, rx := t.rx, cellsHeld := t.cellsHeld, sess := t.sess, epochs := t.epochs, cqe := t.cqe,
               mat := t.mat, lge := t.lge, vpl := t.vpl, fmm := t.fmm }) ∧
    (∀ c ∈ ([.dataPkt n, .closePkt n, .lgReplicate n, .lgRelay n] : List Instr), LeavesNv c s fun t =>
      { d with free := t.free, regs := t.regs, latches := t.latches, rates := t.rates, imgWin := t.imgWin, sec := t.sec,
               evj := t.evj, ports := t.ports, belowXoff := t.belowXoff, rx := t.rx,
               cellsHeld := t.cellsHeld, sess := t.sess, epochs := t.epochs, cqe := t.cqe, mat := t.mat, lge := t.lge,
               vpl := t.vpl, fmm := t.fmm, cap := t.cap }) ∧
    (∀ c ∈ ([.dispatch, .commandTimeout n, .arbWindow] : List Instr), Leaves c s fun t =>
      { d with free := t.free, regs := t.regs, ports := t.ports, belowXoff := t.belowXoff,
               cellsHeld := t.cellsHeld, sess := t.sess, epochs := t.epochs, cqe := t.cqe, mat := t.mat, rod := t.rod,
               lge := t.lge }) ∧
    (∀ c ∈ ([.linkSignalDetect n, .polarityTimer n, .polarityErrorBlocks n, .laneLock n l, .linkHoldDone n, .linkFault n k,
        .linkSignalLoss n, .remoteFaultRx n, .remoteFaultClear n, .xoffRepeat n, .pauseExpiry n none, .pauseExpiry n (some k),
        .txFrameStart n, .txUnderrun n k, .laneStuck n] : List Instr), Leaves c s fun t =>
      { d with regs := t.regs, sec := t.sec, evj := t.evj, ports := t.ports, lanes := t.lanes }) ∧
    (∀ f : Frame, ∀ c ∈ ([.rxFrame f, .pauseRx f, .pfcRx f] : List Instr), Leaves c s fun t =>
      { d with free := t.free, pins := t.pins, regs := t.regs, rates := t.rates, sec := t.sec, evj := t.evj, ports := t.ports,
               epochs := t.epochs, mat := t.mat, lge := t.lge, poolLow := t.poolLow, belowXoff := t.belowXoff, rx := t.rx, rxNext := t.rxNext, cellsHeld := t.cellsHeld,
               sess := t.sess }) ∧
    (∀ c ∈ ([.lgJoin n, .lgKeepalive n, .lgDirSet n, .lgFence n, .lgLeave n, .relayResponse n k, .replicateResponse n k,
        .lgJoinRetry, .lgKeepaliveSend, .lgKeepaliveMiss n, .dirRestore n] : List Instr), LeavesNv c s fun t =>
      { d with free := t.free, regs := t.regs, latches := t.latches, imgWin := t.imgWin, evj := t.evj, ports := t.ports,
               belowXoff := t.belowXoff, cellsHeld := t.cellsHeld, sess := t.sess, epochs := t.epochs, cqe := t.cqe,
               mat := t.mat, lge := t.lge, vpl := t.vpl, fmm := t.fmm }) ∧
    (∀ c ∈ ([.rodSlot none, .rodSlot (some n), .rodToken n, .tokenLost, .rodFull ok, .rodAliveUp, .rodAliveLow, .rodClkLost,
        .rodCheckRetry] : List Instr), Leaves c s fun t =>
      { d with free := t.free, regs := t.regs, rates := t.rates, evj := t.evj, ports := t.ports, sess := t.sess,
               epochs := t.epochs, cqe := t.cqe, mat := t.mat, rod := t.rod, lge := t.lge }) ∧
    (∀ x : ScrubRead, LeavesNv (.scrubStep x) s fun t =>
      { d with regs := t.regs, latches := t.latches, rates := t.rates, imgWin := t.imgWin, evj := t.evj, ports := t.ports,
               belowXoff := t.belowXoff, cellsHeld := t.cellsHeld, sess := t.sess, cqe := t.cqe, mat := t.mat, lge := t.lge,
               vpl := t.vpl, fmm := t.fmm }) ∧
    (∀ c ∈ ([.keyslotLoad n, .keyslotErase n] : List Instr), LeavesNv c s fun t =>
      { d with regs := t.regs, latches := t.latches, imgWin := t.imgWin, sec := t.sec, evj := t.evj, ports := t.ports,
               belowXoff := t.belowXoff, cellsHeld := t.cellsHeld, sess := t.sess, cqe := t.cqe, mat := t.mat, lge := t.lge,
               vpl := t.vpl, fmm := t.fmm, cap := t.cap }) ∧
    (∀ c ∈ ([.ppsEdge, .timeHoldover, .timeUntrusted, .ppsOutRise, .ppsOutFall, .unlockBlockExpiry] : List Instr),
      Leaves c s fun t => { d with pins := t.pins, regs := t.regs, sec := t.sec, evj := t.evj }) ∧
    Leaves .cryptoEraseDone s (fun t => { d with keyStore := t.keyStore }) ∧
    (∀ c ∈ ([.fwStage n, .fwActivate n, .fwStageWriteDone ok, .fwReady, .fwReadyTimeout] : List Instr), LeavesNv c s fun t =>
      { d with regs := t.regs, evj := t.evj, ports := t.ports, sess := t.sess, cqe := t.cqe, fw := t.fw }) ∧
    (∀ c ∈ ([.trigSample n k, .trigFault n, .trigClear n, .actTimeout n] : List Instr), Leaves c s fun t =>
      { d with pins := t.pins, regs := t.regs, evj := t.evj, sup := t.sup }) ∧
    (∀ c ∈ ([.powerOn, .resetNRise n k b, .phaseAon ok, .pfStartWaitDone, .phaseMem, .phasePorts] : List Instr),
      LeavesNv c s fun t =>
      { d with pins := t.pins, life := t.life, sup := t.sup, rod := t.rod, ident := t.ident }) ∧
    (∀ c ∈ ([.phaseRun, .phaseIndex u v, .flushDiesReady, .flushStagingWritten n, .flushJournalWritten] : List Instr), LeavesNv c s fun t =>
      { d with pins := t.pins, life := t.life, regs := t.regs, evj := t.evj, idx := t.idx, fmm := t.fmm }) ∧
    LeavesBoth (.trigFire n) s (fun t => { s.nv with lateTriggers := t.lateTriggers })
      (fun t => { d with regs := t.regs, evj := t.evj, sup := t.sup, fmm := t.fmm, cap := t.cap }) ∧
    LeavesNv .phaseRom s
      (fun t => { d with pins := t.pins, life := t.life, regs := t.regs, ident := t.ident }) ∧
    LeavesBoth (.phaseFw ok n) s (fun t => { s.nv with svnFloor := t.svnFloor })
      (fun t => { d with life := t.life, regs := t.regs, evj := t.evj, fw := t.fw }) ∧
    LeavesBoth .flushMetadataWritten s (fun t => { s.nv with eraseMarks := t.eraseMarks })
      (fun t => { d with life := t.life, idx := t.idx, cap := t.cap })
end

