-- ==== Sys2Proof/Laws/Frame.lean ====
section
/-! SUPPORT. Frames: which fields of the device an operation may change, and how frames compose. -/

namespace Sys2Proof.Machine

/-- The fields of the device. -/
inductive Part where
  | cycles | free | pins | life | regs | latches | readData | rates | imgWin | image | copyA | copyB | sec
  | evj | power | sup | clocks | spi | spiErrs | ports | lanes | poolLow | belowXoff | rx | rxNext
  | cellsHeld | sess | epochs | cqe | mat | rod | lge | ident | keyStore | nss | idx | vpl | fmm | cap | fw
  deriving DecidableEq, Repr

/-- Two devices agree in a field. -/
def Part.same (p : Part) (d e : Dev) : Prop :=
  match p with
  | .cycles => e.cycles = d.cycles
  | .free => e.free = d.free
  | .pins => e.pins = d.pins
  | .life => e.life = d.life
  | .regs => e.regs = d.regs
  | .latches => e.latches = d.latches
  | .readData => e.readData = d.readData
  | .rates => e.rates = d.rates
  | .imgWin => e.imgWin = d.imgWin
  | .image => e.image = d.image
  | .copyA => e.copyA = d.copyA
  | .copyB => e.copyB = d.copyB
  | .sec => e.sec = d.sec
  | .evj => e.evj = d.evj
  | .power => e.power = d.power
  | .sup => e.sup = d.sup
  | .clocks => e.clocks = d.clocks
  | .spi => e.spi = d.spi
  | .spiErrs => e.spiErrs = d.spiErrs
  | .ports => e.ports = d.ports
  | .lanes => e.lanes = d.lanes
  | .poolLow => e.poolLow = d.poolLow
  | .belowXoff => e.belowXoff = d.belowXoff
  | .rx => e.rx = d.rx
  | .rxNext => e.rxNext = d.rxNext
  | .cellsHeld => e.cellsHeld = d.cellsHeld
  | .sess => e.sess = d.sess
  | .epochs => e.epochs = d.epochs
  | .cqe => e.cqe = d.cqe
  | .mat => e.mat = d.mat
  | .rod => e.rod = d.rod
  | .lge => e.lge = d.lge
  | .ident => e.ident = d.ident
  | .keyStore => e.keyStore = d.keyStore
  | .nss => e.nss = d.nss
  | .idx => e.idx = d.idx
  | .vpl => e.vpl = d.vpl
  | .fmm => e.fmm = d.fmm
  | .cap => e.cap = d.cap
  | .fw => e.fw = d.fw

/-- Whether a field is among those of a list. -/
def Part.isIn (p : Part) (m : List Part) : Bool := m.any fun q => q.ctorIdx == p.ctorIdx

/-- Whether a list names every field that another names. -/
def covers (m g : List Part) : Bool := g.all fun p => p.isIn m

/-- From `d` to `e` no field changes but those that `m` names. -/
structure Keeps (m : List Part) (d e : Dev) : Prop where
  same : ∀ p : Part, p.isIn m = false → p.same d e

theorem Keeps.refl {m : List Part} {d : Dev} : Keeps m d d := ⟨by intro p _; cases p <;> rfl⟩

theorem Part.same_trans {p : Part} {d e f : Dev} (h : p.same d e) (k : p.same e f) : p.same d f := by
  cases p <;> exact Eq.trans k h

theorem Part.isIn_of_covers {p : Part} {m g : List Part} (c : covers m g = true) (h : p.isIn m = false) :
    p.isIn g = false := by
  cases hg : p.isIn g with
  | false => rfl
  | true =>
    obtain ⟨q, hq, hp⟩ := List.any_eq_true.mp hg
    obtain ⟨r, hr, hrq⟩ := List.any_eq_true.mp (List.all_eq_true.mp c q hq)
    have : p.isIn m = true := List.any_eq_true.mpr ⟨r, hr, by simp only [beq_iff_eq] at *; omega⟩
    rw [this] at h; cases h

/-- A list covers itself. -/
theorem covers_self (m : List Part) : covers m m = true :=
  List.all_eq_true.mpr fun p hp => List.any_eq_true.mpr ⟨p, hp, by simp⟩

theorem covers_trans {m g k : List Part} (c : covers m g = true) (e : covers g k = true) : covers m k = true := by
  refine List.all_eq_true.mpr fun p hp => ?_
  cases h : p.isIn m with
  | true => rfl
  | false =>
    have hk : p.isIn k = true := List.any_eq_true.mpr ⟨p, hp, by simp⟩
    rw [Part.isIn_of_covers e (Part.isIn_of_covers c h)] at hk; cases hk

theorem Part.isIn_of {p : Part} {m g : List Part} (c : covers m g = true) (e : p.isIn g = true) : p.isIn m = true := by
  cases h : p.isIn m with
  | true => rfl
  | false => rw [Part.isIn_of_covers c h] at e; cases e

/-- A further operation changes no more than its own frame. -/
theorem Keeps.step {m g : List Part} {d x y : Dev} (k : Keeps g x y) (c : covers m g = true) (h : Keeps m d x) :
    Keeps m d y := ⟨fun p hp => Part.same_trans (h.same p hp) (k.same p (Part.isIn_of_covers c hp))⟩

theorem Keeps.upd {m : List Part} {d x y : Dev} (hs : ∀ p : Part, p.isIn m = false → p.same x y) (h : Keeps m d x) :
    Keeps m d y := ⟨fun p hp => Part.same_trans (h.same p hp) (hs p hp)⟩

theorem Keeps.ite {m : List Part} {d a b : Dev} {c : Prop} [Decidable c] (ha : Keeps m d a) (hb : Keeps m d b) :
    Keeps m d (if c then a else b) := by split <;> assumption

theorem Keeps.when {m : List Part} {d x : Dev} {c : Bool} {f : Dev → Dev} (ha : Keeps m d (f x)) (hb : Keeps m d x) :
    Keeps m d (x.when c f) := by unfold Dev.when; split <;> assumption

/-- An invariant that each step of a fold keeps holds at its end. -/
theorem foldl_inv {α β : Type} {P : α → Prop} {f : α → β → α} (hs : ∀ x b, P x → P (f x b)) {l : List β} :
    ∀ {a : α}, P a → P (l.foldl f a) := by
  induction l with
  | nil => exact id
  | cons b l ih => exact fun h => ih (hs _ b h)

theorem Keeps.foldl {m : List Part} {d x : Dev} {β : Type} {f : Dev → β → Dev} {l : List β}
    (hs : ∀ y b, Keeps m y (f y b)) (h : Keeps m d x) : Keeps m d (l.foldl f x) :=
  foldl_inv (P := Keeps m d) (fun y b hy => ⟨fun p hp => Part.same_trans (hy.same p hp) ((hs y b).same p hp)⟩) h

/-- The same of the device in an answer, where there is one. -/
def KeepsO {α : Type} (m : List Part) (d : Dev) (g : α → Dev) (o : Option α) : Prop := ∀ r, o = some r → Keeps m d (g r)

/-- The same of the device in an answer, where there is no failure. -/
def KeepsE {ε α : Type} (m : List Part) (d : Dev) (g : α → Dev) (o : Except ε α) : Prop := ∀ r, o = .ok r → Keeps m d (g r)

theorem KeepsO.weaken {α : Type} {m k : List Part} {d : Dev} {g : α → Dev} {o : Option α} (h : KeepsO k d g o)
    (c : covers m k = true) : KeepsO m d g o := fun r e => (h r e).step c .refl

theorem KeepsO.getD {m : List Part} {d x : Dev} {o : Option Dev} (k : KeepsO m d (fun r => r) o) (h : Keeps m d x) :
    Keeps m d (o.getD x) := by
  cases o with
  | none => exact h
  | some r => exact k r rfl

theorem KeepsO.none {α : Type} {m : List Part} {d : Dev} {g : α → Dev} : KeepsO m d g none := fun _ h => by cases h

theorem KeepsO.some {α : Type} {m : List Part} {d : Dev} {g : α → Dev} {r : α} (h : Keeps m d (g r)) :
    KeepsO m d g (some r) := fun _ e => by cases e; exact h

theorem KeepsE.error {ε α : Type} {m : List Part} {d : Dev} {g : α → Dev} {x : ε} : KeepsE m d g (.error x) :=
  fun _ h => by cases h

theorem KeepsE.map {ε α β : Type} {m k : List Part} {d : Dev} {g : α → Dev} {h : β → Dev} {f : α → β} {o : Except ε α}
    (a : KeepsE k d g o) (c : covers m k = true) (e : ∀ r, h (f r) = g r) : KeepsE m d h (o.map f) := by
  intro r hr
  cases o with
  | error x => cases hr
  | ok y => cases hr; exact e y ▸ (a y rfl).step c .refl

theorem KeepsE.ok {ε α : Type} {m : List Part} {d : Dev} {g : α → Dev} {r : α} (h : Keeps m d (g r)) :
    KeepsE (ε := ε) m d g (.ok r) := fun _ e => by cases e; exact h

theorem Keeps.snd {α : Type} {m : List Part} {d e : Dev} {a : α} {p : α × Dev} (k : Keeps m d p.2) (h : p = (a, e)) :
    Keeps m d e := by subst h; exact k

theorem Keeps.fst {α : Type} {m : List Part} {d e : Dev} {a : α} {p : Dev × α} (k : Keeps m d p.1) (h : p = (e, a)) :
    Keeps m d e := by subst h; exact k

theorem Keeps.set_cycles {m : List Part} {d x : Dev} {v : _} (c : Part.isIn .cycles m = true) (h : Keeps m d x) :
    Keeps m d { x with cycles := v } :=
  Keeps.upd (fun p hp => by cases p <;> first | rfl | (rw [c] at hp; cases hp)) h

theorem Keeps.set_free {m : List Part} {d x : Dev} {v : _} (c : Part.isIn .free m = true) (h : Keeps m d x) :
    Keeps m d { x with free := v } :=
  Keeps.upd (fun p hp => by cases p <;> first | rfl | (rw [c] at hp; cases hp)) h

theorem Keeps.set_pins {m : List Part} {d x : Dev} {v : _} (c : Part.isIn .pins m = true) (h : Keeps m d x) :
    Keeps m d { x with pins := v } :=
  Keeps.upd (fun p hp => by cases p <;> first | rfl | (rw [c] at hp; cases hp)) h

theorem Keeps.set_life {m : List Part} {d x : Dev} {v : _} (c : Part.isIn .life m = true) (h : Keeps m d x) :
    Keeps m d { x with life := v } :=
  Keeps.upd (fun p hp => by cases p <;> first | rfl | (rw [c] at hp; cases hp)) h

theorem Keeps.set_regs {m : List Part} {d x : Dev} {v : _} (c : Part.isIn .regs m = true) (h : Keeps m d x) :
    Keeps m d { x with regs := v } :=
  Keeps.upd (fun p hp => by cases p <;> first | rfl | (rw [c] at hp; cases hp)) h

theorem Keeps.set_latches {m : List Part} {d x : Dev} {v : _} (c : Part.isIn .latches m = true) (h : Keeps m d x) :
    Keeps m d { x with latches := v } :=
  Keeps.upd (fun p hp => by cases p <;> first | rfl | (rw [c] at hp; cases hp)) h

theorem Keeps.set_readData {m : List Part} {d x : Dev} {v : _} (c : Part.isIn .readData m = true) (h : Keeps m d x) :
    Keeps m d { x with readData := v } :=
  Keeps.upd (fun p hp => by cases p <;> first | rfl | (rw [c] at hp; cases hp)) h

theorem Keeps.set_rates {m : List Part} {d x : Dev} {v : _} (c : Part.isIn .rates m = true) (h : Keeps m d x) :
    Keeps m d { x with rates := v } :=
  Keeps.upd (fun p hp => by cases p <;> first | rfl | (rw [c] at hp; cases hp)) h

theorem Keeps.set_imgWin {m : List Part} {d x : Dev} {v : _} (c : Part.isIn .imgWin m = true) (h : Keeps m d x) :
    Keeps m d { x with imgWin := v } :=
  Keeps.upd (fun p hp => by cases p <;> first | rfl | (rw [c] at hp; cases hp)) h

theorem Keeps.set_image {m : List Part} {d x : Dev} {v : _} (c : Part.isIn .image m = true) (h : Keeps m d x) :
    Keeps m d { x with image := v } :=
  Keeps.upd (fun p hp => by cases p <;> first | rfl | (rw [c] at hp; cases hp)) h

theorem Keeps.set_copyA {m : List Part} {d x : Dev} {v : _} (c : Part.isIn .copyA m = true) (h : Keeps m d x) :
    Keeps m d { x with copyA := v } :=
  Keeps.upd (fun p hp => by cases p <;> first | rfl | (rw [c] at hp; cases hp)) h

theorem Keeps.set_copyB {m : List Part} {d x : Dev} {v : _} (c : Part.isIn .copyB m = true) (h : Keeps m d x) :
    Keeps m d { x with copyB := v } :=
  Keeps.upd (fun p hp => by cases p <;> first | rfl | (rw [c] at hp; cases hp)) h

theorem Keeps.set_sec {m : List Part} {d x : Dev} {v : _} (c : Part.isIn .sec m = true) (h : Keeps m d x) :
    Keeps m d { x with sec := v } :=
  Keeps.upd (fun p hp => by cases p <;> first | rfl | (rw [c] at hp; cases hp)) h

theorem Keeps.set_evj {m : List Part} {d x : Dev} {v : _} (c : Part.isIn .evj m = true) (h : Keeps m d x) :
    Keeps m d { x with evj := v } :=
  Keeps.upd (fun p hp => by cases p <;> first | rfl | (rw [c] at hp; cases hp)) h

theorem Keeps.set_power {m : List Part} {d x : Dev} {v : _} (c : Part.isIn .power m = true) (h : Keeps m d x) :
    Keeps m d { x with power := v } :=
  Keeps.upd (fun p hp => by cases p <;> first | rfl | (rw [c] at hp; cases hp)) h

theorem Keeps.set_sup {m : List Part} {d x : Dev} {v : _} (c : Part.isIn .sup m = true) (h : Keeps m d x) :
    Keeps m d { x with sup := v } :=
  Keeps.upd (fun p hp => by cases p <;> first | rfl | (rw [c] at hp; cases hp)) h

theorem Keeps.set_clocks {m : List Part} {d x : Dev} {v : _} (c : Part.isIn .clocks m = true) (h : Keeps m d x) :
    Keeps m d { x with clocks := v } :=
  Keeps.upd (fun p hp => by cases p <;> first | rfl | (rw [c] at hp; cases hp)) h

theorem Keeps.set_spi {m : List Part} {d x : Dev} {v : _} (c : Part.isIn .spi m = true) (h : Keeps m d x) :
    Keeps m d { x with spi := v } :=
  Keeps.upd (fun p hp => by cases p <;> first | rfl | (rw [c] at hp; cases hp)) h

theorem Keeps.set_spiErrs {m : List Part} {d x : Dev} {v : _} (c : Part.isIn .spiErrs m = true) (h : Keeps m d x) :
    Keeps m d { x with spiErrs := v } :=
  Keeps.upd (fun p hp => by cases p <;> first | rfl | (rw [c] at hp; cases hp)) h

theorem Keeps.set_ports {m : List Part} {d x : Dev} {v : _} (c : Part.isIn .ports m = true) (h : Keeps m d x) :
    Keeps m d { x with ports := v } :=
  Keeps.upd (fun p hp => by cases p <;> first | rfl | (rw [c] at hp; cases hp)) h

theorem Keeps.set_lanes {m : List Part} {d x : Dev} {v : _} (c : Part.isIn .lanes m = true) (h : Keeps m d x) :
    Keeps m d { x with lanes := v } :=
  Keeps.upd (fun p hp => by cases p <;> first | rfl | (rw [c] at hp; cases hp)) h

theorem Keeps.set_poolLow {m : List Part} {d x : Dev} {v : _} (c : Part.isIn .poolLow m = true) (h : Keeps m d x) :
    Keeps m d { x with poolLow := v } :=
  Keeps.upd (fun p hp => by cases p <;> first | rfl | (rw [c] at hp; cases hp)) h

theorem Keeps.set_belowXoff {m : List Part} {d x : Dev} {v : _} (c : Part.isIn .belowXoff m = true) (h : Keeps m d x) :
    Keeps m d { x with belowXoff := v } :=
  Keeps.upd (fun p hp => by cases p <;> first | rfl | (rw [c] at hp; cases hp)) h

theorem Keeps.set_rx {m : List Part} {d x : Dev} {v : _} (c : Part.isIn .rx m = true) (h : Keeps m d x) :
    Keeps m d { x with rx := v } :=
  Keeps.upd (fun p hp => by cases p <;> first | rfl | (rw [c] at hp; cases hp)) h

theorem Keeps.set_rxNext {m : List Part} {d x : Dev} {v : _} (c : Part.isIn .rxNext m = true) (h : Keeps m d x) :
    Keeps m d { x with rxNext := v } :=
  Keeps.upd (fun p hp => by cases p <;> first | rfl | (rw [c] at hp; cases hp)) h

theorem Keeps.set_cellsHeld {m : List Part} {d x : Dev} {v : _} (c : Part.isIn .cellsHeld m = true) (h : Keeps m d x) :
    Keeps m d { x with cellsHeld := v } :=
  Keeps.upd (fun p hp => by cases p <;> first | rfl | (rw [c] at hp; cases hp)) h

theorem Keeps.set_sess {m : List Part} {d x : Dev} {v : _} (c : Part.isIn .sess m = true) (h : Keeps m d x) :
    Keeps m d { x with sess := v } :=
  Keeps.upd (fun p hp => by cases p <;> first | rfl | (rw [c] at hp; cases hp)) h

theorem Keeps.set_epochs {m : List Part} {d x : Dev} {v : _} (c : Part.isIn .epochs m = true) (h : Keeps m d x) :
    Keeps m d { x with epochs := v } :=
  Keeps.upd (fun p hp => by cases p <;> first | rfl | (rw [c] at hp; cases hp)) h

theorem Keeps.set_cqe {m : List Part} {d x : Dev} {v : _} (c : Part.isIn .cqe m = true) (h : Keeps m d x) :
    Keeps m d { x with cqe := v } :=
  Keeps.upd (fun p hp => by cases p <;> first | rfl | (rw [c] at hp; cases hp)) h

theorem Keeps.set_mat {m : List Part} {d x : Dev} {v : _} (c : Part.isIn .mat m = true) (h : Keeps m d x) :
    Keeps m d { x with mat := v } :=
  Keeps.upd (fun p hp => by cases p <;> first | rfl | (rw [c] at hp; cases hp)) h

theorem Keeps.set_rod {m : List Part} {d x : Dev} {v : _} (c : Part.isIn .rod m = true) (h : Keeps m d x) :
    Keeps m d { x with rod := v } :=
  Keeps.upd (fun p hp => by cases p <;> first | rfl | (rw [c] at hp; cases hp)) h

theorem Keeps.set_lge {m : List Part} {d x : Dev} {v : _} (c : Part.isIn .lge m = true) (h : Keeps m d x) :
    Keeps m d { x with lge := v } :=
  Keeps.upd (fun p hp => by cases p <;> first | rfl | (rw [c] at hp; cases hp)) h

theorem Keeps.set_ident {m : List Part} {d x : Dev} {v : _} (c : Part.isIn .ident m = true) (h : Keeps m d x) :
    Keeps m d { x with ident := v } :=
  Keeps.upd (fun p hp => by cases p <;> first | rfl | (rw [c] at hp; cases hp)) h

theorem Keeps.set_keyStore {m : List Part} {d x : Dev} {v : _} (c : Part.isIn .keyStore m = true) (h : Keeps m d x) :
    Keeps m d { x with keyStore := v } :=
  Keeps.upd (fun p hp => by cases p <;> first | rfl | (rw [c] at hp; cases hp)) h

theorem Keeps.set_nss {m : List Part} {d x : Dev} {v : _} (c : Part.isIn .nss m = true) (h : Keeps m d x) :
    Keeps m d { x with nss := v } :=
  Keeps.upd (fun p hp => by cases p <;> first | rfl | (rw [c] at hp; cases hp)) h

theorem Keeps.set_idx {m : List Part} {d x : Dev} {v : _} (c : Part.isIn .idx m = true) (h : Keeps m d x) :
    Keeps m d { x with idx := v } :=
  Keeps.upd (fun p hp => by cases p <;> first | rfl | (rw [c] at hp; cases hp)) h

theorem Keeps.set_vpl {m : List Part} {d x : Dev} {v : _} (c : Part.isIn .vpl m = true) (h : Keeps m d x) :
    Keeps m d { x with vpl := v } :=
  Keeps.upd (fun p hp => by cases p <;> first | rfl | (rw [c] at hp; cases hp)) h

theorem Keeps.set_fmm {m : List Part} {d x : Dev} {v : _} (c : Part.isIn .fmm m = true) (h : Keeps m d x) :
    Keeps m d { x with fmm := v } :=
  Keeps.upd (fun p hp => by cases p <;> first | rfl | (rw [c] at hp; cases hp)) h

theorem Keeps.set_cap {m : List Part} {d x : Dev} {v : _} (c : Part.isIn .cap m = true) (h : Keeps m d x) :
    Keeps m d { x with cap := v } :=
  Keeps.upd (fun p hp => by cases p <;> first | rfl | (rw [c] at hp; cases hp)) h

theorem Keeps.set_fw {m : List Part} {d x : Dev} {v : _} (c : Part.isIn .fw m = true) (h : Keeps m d x) :
    Keeps m d { x with fw := v } :=
  Keeps.upd (fun p hp => by cases p <;> first | rfl | (rw [c] at hp; cases hp)) h

/-- What is answered beside a commit that consumes its draws is what the commit answers. -/
theorem Dev.consume_ok {α : Type} {d : Dev} {x : Except Fail α} {r : α} (h : d.consume x = .ok r) : x = .ok r := by
  cases x with
  | error f => cases h
  | ok y => exact h

end Sys2Proof.Machine
end

