-- ==== Sys2Proof/Laws/BaseFrames.lean ====
section
/-! SUPPORT. Frame lemmas: registers, events, ports, packets, the command engine's queues: each lemma `Dev.f_keeps` names the fields of the device that `Dev.f` may
change; every other field is as before. -/

open Sys2Proof

namespace Sys2Proof.Machine

theorem Dev.draw_keeps {d : Dev} {n : Nat} :
    Keeps [.free] d (Dev.draw d n).2 := by
  unfold Dev.draw
  dsimp only
  exact .set_free rfl .refl

theorem Dev.setReg_keeps {d : Dev} {a : Nat} {v : Word} :
    Keeps [.regs] d (Dev.setReg d a v) :=
  .set_regs rfl .refl

theorem Dev.setRegN_keeps {d : Dev} {a : Nat} {v : Nat} :
    Keeps [.regs] d (Dev.setRegN d a v) :=
  Dev.setReg_keeps.step rfl .refl

theorem Dev.raise_keeps {d : Dev} {i : Irq} :
    Keeps [.regs] d (Dev.raise d i) :=
  Dev.setReg_keeps.step rfl .refl

theorem Dev.setRegF_keeps {d : Dev} {a : Nat} {hi : Nat} {lo : Nat} {f : Nat} :
    Keeps [.regs] d (Dev.setRegF d a hi lo f) :=
  Dev.setRegN_keeps.step rfl .refl

theorem Dev.raiseIf_keeps {d : Dev} {c : Bool} {i : Irq} :
    Keeps [.regs] d (Dev.raiseIf d c i) :=
  .ite (Dev.raise_keeps.step rfl .refl) .refl

theorem Dev.countN_keeps {d : Dev} {a : Nat} {n : Nat} :
    Keeps [.regs] d (Dev.countN d a n) :=
  Dev.setRegN_keeps.step rfl .refl

theorem Dev.count_keeps {d : Dev} {a : Nat} :
    Keeps [.regs] d (Dev.count d a) :=
  Dev.countN_keeps.step rfl .refl

theorem Dev.log_keeps {d : Dev} {e : Ev} {params : Bytes} :
    Keeps [.regs, .evj] d (Dev.log d e params) := by
  unfold Dev.log
  extract_lets ps1
  exact .ite (Dev.raiseIf_keeps.step rfl (.set_evj rfl .refl)) (.ite (Dev.raise_keeps.step rfl (Dev.count_keeps.step rfl .refl)) (Dev.raise_keeps.step rfl (Dev.count_keeps.step rfl (.set_evj rfl .refl))))

theorem Dev.logKeyed_keeps {d : Dev} {key : Nat} {e : Ev} {limit : Nat} {params : Nat → Bytes} :
    Keeps [.regs, .rates, .evj] d (Dev.logKeyed d key e limit params) := by
  unfold Dev.logKeyed
  extract_lets r1 recent2
  exact .ite (Dev.log_keeps.step rfl (.set_rates rfl .refl)) (.set_rates rfl .refl)

theorem Dev.logLimited_keeps {d : Dev} {e : Ev} {limit : Nat} {params : Nat → Bytes} :
    Keeps [.regs, .rates, .evj] d (Dev.logLimited d e limit params) :=
  Dev.logKeyed_keeps.step rfl .refl

theorem Dev.countSearch_keeps {d : Dev} {f : Found} :
    Keeps [.regs] d (Dev.countSearch d f) := by
  unfold Dev.countSearch
  extract_lets d1 d2 d3
  have h4 : Keeps [.regs] d d1 := Dev.count_keeps.step rfl .refl
  have h5 : Keeps [.regs] d d2 := .ite (Dev.count_keeps.step rfl h4) h4
  have h6 : Keeps [.regs] d d3 := .ite (Dev.count_keeps.step rfl h5) h5
  exact .ite (Dev.count_keeps.step rfl h6) h6

theorem Dev.classRemove_keeps {d : Dev} {sid : Nat} :
    Keeps [.regs, .mat] d (Dev.classRemove d sid) := by
  unfold Dev.classRemove
  extract_lets kept1 y2
  exact Dev.countN_keeps.step rfl (.set_mat rfl .refl)

theorem Dev.entryDel_keeps {d : Dev} {a : Nat} :
    Keeps [.regs, .mat] d (Dev.entryDel d a) :=
  Dev.count_keeps.step rfl (.set_mat rfl .refl)

theorem Dev.classInstall_keeps {d : Dev} {k : ClassKey} {sid : Nat} :
    Keeps [.regs, .mat] d (Dev.classInstall d k sid) := by
  unfold Dev.classInstall
  split
  · exact .refl
  · extract_lets w1 ones2 e3 y4
    exact Dev.count_keeps.step rfl (.set_mat rfl .refl)

theorem Dev.entryPut_keeps {d : Dev} {a : Nat} {e : MatEntry} :
    Keeps [.regs, .mat] d (Dev.entryPut d a e) :=
  Dev.count_keeps.step rfl (.set_mat rfl .refl)

theorem Dev.modPort_keeps {d : Dev} {n : Nat} {f : Port → Port} :
    Keeps [.ports] d (Dev.modPort d n f) :=
  .ite (.set_ports rfl .refl) .refl

theorem Dev.modLane_keeps {d : Dev} {n : Nat} {f : Lane → Lane} :
    Keeps [.lanes] d (Dev.modLane d n f) :=
  .ite (.set_lanes rfl .refl) .refl

theorem Dev.modSa_keeps {d : Dev} {i : Nat} {f : Sa → Sa} :
    Keeps [.sec] d (Dev.modSa d i f) :=
  .set_sec rfl .refl

theorem Dev.secPass_keeps {d : Dev} {port : Nat} {sc : Nat} {t : SecTag} :
    Keeps [.sec] d (Dev.secPass d port sc t) :=
  Dev.modSa_keeps.step rfl .refl

theorem Dev.sendFlow_keeps {d : Dev} {n : Nat} {quanta : Nat} :
    Keeps [.ports] d (Dev.sendFlow d n quanta) := by
  unfold Dev.sendFlow
  extract_lets pfc1 body2
  exact Dev.modPort_keeps.step rfl .refl

theorem Dev.portCount_keeps {d : Dev} {n : Nat} {i : Nat} {amt : Nat} :
    Keeps [.regs, .ports] d (Dev.portCount d n i amt) := by
  unfold Dev.portCount
  split
  · exact .refl
  · extract_lets old1 new2 crossed3 d4
    have h5 : Keeps [.regs, .ports] d d4 := Dev.modPort_keeps.step rfl .refl
    exact Dev.raiseIf_keeps.step rfl h5

theorem Dev.queueFrame_keeps {d : Dev} {n : Nat} {f : TxFrame} :
    Keeps [.regs, .ports] d (Dev.queueFrame d n f) :=
  .ite (Dev.modPort_keeps.step rfl .refl) (Dev.portCount_keeps.step rfl .refl)

theorem Dev.sendXon_keeps {d : Dev} :
    Keeps [.ports] d (Dev.sendXon d) :=
  .foldl (fun _ _ => (.ite (Dev.sendFlow_keeps.step rfl .refl) .refl)) .refl

theorem Dev.sendXoff_keeps {d : Dev} {crossing : Bool} :
    Keeps [.regs, .ports] d (Dev.sendXoff d crossing) := by
  unfold Dev.sendXoff
  refine .foldl (fun y1 a2 => ?_) ?_
  · split
    · extract_lets d3
      have h4 : Keeps [.regs, .ports] y1 d3 := Dev.sendFlow_keeps.step rfl .refl
      exact .ite (Dev.portCount_keeps.step rfl h4) h4
    · exact .refl
  · exact .refl

theorem Dev.recountTx_keeps {d : Dev} {n : Nat} {len : Nat} {sent : Nat} :
    Keeps [.regs, .ports] d (Dev.recountTx d n len sent) := by
  unfold Dev.recountTx
  extract_lets put1 d2
  have h3 : Keeps [.regs, .ports] d d2 := Dev.modPort_keeps.step rfl .refl
  exact Dev.portCount_keeps.step rfl (Dev.portCount_keeps.step rfl h3)

theorem Dev.freeCells_keeps {d : Dev} {n : Nat} :
    Keeps [.ports, .belowXoff, .cellsHeld] d (Dev.freeCells d n) := by
  unfold Dev.freeCells
  extract_lets d1
  have h2 : Keeps [.ports, .belowXoff, .cellsHeld] d d1 := .set_cellsHeld rfl .refl
  exact .ite (Dev.sendXon_keeps.step rfl (.set_belowXoff rfl h2)) h2

theorem Dev.dropQueue_keeps {d : Dev} {n : Nat} {keep : Bool} :
    Keeps [.regs, .ports] d (Dev.dropQueue d n keep) := by
  unfold Dev.dropQueue
  extract_lets p1 lost2
  exact Dev.portCount_keeps.step rfl (Dev.modPort_keeps.step rfl .refl)

theorem Dev.takeCells_keeps {d : Dev} {n : Nat} :
    Keeps [.regs, .ports, .poolLow, .belowXoff, .cellsHeld] d (Dev.takeCells d n) := by
  unfold Dev.takeCells
  extract_lets d1 d2
  have h3 : Keeps [.regs, .ports, .poolLow, .belowXoff, .cellsHeld] d d1 := .set_cellsHeld rfl .refl
  have h4 : Keeps [.regs, .ports, .poolLow, .belowXoff, .cellsHeld] d d2 := .set_poolLow rfl h3
  exact .ite (Dev.sendXoff_keeps.step rfl (.set_belowXoff rfl h4)) h4

theorem Dev.cutFrame_keeps {d : Dev} {n : Nat} {counter : Nat} {sent : Nat} {t : TxNow} :
    Keeps [.regs, .ports] d (Dev.cutFrame d n counter sent t) := by
  unfold Dev.cutFrame
  extract_lets out1
  exact Dev.modPort_keeps.step rfl (Dev.portCount_keeps.step rfl (Dev.recountTx_keeps.step rfl .refl))

theorem Dev.passCells_keeps {d : Dev} {n : Nat} :
    Keeps [.regs, .ports, .poolLow, .belowXoff, .cellsHeld] d (Dev.passCells d n) := by
  unfold Dev.passCells
  extract_lets n1
  exact Dev.freeCells_keeps.step rfl (Dev.takeCells_keeps.step rfl .refl)

theorem Dev.reportStops_keeps {d : Dev} :
    Keeps [.regs, .sec, .evj] d (Dev.reportStops d) :=
  .foldl (fun _ _ => (Dev.log_keeps.step rfl (Dev.raise_keeps.step rfl .refl))) (.set_sec rfl .refl)

theorem Dev.saExhaust_keeps {d : Dev} {i : Nat} :
    Keeps [.regs, .sec, .evj] d (Dev.saExhaust d i) := by
  unfold Dev.saExhaust
  split
  · exact .refl
  · extract_lets port1 d2 y3
    have h4 : Keeps [.regs, .sec, .evj] d d2 := Dev.modSa_keeps.step rfl .refl
    split
    · exact Dev.log_keeps.step rfl (Dev.modSa_keeps.step rfl h4)
    · exact .set_sec rfl h4

theorem Dev.stomp_keeps {d : Dev} {n : Nat} {counter : Nat} :
    Keeps [.regs, .ports] d (Dev.stomp d n counter) := by
  unfold Dev.stomp
  split
  · exact Dev.cutFrame_keeps.step rfl .refl
  · exact .refl

theorem Dev.saUse_keeps {d : Dev} {i : Nat} {s : Sa} :
    Keeps [.regs, .sec, .evj, .ports] d (Dev.saUse d i s) := by
  unfold Dev.saUse
  extract_lets port1 d2 d3
  have h4 : Keeps [.regs, .sec, .evj, .ports] d d2 := Dev.portCount_keeps.step rfl (Dev.modSa_keeps.step rfl .refl)
  have h5 : Keeps [.regs, .sec, .evj, .ports] d d3 := .ite (Dev.log_keeps.step rfl (Dev.raise_keeps.step rfl h4)) h4
  exact .ite (Dev.saExhaust_keeps.step rfl h5) h5

theorem Dev.claimPkt_keeps {d : Dev} {pid : Nat} :
    Keeps [.rx] d (Dev.claimPkt d pid) :=
  .set_rx rfl .refl

theorem Dev.modSess_keeps {d : Dev} {sid : Nat} {f : Sess → Sess} :
    Keeps [.sess] d (Dev.modSess d sid f) :=
  .set_sess rfl .refl

theorem Dev.sendDatagram_keeps {d : Dev} {port : Nat} {sid : Nat} {queue : Nat} {v6 : Bool} {src : Nat} {mac : Nat} {ip : Nat} {udpPort : Nat} {packet : Bytes} :
    Keeps [.regs, .ports] d (Dev.sendDatagram d port sid queue v6 src mac ip udpPort packet) :=
  Dev.count_keeps.step rfl (Dev.queueFrame_keeps.step rfl .refl)

theorem Dev.freeSession_keeps {d : Dev} {sid : Nat} :
    Keeps [.regs, .latches, .sess, .mat] d (Dev.freeSession d sid) := by
  unfold Dev.freeSession
  extract_lets y1
  have h2 : Keeps [.regs, .latches, .sess, .mat] d y1 := Dev.classRemove_keeps.step rfl .refl
  exact .upd (fun p hp => by cases p <;> first | exact absurd hp (by decide) | rfl) h2

theorem Dev.sendBack_keeps {d : Dev} {k : RxPkt} {h : DktHdr} {payload : Bytes} :
    Keeps [.regs, .ports] d (Dev.sendBack d k h payload) :=
  Dev.sendDatagram_keeps.step rfl .refl

theorem Dev.dropPkt_keeps {d : Dev} {pid : Nat} :
    Keeps [.ports, .belowXoff, .rx, .cellsHeld] d (Dev.dropPkt d pid) := by
  unfold Dev.dropPkt
  split
  · exact .refl
  · exact Dev.freeCells_keeps.step rfl (.set_rx rfl .refl)

theorem Dev.sendPacket_keeps {d : Dev} {sid : Nat} {h : DktHdr} {payload : Bytes} :
    Keeps [.regs, .ports, .sess] d (Dev.sendPacket d sid h payload) := by
  unfold Dev.sendPacket
  split
  · exact .refl
  · extract_lets limit1 hdr2 d3
    have h4 : Keeps [.regs, .ports, .sess] d d3 := Dev.modSess_keeps.step rfl .refl
    exact Dev.sendDatagram_keeps.step rfl h4

theorem Dev.sendTx_keeps {d : Dev} {sid : Nat} {p : TxPkt} {retx : Bool} :
    Keeps [.regs, .ports, .sess] d (Dev.sendTx d sid p retx) :=
  Dev.sendPacket_keeps.step rfl .refl

theorem Dev.sendPlain_keeps {d : Dev} {sid : Nat} {type : Nat} {payload : Bytes} :
    Keeps [.regs, .ports, .sess] d (Dev.sendPlain d sid type payload) := by
  unfold Dev.sendPlain
  split
  · exact .refl
  · exact Dev.sendPacket_keeps.step rfl .refl

theorem Dev.sendFirst_keeps {d : Dev} {sid : Nat} {p : TxPkt} :
    Keeps [.regs, .ports, .sess] d (Dev.sendFirst d sid p) :=
  Dev.sendTx_keeps.step rfl (Dev.modSess_keeps.step rfl .refl)

theorem Dev.pumpOne_keeps {d : Dev} {sid : Nat} :
    KeepsO [.regs, .ports, .sess] d (fun r => r) (Dev.pumpOne d sid) := by
  unfold Dev.pumpOne
  split
  · exact .none
  · split
    · exact .none
    · split
      · exact .none
      · extract_lets pay1 rest2 last3 p4 out5
        refine .some ?_
        exact Dev.sendFirst_keeps.step rfl (Dev.modSess_keeps.step rfl .refl)

theorem Dev.fastResend_keeps {d : Dev} {sid : Nat} {h : DktHdr} :
    Keeps [.regs, .ports, .sess] d (Dev.fastResend d sid h) := by
  unfold Dev.fastResend
  split
  · exact .refl
  · extract_lets due1 d2
    have h3 : Keeps [.regs, .ports, .sess] d d2 := Dev.modSess_keeps.step rfl .refl
    exact .foldl (fun _ _ => (Dev.count_keeps.step rfl (Dev.sendTx_keeps.step rfl .refl))) h3

theorem Dev.pumpN_keeps {sid : Nat} {n : Nat} {d : Dev} :
    Keeps [.regs, .ports, .sess] d (Dev.pumpN sid n d) := by
  induction n generalizing sid d with
  | zero =>
    unfold Dev.pumpN
    exact .refl
  | succ n1 ih =>
    unfold Dev.pumpN
    split
    next z1 z2 z3 =>
      exact ih.step rfl ((Dev.pumpOne_keeps _ z3).step rfl .refl)
    · exact .refl

theorem Dev.pump_keeps {d : Dev} {sid : Nat} :
    Keeps [.regs, .ports, .sess] d (Dev.pump d sid) :=
  Dev.pumpN_keeps.step rfl .refl

theorem Dev.sendMessage_keeps {d : Dev} {sid : Nat} {queue : Nat} {tag : Nat} {data : Bytes} :
    Keeps [.regs, .ports, .sess] d (Dev.sendMessage d sid queue tag data) :=
  Dev.pump_keeps.step rfl (Dev.modSess_keeps.step rfl .refl)

theorem Dev.openMessage_keeps {d : Dev} {sid : Nat} {queue : Nat} {tag : Nat} {data : Bytes} :
    Keeps [.regs, .ports, .sess] d (Dev.openMessage d sid queue tag data) :=
  Dev.pump_keeps.step rfl (Dev.modSess_keeps.step rfl .refl)

theorem Dev.absorbAck_keeps {d : Dev} {sid : Nat} {h : DktHdr} :
    Keeps [.regs, .ports, .sess] d (Dev.absorbAck d sid h) := by
  unfold Dev.absorbAck
  extract_lets d1 d2
  have h3 : Keeps [.regs, .ports, .sess] d d1 := Dev.modSess_keeps.step rfl .refl
  have h4 : Keeps [.regs, .ports, .sess] d d2 := .ite (Dev.fastResend_keeps.step rfl h3) h3
  exact Dev.pump_keeps.step rfl h4

theorem Dev.extendMessage_keeps {d : Dev} {sid : Nat} {queue : Nat} {tag : Nat} {data : Bytes} {last : Bool} :
    Keeps [.regs, .ports, .sess] d (Dev.extendMessage d sid queue tag data last) :=
  Dev.pump_keeps.step rfl (Dev.modSess_keeps.step rfl .refl)

theorem Dev.modFlight_keeps {d : Dev} {ctx : Nat} {f : Flight → Flight} :
    Keeps [.cqe] d (Dev.modFlight d ctx f) :=
  .set_cqe rfl .refl

theorem Dev.orphan_keeps {d : Dev} {sid : Nat} :
    Keeps [.cqe] d (Dev.orphan d sid) :=
  .set_cqe rfl .refl

theorem Dev.passLocks_keeps {d : Dev} {ctx : Nat} :
    Keeps [.cqe] d (Dev.passLocks d ctx) :=
  Dev.modFlight_keeps.step rfl .refl

theorem Dev.discardQueued_keeps {d : Dev} {sid : Nat} :
    Keeps [.ports, .belowXoff, .cellsHeld, .cqe] d (Dev.discardQueued d sid).1 := by
  unfold Dev.discardQueued
  extract_lets mine1 cells2 y3
  dsimp only
  exact Dev.freeCells_keeps.step rfl (.set_cqe rfl .refl)

theorem Dev.endMessage_keeps {d : Dev} {sid : Nat} {queue : Nat} :
    Keeps [.ports, .belowXoff, .cellsHeld, .sess] d (Dev.endMessage d sid queue) := by
  unfold Dev.endMessage
  split
  · exact .refl
  · exact Dev.freeCells_keeps.step rfl (Dev.modSess_keeps.step rfl .refl)

theorem Dev.feed_keeps {d : Dev} {n : Nat} {bytes : Bytes} {whole : Bool} {cells : Nat} :
    Keeps [.ports, .belowXoff, .cellsHeld, .cqe] d (Dev.feed d n bytes whole cells) := by
  unfold Dev.feed
  split
  · exact .set_cqe rfl .refl
  · exact Dev.freeCells_keeps.step rfl (Dev.modFlight_keeps.step rfl .refl)

theorem Dev.countStatus_keeps {d : Dev} {status : Nat} :
    Keeps [.regs] d (Dev.countStatus d status) :=
  .ite (Dev.count_keeps.step rfl .refl) (.ite (Dev.count_keeps.step rfl .refl) (.ite (Dev.raise_keeps.step rfl (Dev.count_keeps.step rfl .refl)) (.ite (Dev.count_keeps.step rfl .refl) (.ite (Dev.count_keeps.step rfl .refl) .refl))))

theorem Dev.releaseSessCells_keeps {d : Dev} {sid : Nat} :
    Keeps [.ports, .belowXoff, .cellsHeld] d (Dev.releaseSessCells d sid) := by
  unfold Dev.releaseSessCells
  split
  · exact .refl
  · exact Dev.freeCells_keeps.step rfl .refl

theorem Dev.dropSession_keeps {d : Dev} {sid : Nat} :
    Keeps [.regs, .latches, .ports, .belowXoff, .cellsHeld, .sess, .cqe, .mat] d (Dev.dropSession d sid).1 := by
  unfold Dev.dropSession
  split
  next z1 z2 z3 z4 =>
    dsimp only
    exact Dev.freeSession_keeps.step rfl (Dev.orphan_keeps.step rfl ((Dev.discardQueued_keeps.fst z4).step rfl (Dev.releaseSessCells_keeps.step rfl .refl)))

theorem Dev.reportBusy_keeps {d : Dev} {detail : Nat} :
    Keeps [.regs, .rates, .evj] d (Dev.reportBusy d detail) := by
  unfold Dev.reportBusy
  split
  · exact Dev.raise_keeps.step rfl (Dev.count_keeps.step rfl .refl)
  · split
    · extract_lets low1
      exact Dev.logLimited_keeps.step rfl (Dev.raise_keeps.step rfl (Dev.count_keeps.step rfl .refl))
    · exact Dev.logLimited_keeps.step rfl (Dev.raise_keeps.step rfl (Dev.count_keeps.step rfl .refl))

theorem Dev.answer_keeps {d : Dev} {sid : Nat} {queue : Nat} {tag : Nat} {msg : Bytes} :
    Keeps [.regs, .ports, .sess] d (Dev.answer d sid queue tag msg) :=
  Dev.sendMessage_keeps.step rfl (Dev.modSess_keeps.step rfl .refl)

theorem Dev.finishWith_keeps {d : Dev} {ctx : Nat} {msg : Bytes} :
    Keeps [.regs, .ports, .sess, .cqe] d (Dev.finishWith d ctx msg) := by
  unfold Dev.finishWith
  split
  · exact .refl
  · extract_lets y1 d2
    have h3 : Keeps [.regs, .ports, .sess, .cqe] d d2 := .set_cqe rfl .refl
    exact .ite h3 (Dev.answer_keeps.step rfl h3)

theorem Dev.answerStatus_keeps {d : Dev} {sid : Nat} {queue : Nat} {tag : Nat} {op : Nat} {status : Nat} {version : Nat} {detail : Nat} :
    Keeps [.regs, .ports, .sess] d (Dev.answerStatus d sid queue tag op status version detail) :=
  Dev.answer_keeps.step rfl (Dev.countStatus_keeps.step rfl .refl)

theorem Dev.refuseTag_keeps {d : Dev} {sid : Nat} {queue : Nat} {tag : Nat} {op : Nat} {status : Nat} {version : Nat} {detail : Nat} :
    Keeps [.regs, .ports, .sess] d (Dev.refuseTag d sid queue tag op status version detail) :=
  Dev.sendMessage_keeps.step rfl (Dev.countStatus_keeps.step rfl .refl)

theorem Dev.finish_keeps {d : Dev} {ctx : Nat} {status : Nat} {version : Nat} {detail : Nat} :
    Keeps [.regs, .ports, .sess, .cqe] d (Dev.finish d ctx status version detail) := by
  unfold Dev.finish
  split
  · exact .refl
  · exact Dev.finishWith_keeps.step rfl (Dev.countStatus_keeps.step rfl .refl)

theorem Dev.finishData_keeps {d : Dev} {ctx : Nat} {flags : Nat} {version : Nat} {param : Bytes} {data : Bytes} :
    Keeps [.regs, .ports, .sess, .cqe] d (Dev.finishData d ctx flags version param data) := by
  unfold Dev.finishData
  split
  · exact .refl
  · exact Dev.finishWith_keeps.step rfl .refl

theorem Dev.finishOk_keeps {d : Dev} {ctx : Nat} {version : Nat} {param : Bytes} {data : Bytes} :
    Keeps [.regs, .ports, .sess, .cqe] d (Dev.finishOk d ctx version param data) :=
  Dev.finishData_keeps.step rfl .refl

theorem Dev.finishInternal_keeps {d : Dev} {ctx : Nat} {cause : Nat} :
    Keeps [.regs, .evj, .ports, .sess, .cqe] d (Dev.finishInternal d ctx cause) := by
  unfold Dev.finishInternal
  split
  · exact .refl
  · extract_lets c1 param2 seq3
    exact Dev.finish_keeps.step rfl (Dev.log_keeps.step rfl .refl)

theorem Dev.breakMessage_keeps {d : Dev} {sid : Nat} {queue : Nat} {detail : Nat} :
    Keeps [.regs, .ports, .belowXoff, .cellsHeld, .sess, .cqe] d (Dev.breakMessage d sid queue detail) := by
  unfold Dev.breakMessage
  split
  · exact .refl
  · extract_lets d1 y2
    have h3 : Keeps [.regs, .ports, .belowXoff, .cellsHeld, .sess, .cqe] d d1 := Dev.freeCells_keeps.step rfl (Dev.modSess_keeps.step rfl .refl)
    split
    · exact h3
    · split
      · exact Dev.refuseTag_keeps.step rfl h3
      · split
        · exact Dev.answerStatus_keeps.step rfl (Dev.freeCells_keeps.step rfl (.set_cqe rfl h3))
        · exact Dev.finish_keeps.step rfl h3

theorem Dev.enqueue_keeps {d : Dev} {c : Cmd} :
    Keeps [.regs, .rates, .evj, .ports, .sess, .cqe] d (Dev.enqueue d c).1 := by
  unfold Dev.enqueue
  extract_lets busy1 n2 lent3 y4 e5 d6
  have h7 : Keeps [.regs, .rates, .evj, .ports, .sess, .cqe] d d6 := Dev.modSess_keeps.step rfl (.set_cqe rfl .refl)
  split
  · dsimp only
    exact Dev.refuseTag_keeps.step rfl (Dev.reportBusy_keeps.step rfl .refl)
  · dsimp only
    exact Dev.countN_keeps.step rfl (Dev.count_keeps.step rfl h7)

end Sys2Proof.Machine
end

