-- ==== Sys2Proof/Laws/StoreFrames.lean ====
section
/-! SUPPORT. Frame lemmas: flash, the index, the value pipeline, placing and committing writes: each lemma `Dev.f_keeps` names the fields of the device that `Dev.f` may
change; every other field is as before. -/

open Sys2Proof

namespace Sys2Proof.Machine

theorem Dev.unhead_keeps {d : Dev} {b : Nat} :
    Keeps [.fmm] d (Dev.unhead d b) := by
  unfold Dev.unhead
  extract_lets f1 y2
  exact .set_fmm rfl .refl

theorem Dev.health_keeps {d : Dev} {off : Nat} {n : Nat} :
    Keeps [.fmm] d (Dev.health d off n) :=
  .set_fmm rfl .refl

theorem Dev.stage_keeps {d : Dev} {loc : Nat} {grains : Nat} {head : Nat} {session : Nat} {arrival : Nat} {through : optParam Bool false} :
    Keeps [.fmm] d (Dev.stage d loc grains head session arrival through) :=
  .set_fmm rfl .refl

theorem Dev.modHead_keeps {d : Dev} {h : Nat} {f : Head → Head} :
    Keeps [.fmm] d (Dev.modHead d h f) :=
  .ite (.set_fmm rfl .refl) .refl

theorem Dev.setBushel_keeps {d : Dev} {b : Nat} {x : Bushel} :
    Keeps [.fmm] d (Dev.setBushel d b x) :=
  .set_fmm rfl .refl

theorem Dev.modBushel_keeps {d : Dev} {b : Nat} {f : Bushel → Bushel} :
    Keeps [.fmm] d (Dev.modBushel d b f) :=
  Dev.setBushel_keeps.step rfl .refl

theorem Dev.closeBushel_keeps {d : Dev} {b : Nat} :
    Keeps [.fmm] d (Dev.closeBushel d b) :=
  Dev.unhead_keeps.step rfl (Dev.modBushel_keeps.step rfl .refl)

theorem Dev.startColl_keeps {d : Dev} {b : Nat} {k : CollKind} :
    Keeps [.fmm] d (Dev.startColl d b k) := by
  unfold Dev.startColl
  extract_lets items1 d2 y3
  have h4 : Keeps [.fmm] d d2 := Dev.modBushel_keeps.step rfl .refl
  exact .set_fmm rfl h4

theorem Dev.setPin_keeps {d : Dev} {b : Nat} {pin : Nat} :
    Keeps [.fmm] d (Dev.setPin d b pin) :=
  Dev.modBushel_keeps.step rfl .refl

theorem Dev.fill_keeps {d : Dev} {b : Nat} {upTo : Nat} :
    Keeps [.regs, .fmm] d (Dev.fill d b upTo) := by
  unfold Dev.fill
  extract_lets w1 d2 y3
  have h4 : Keeps [.regs, .fmm] d d2 := Dev.modBushel_keeps.step rfl .refl
  exact .ite (Dev.health_keeps.step rfl (Dev.count_keeps.step rfl (.set_fmm rfl h4))) .refl

theorem Dev.foldEnd_keeps {d : Dev} :
    Keeps [.regs, .evj, .fmm] d (Dev.foldEnd d) := by
  unfold Dev.foldEnd
  split
  · exact .refl
  · exact .ite .refl (Dev.log_keeps.step rfl (Dev.raise_keeps.step rfl (.set_fmm rfl .refl)))

theorem Dev.place_keeps {m : List Part} {d0 d : Dev} {h n : Nat} {f : Dev → Option (Nat × Dev)}
    (c : covers m [.regs, .fmm] = true) (hf : ∀ y, KeepsO m y (fun r => r.2) (f y)) (hd : Keeps m d0 d) :
    KeepsO m d0 (fun r => r.2) (d.place h n f) := by
  unfold Dev.place
  extract_lets take fresh
  have ht : ∀ y b, Keeps m d0 y → KeepsO m d0 (fun r => r.2) (take y b) := by
    intro y b hy
    unfold take
    refine .some ?_
    dsimp only
    exact Dev.modBushel_keeps.step (covers_trans c rfl) hy
  have hn : ∀ y, Keeps m d0 y → KeepsO m d0 (fun r => r.2) (fresh y) := by
    intro y hy
    unfold fresh
    split
    · exact .none
    next b e z => exact ht _ _ (Dev.modHead_keeps.step (covers_trans c rfl) ((hf y _ z).step (covers_self m) hy))
  split
  · exact hn d hd
  · extract_lets x
    split
    · exact ht d _ hd
    · exact hn _ (Dev.closeBushel_keeps.step (covers_trans c rfl) (Dev.fill_keeps.step (covers_trans c rfl) hd))

theorem Dev.checkExhausted_keeps {d : Dev} :
    Keeps [.regs, .evj, .fmm] d (Dev.checkExhausted d) := by
  unfold Dev.checkExhausted
  extract_lets noSpares1 hit2 y3 d4
  have h5 : Keeps [.regs, .evj, .fmm] d d4 := Dev.raise_keeps.step rfl (.set_fmm rfl .refl)
  exact .ite .refl (.ite (Dev.log_keeps.step rfl (Dev.log_keeps.step rfl h5)) .refl)

theorem Dev.useSpare_keeps {d : Dev} {b : Nat} {die : Nat} :
    Keeps [.regs, .evj, .fmm] d (Dev.useSpare d b die) := by
  unfold Dev.useSpare
  extract_lets used1 y2 d3
  have h4 : Keeps [.regs, .evj, .fmm] d d3 := .set_fmm rfl .refl
  exact .ite (Dev.log_keeps.step rfl (Dev.raise_keeps.step rfl h4)) h4

theorem Dev.floorEnter_keeps {d : Dev} :
    Keeps [.regs, .evj, .fmm] d (Dev.floorEnter d) := by
  unfold Dev.floorEnter
  extract_lets lvl1 y2 d3 d4
  have h5 : Keeps [.regs, .evj, .fmm] d d3 := .set_fmm rfl .refl
  have h6 : Keeps [.regs, .evj, .fmm] d d4 := Dev.log_keeps.step rfl (Dev.raise_keeps.step rfl h5)
  exact .ite (.ite (Dev.log_keeps.step rfl (Dev.raise_keeps.step rfl h6)) h6) .refl

theorem Dev.nextColl_keeps {d : Dev} :
    Keeps [.regs, .evj, .fmm] d (Dev.nextColl d) := by
  unfold Dev.nextColl
  split
  · exact .refl
  · extract_lets d1 d2 flagged3
    have h4 : Keeps [.regs, .evj, .fmm] d d1 := by
      unfold d1
      split
      · split
        · exact Dev.startColl_keeps.step rfl .refl
        · exact .refl
      · exact .refl
    have h5 : Keeps [.regs, .evj, .fmm] d d2 := Dev.foldEnd_keeps.step rfl h4
    split
    · exact h5
    · split
      · exact Dev.startColl_keeps.step rfl h5
      · split
        · exact Dev.startColl_keeps.step rfl h5
        · split
          · exact h5
          · split
            · exact Dev.startColl_keeps.step rfl h5
            · exact h5

theorem Dev.floorLeave_keeps {d : Dev} :
    Keeps [.regs, .evj, .fmm] d (Dev.floorLeave d) := by
  unfold Dev.floorLeave
  extract_lets lvl1 y2
  exact .ite (Dev.log_keeps.step rfl (.set_fmm rfl .refl)) .refl

theorem Dev.floors_keeps {d : Dev} :
    Keeps [.regs, .evj, .fmm] d (Dev.floors d) :=
  Dev.floorLeave_keeps.step rfl (Dev.floorLeave_keeps.step rfl (Dev.floorLeave_keeps.step rfl (Dev.floorEnter_keeps.step rfl (Dev.floorEnter_keeps.step rfl (Dev.floorEnter_keeps.step rfl .refl)))))

theorem Dev.retireBlock_keeps {d : Dev} {b : Nat} {die : Nat} :
    Keeps [.regs, .evj, .fmm] d (Dev.retireBlock d b die) := by
  unfold Dev.retireBlock
  extract_lets x1 y2 d3
  have h4 : Keeps [.regs, .evj, .fmm] d d3 := .set_fmm rfl .refl
  exact .ite .refl (.ite (Dev.checkExhausted_keeps.step rfl (Dev.useSpare_keeps.step rfl .refl)) (.ite (Dev.checkExhausted_keeps.step rfl (Dev.log_keeps.step rfl (Dev.modBushel_keeps.step rfl h4))) (Dev.floors_keeps.step rfl (Dev.checkExhausted_keeps.step rfl (Dev.log_keeps.step rfl (Dev.modBushel_keeps.step rfl .refl))))))

theorem Dev.release_keeps {d : Dev} {b : Nat} :
    Keeps [.regs, .evj, .fmm, .cap] d (Dev.release d b) := by
  unfold Dev.release
  extract_lets x1 mine2 y3 y4 d5 d6 d7
  have h8 : Keeps [.regs, .evj, .fmm, .cap] d d5 := .upd (fun p hp => by cases p <;> first | exact absurd hp (by decide) | rfl) .refl
  have h9 : Keeps [.regs, .evj, .fmm, .cap] d d6 := Dev.unhead_keeps.step rfl h8
  have h10 : Keeps [.regs, .evj, .fmm, .cap] d d7 := Dev.modBushel_keeps.step rfl h9
  exact Dev.floors_keeps.step rfl (.foldl (fun _ _ => (.ite .refl (Dev.retireBlock_keeps.step rfl .refl))) h10)

theorem Dev.maybeRelease_keeps {d : Dev} {b : Nat} :
    Keeps [.regs, .evj, .fmm, .cap] d (Dev.maybeRelease d b) := by
  unfold Dev.maybeRelease
  extract_lets x1
  exact .ite (Dev.release_keeps.step rfl .refl) .refl

theorem Dev.takeFree_keeps {high : Bool} {n : Nat} {d : Dev} :
    KeepsO [.regs, .evj, .fmm] d (fun r => r.2) (Dev.takeFree high n d) := by
  induction n generalizing d with
  | zero => unfold Dev.takeFree; exact .none
  | succ n ih =>
    unfold Dev.takeFree
    split
    · exact .none
    extract_lets e
    have he : Keeps [.regs, .evj, .fmm] d e := .foldl (fun _ _ => .ite .refl (Dev.retireBlock_keeps.step rfl .refl)) .refl
    split
    · exact fun r hr => (ih r hr).step (covers_self _) he
    · exact .some he

theorem Dev.invalidate_keeps {d : Dev} {loc : Nat} {grains : Nat} :
    Keeps [.regs, .evj, .fmm, .cap] d (Dev.invalidate d loc grains) := by
  unfold Dev.invalidate
  extract_lets b1
  exact .ite .refl (Dev.maybeRelease_keeps.step rfl (Dev.modBushel_keeps.step rfl .refl))

theorem Dev.openBushel_keeps {d : Dev} {head : Nat} {mode : Nat} {area : Nat} {ns : Nat} {high : Bool} :
    KeepsO [.regs, .evj, .fmm] d (fun r => r.2) (Dev.openBushel d head mode area ns high) := by
  unfold Dev.openBushel
  split
  · exact .none
  next z1 z2 z3 z4 =>
    extract_lets d5 y6 d7
    have h8 : Keeps [.regs, .evj, .fmm] d d5 := Dev.modBushel_keeps.step rfl ((Dev.takeFree_keeps _ z4).step rfl .refl)
    have h9 : Keeps [.regs, .evj, .fmm] d d7 := .set_fmm rfl h8
    refine .some ?_
    dsimp only
    exact Dev.floors_keeps.step rfl (Dev.count_keeps.step rfl h9)

theorem Dev.invalidateValue_keeps {d : Dev} {loc : Nat} :
    Keeps [.regs, .evj, .fmm, .cap] d (Dev.invalidateValue d loc) := by
  unfold Dev.invalidateValue
  split
  · exact Dev.invalidate_keeps.step rfl (.set_fmm rfl .refl)
  · exact .refl

theorem Dev.openFor_keeps {d : Dev} {head : Nat} {must : Bool} {entry : Bool} :
    KeepsO [.regs, .evj, .fmm] d (fun r => r.2) (Dev.openFor d head must entry) := by
  unfold Dev.openFor
  split
  · exact .none
  · split
    · split
      · split
        · exact .none
        · split
          · exact fun _ h => (Dev.openBushel_keeps _ h).step rfl .refl
          · exact .none
    · split
      · split
        · split
          · exact fun _ h => (Dev.openBushel_keeps _ h).step rfl .refl
          · exact .none
        · split
          · exact fun _ h => (Dev.openBushel_keeps _ h).step rfl .refl
          · exact .none
      · split
        · split
          · exact fun _ h => (Dev.openBushel_keeps _ h).step rfl .refl
          · exact .none
        · split
          · exact fun _ h => (Dev.openBushel_keeps _ h).step rfl .refl
          · exact .none

theorem Dev.keysLatch_keeps {d : Dev} :
    Keeps [.idx] d (Dev.keysLatch d) :=
  .ite (.set_idx rfl .refl) .refl

theorem Dev.idxBegin_keeps {d : Dev} {state : IdxState} {cause : Nat} :
    Keeps [.idx] d (Dev.idxBegin d state cause) :=
  .set_idx rfl .refl

theorem Dev.startSweep_keeps {d : Dev} :
    Keeps [.nss, .idx] d (Dev.startSweep d) := by
  unfold Dev.startSweep
  split
  · exact .refl
  · split
    · exact .refl
    · extract_lets start1 y2
      exact .upd (fun p hp => by cases p <;> first | exact absurd hp (by decide) | rfl) .refl

theorem Dev.rescanAdd_keeps {d : Dev} {p : Nat × Value} :
    Keeps [.idx] d (Dev.rescanAdd d p) := by
  unfold Dev.rescanAdd
  extract_lets seg1 pl2 e3 y4
  split
  · exact .refl
  · extract_lets x5
    exact .set_idx rfl .refl

theorem Dev.holdIndex_keeps {d : Dev} :
    Keeps [.regs, .idx] d (Dev.holdIndex d) :=
  .ite .refl (Dev.raise_keeps.step rfl (.set_idx rfl .refl))

theorem Dev.sealGroup_keeps {d : Dev} {b : Nat} :
    Keeps [.regs, .fmm] d (Dev.sealGroup d b) := by
  unfold Dev.sealGroup
  extract_lets x1 d2 d3 x'4 d5
  have h6 : Keeps [.regs, .fmm] d d2 := Dev.fill_keeps.step rfl .refl
  have h7 : Keeps [.regs, .fmm] d d3 := Dev.modBushel_keeps.step rfl h6
  have h8 : Keeps [.regs, .fmm] d d5 := Dev.health_keeps.step rfl h7
  exact .ite (Dev.closeBushel_keeps.step rfl h8) h8

theorem Dev.keysFull_keeps {d : Dev} {ns : Nat} :
    Keeps [.regs, .evj, .idx] d (Dev.keysFull d ns) := by
  unfold Dev.keysFull
  extract_lets d1 y2
  have h3 : Keeps [.regs, .evj, .idx] d d1 := Dev.raise_keeps.step rfl .refl
  exact .ite h3 (Dev.log_keeps.step rfl (.set_idx rfl h3))

theorem Dev.idxLoad_keeps {d : Dev} {pages : MediaReads} {blocks : MediaReads} :
    Keeps [.regs, .evj, .idx, .fmm] d (Dev.idxLoad d pages blocks).2 := by
  unfold Dev.idxLoad
  extract_lets badPages1 badBlocks2 units3 y4
  split
  · extract_lets copies5 stale6 d7 d8 d9 d10
    have h11 : Keeps [.regs, .evj, .idx, .fmm] d d7 := .upd (fun p hp => by cases p <;> first | exact absurd hp (by decide) | rfl) .refl
    have h12 : Keeps [.regs, .evj, .idx, .fmm] d d8 := .foldl (fun _ _ => (Dev.log_keeps.step rfl (Dev.raise_keeps.step rfl .refl))) h11
    have h13 : Keeps [.regs, .evj, .idx, .fmm] d d9 := Dev.countN_keeps.step rfl h12
    have h14 : Keeps [.regs, .evj, .idx, .fmm] d d10 := .foldl (fun _ _ => (Dev.log_keeps.step rfl (Dev.raise_keeps.step rfl .refl))) h13
    dsimp only
    exact Dev.raise_keeps.step rfl h14

theorem Dev.idxStart_keeps {d : Dev} {pages : MediaReads} {blocks : MediaReads} :
    Keeps [.regs, .evj, .idx, .fmm] d (Dev.idxStart d pages blocks) := by
  unfold Dev.idxStart
  split
  next z1 z2 z3 z4 =>
    exact Dev.log_keeps.step rfl ((Dev.idxLoad_keeps.snd z4).step rfl .refl)

theorem Dev.idxRebuilt_keeps {d : Dev} :
    Keeps [.regs, .evj] d (Dev.idxRebuilt d) :=
  Dev.log_keeps.step rfl .refl

theorem Dev.pairFull_keeps {d : Dev} {ns : Nat} {p : Place} :
    Keeps [.regs, .evj] d (Dev.pairFull d ns p) :=
  Dev.log_keeps.step rfl (Dev.raise_keeps.step rfl (Dev.count_keeps.step rfl .refl))

theorem Dev.cpRelease_keeps {d : Dev} :
    Keeps [.regs, .evj, .idx, .fmm, .cap] d (Dev.cpRelease d) := by
  unfold Dev.cpRelease
  extract_lets idle1 gone2 y3 d4
  have h5 : Keeps [.regs, .evj, .idx, .fmm, .cap] d d4 := .set_idx rfl .refl
  exact .foldl (fun _ _ => (Dev.release_keeps.step rfl .refl)) h5

theorem Dev.reportHeaders_keeps {d : Dev} {bad : List (Nat × Nat)} :
    Keeps [.regs, .rates, .evj] d (Dev.reportHeaders d bad) :=
  .foldl (fun _ _ => (Dev.logLimited_keeps.step rfl (Dev.raise_keeps.step rfl (Dev.count_keeps.step rfl .refl)))) .refl

theorem Dev.countLook_keeps {d : Dev} {l : Look} :
    Keeps [.regs, .rates, .evj] d (Dev.countLook d l) :=
  Dev.reportHeaders_keeps.step rfl (Dev.countN_keeps.step rfl (Dev.countN_keeps.step rfl (Dev.count_keeps.step rfl .refl)))

theorem Dev.dropDeltaBlocks_keeps {d : Dev} {was : Nat} {now : Nat} :
    Keeps [.regs, .evj, .fmm, .cap] d (Dev.dropDeltaBlocks d was now) := by
  unfold Dev.dropDeltaBlocks
  extract_lets gone1
  exact .foldl (fun _ _ => (Dev.invalidate_keeps.step rfl .refl)) .refl

theorem Dev.lookFor_keeps {d : Dev} {w : Want} :
    Keeps [.regs, .rates, .evj] d (Dev.lookFor d w).2 := by
  unfold Dev.lookFor
  extract_lets l1
  dsimp only
  exact Dev.countLook_keeps.step rfl .refl

theorem Dev.putPages_keeps {n : List CpPage} {d : Dev} :
    KeepsO [.regs, .evj, .idx, .fmm] d (fun r => r) (Dev.putPages n d) := by
  induction n generalizing d with
  | nil => unfold Dev.putPages; exact .some .refl
  | cons p r ih =>
    unfold Dev.putPages
    split
    · exact .none
    next loc e z =>
      have he : Keeps [.regs, .evj, .idx, .fmm] d e := Dev.place_keeps rfl (fun _ _ h => (Dev.openFor_keeps _ h).step rfl .refl) .refl _ z
      exact fun _ h => (ih _ h).step rfl (.set_idx rfl he)

theorem Dev.deltaBlock_keeps {d : Dev} {h : Nat} {session : Nat} {arrival : Nat} :
    Keeps [.regs, .evj, .fmm] d (Dev.deltaBlock d h session arrival).2 := by
  unfold Dev.deltaBlock
  extract_lets n1
  split
  · dsimp only
    exact Dev.stage_keeps.step rfl .refl
  · split
    · dsimp only
      exact .refl
    next z2 z3 z4 z5 =>
      extract_lets d6 y7 d8
      have h9 : Keeps [.regs, .evj, .fmm] d d6 := by
        unfold d6
        refine Dev.modHead_keeps.step rfl ?_
        refine Dev.place_keeps rfl (fun x10 => ?_) ?_ _ z5
        · exact fun _ h => (Dev.openFor_keeps _ h).step rfl .refl
        · exact .refl
      have h11 : Keeps [.regs, .evj, .fmm] d d8 := .set_fmm rfl h9
      dsimp only
      exact Dev.stage_keeps.step rfl h11

theorem Dev.delta_keeps {d : Dev} {h : Nat} {session : Nat} {arrival : Nat} {set : Bool} {k : Nat} {ns : Nat} {version : Nat} {e : IdxEntry} {old : Nat} :
    Keeps [.regs, .evj, .idx, .fmm] d (Dev.delta d h session arrival set k ns version e old) := by
  unfold Dev.delta
  extract_lets pos1 u2
  split
  next z3 z4 z5 z6 =>
    exact .set_idx rfl ((Dev.deltaBlock_keeps.snd z6).step rfl .refl)

theorem Dev.idxReplace_keeps {d : Dev} {a : Author} {k : Nat} {e : IdxEntry} {ns : Nat} {version : Nat} {loc : Nat} :
    Keeps [.regs, .evj, .idx, .fmm, .cap] d (Dev.idxReplace d a k e ns version loc) := by
  unfold Dev.idxReplace
  extract_lets e'1 y2 d3
  have h4 : Keeps [.regs, .evj, .idx, .fmm, .cap] d d3 := .set_idx rfl .refl
  exact Dev.invalidateValue_keeps.step rfl (Dev.count_keeps.step rfl (Dev.delta_keeps.step rfl h4))

theorem Dev.idxInsert_keeps {d : Dev} {a : Author} {k : Nat} {ns : Nat} {e : IdxEntry} {version : Nat} :
    Keeps [.regs, .evj, .idx, .fmm] d (Dev.idxInsert d a k ns e version) := by
  unfold Dev.idxInsert
  extract_lets y1 d2
  have h3 : Keeps [.regs, .evj, .idx, .fmm] d d2 := .set_idx rfl .refl
  exact Dev.count_keeps.step rfl (Dev.delta_keeps.step rfl h3)

theorem Dev.writePages_keeps {d : Dev} {ps : List CpPage} :
    KeepsO [.regs, .evj, .idx, .fmm] d (fun r => r) (Dev.writePages d ps) := by
  unfold Dev.writePages
  split
  · exact .none
  intro r hr
  rw [Option.map_eq_some_iff] at hr
  obtain ⟨x, hx, rfl⟩ := hr
  exact .foldl (fun _ _ => Dev.sealGroup_keeps.step rfl .refl) ((Dev.putPages_keeps _ hx).step rfl .refl)

theorem Dev.idxRemove_keeps {d : Dev} {a : Author} {k : Nat} {ns : Nat} {version : Nat} :
    Keeps [.regs, .evj, .idx, .fmm, .cap] d (Dev.idxRemove d a k ns version) := by
  unfold Dev.idxRemove
  split
  · exact .refl
  · extract_lets y1 d2
    have h3 : Keeps [.regs, .evj, .idx, .fmm, .cap] d d2 := .set_idx rfl .refl
    exact Dev.invalidateValue_keeps.step rfl (Dev.keysLatch_keeps.step rfl (Dev.count_keeps.step rfl (Dev.delta_keeps.step rfl h3)))

theorem Dev.cpCopy_keeps {d : Dev} :
    Keeps [.regs, .evj, .idx, .fmm] d (Dev.cpCopy d) := by
  unfold Dev.cpCopy
  split
  · exact .refl
  · split
    · exact .refl
    next z1 z2 z3 =>
      exact .set_idx rfl ((Dev.writePages_keeps _ z3).step rfl .refl)

theorem Dev.cpCommit_keeps {d : Dev} {r : CpRun} :
    KeepsO [.regs, .evj, .idx, .fmm, .cap] d (fun r => r) (Dev.cpCommit d r) := by
  unfold Dev.cpCommit
  extract_lets last
  intro a ha
  rw [Option.map_eq_some_iff] at ha
  obtain ⟨e, he, rfl⟩ := ha
  have h1 : Keeps [.regs, .evj, .idx, .fmm, .cap] d e := (Dev.writePages_keeps _ he).step rfl .refl
  clear he
  dsimp only
  split
  · exact Dev.log_keeps.step rfl (Dev.count_keeps.step rfl (Dev.cpRelease_keeps.step rfl
      (Dev.dropDeltaBlocks_keeps.step rfl (.set_idx rfl h1))))
  · exact Dev.log_keeps.step rfl (Dev.countN_keeps.step rfl (Dev.log_keeps.step rfl (Dev.count_keeps.step rfl
      (Dev.cpRelease_keeps.step rfl (Dev.dropDeltaBlocks_keeps.step rfl (.set_idx rfl h1))))))

theorem Dev.cpBegin_keeps {d : Dev} :
    Keeps [.regs, .evj, .idx, .fmm] d (Dev.cpBegin d) := by
  unfold Dev.cpBegin
  extract_lets extra1 page2 y3
  exact Dev.cpCopy_keeps.step rfl (.set_idx rfl .refl)

theorem Dev.rescan_keeps {d : Dev} :
    KeepsO [.regs, .evj, .idx, .fmm, .cap] d (fun r => r) (Dev.rescan d) := by
  unfold Dev.rescan
  extract_lets _ d1 d2 page
  have h2 : Keeps [.regs, .evj, .idx, .fmm, .cap] d d2 := .foldl (fun _ _ => Dev.rescanAdd_keeps.step rfl .refl) (.set_idx rfl .refl)
  clear_value d2
  intro a ha
  rw [Option.map_eq_some_iff] at ha
  obtain ⟨e, he, rfl⟩ := ha
  exact Dev.raise_keeps.step rfl (.set_idx rfl ((Dev.cpCommit_keeps _ he).step rfl h2))

theorem Dev.purgeEntry_keeps {d : Dev} {k : Nat} {ns : Nat} {e : IdxEntry} :
    Keeps [.regs, .evj, .idx, .fmm, .cap] d (Dev.purgeEntry d k ns e) := by
  unfold Dev.purgeEntry
  extract_lets version1
  exact Dev.count_keeps.step rfl (Dev.idxRemove_keeps.step rfl .refl)

theorem Dev.sweepSome_keeps {ns : Nat} {n : List (Nat × IdxEntry)} {m : Nat} {d : Dev} :
    Keeps [.regs, .evj, .idx, .fmm, .cap] d (Dev.sweepSome ns n m d).2.2 := by
  induction n generalizing ns m d with
  | nil =>
    unfold Dev.sweepSome
    dsimp only
    exact .refl
  | cons x1 l1 ih =>
    unfold Dev.sweepSome
    split
    · exact ih.step rfl (Dev.purgeEntry_keeps.step rfl .refl)
    · dsimp only
      exact .refl

theorem Dev.sweepUnits_keeps {d : Dev} {ns : Nat} {from_ : Nat} {upTo : Nat} :
    Keeps [.regs, .evj, .idx, .fmm, .cap] d (Dev.sweepUnits d ns from_ upTo) := by
  unfold Dev.sweepUnits
  extract_lets hits
  have hs := Dev.sweepSome_keeps (ns := ns) (n := hits) (m := 0) (d := d)
  split
  next n left e hz =>
  rw [hz] at hs
  exact .set_idx rfl (hs.step rfl .refl)

theorem Dev.modWrite_keeps {d : Dev} {ctx : Nat} {g : WriteJob → WriteJob} :
    Keeps [.cqe] d (Dev.modWrite d ctx g) :=
  Dev.modFlight_keeps.step rfl .refl

theorem Dev.takeLane_keeps {d : Dev} {h : EngineHold} {e : Nat} :
    Keeps [.vpl] d (Dev.takeLane d h e) :=
  .set_vpl rfl .refl

theorem Dev.cleanEngines_keeps {d : Dev} :
    Keeps [.vpl, .fmm] d (Dev.cleanEngines d) :=
  .upd (fun p hp => by cases p <;> first | exact absurd hp (by decide) | rfl) .refl

theorem Dev.assignDz_keeps {d : Dev} {h : EngineHold} :
    Keeps [.vpl] d (Dev.assignDz d h) := by
  unfold Dev.assignDz
  split
  · exact .set_vpl rfl .refl
  · exact .refl

theorem Dev.holdOnly_keeps {d : Dev} {ctx : Nat} {segs : List ReadSeg} :
    Keeps [.vpl] d (Dev.holdOnly d ctx segs) :=
  .set_vpl rfl .refl

theorem Dev.countReads_keeps {d : Dev} {b : Nat} {n : Nat} :
    Keeps [.fmm] d (Dev.countReads d b n) :=
  Dev.modBushel_keeps.step rfl .refl

theorem Dev.reportExhausted_keeps {d : Dev} :
    Keeps [.regs, .evj, .vpl] d (Dev.reportExhausted d) :=
  .ite .refl (Dev.log_keeps.step rfl (Dev.raise_keeps.step rfl (.set_vpl rfl .refl)))

theorem Dev.warnCtr_keeps {d : Dev} {level : Nat} {v : Nat} {at_ : Nat} :
    Keeps [.regs, .evj, .vpl] d (Dev.warnCtr d level v at_) :=
  .ite (Dev.log_keeps.step rfl (Dev.raise_keeps.step rfl (.set_vpl rfl .refl))) .refl

theorem Dev.drawCtr_keeps {d : Dev} :
    Keeps [.regs, .evj, .vpl] d (Dev.drawCtr d).2 := by
  unfold Dev.drawCtr
  extract_lets v1 res2 y3 d4 d5
  have h6 : Keeps [.regs, .evj, .vpl] d d4 := .set_vpl rfl .refl
  have h7 : Keeps [.regs, .evj, .vpl] d d5 := Dev.warnCtr_keeps.step rfl (Dev.warnCtr_keeps.step rfl h6)
  split
  · dsimp only
    exact Dev.reportExhausted_keeps.step rfl .refl
  · dsimp only
    exact .ite (Dev.reportExhausted_keeps.step rfl h7) h7

theorem Dev.noteRead_keeps {d : Dev} {b : Nat} {r : MediaRead} :
    Keeps [.regs, .rates, .evj, .fmm] d (Dev.noteRead d b r) := by
  unfold Dev.noteRead
  split
  · exact Dev.health_keeps.step rfl (Dev.count_keeps.step rfl (Dev.modBushel_keeps.step rfl .refl))
  · extract_lets d1
    have h2 : Keeps [.regs, .rates, .evj, .fmm] d d1 := Dev.modBushel_keeps.step rfl .refl
    exact Dev.logLimited_keeps.step rfl (Dev.health_keeps.step rfl (Dev.count_keeps.step rfl h2))
  · exact .refl

theorem Dev.reportCheck_keeps {d : Dev} {loc : Nat} {v : Value} {k : Nat} {c : SegCheck} :
    Keeps [.regs, .rates, .evj, .fmm] d (Dev.reportCheck d loc v k c) := by
  unfold Dev.reportCheck
  extract_lets k1 fail2
  split
  · exact Dev.logLimited_keeps.step rfl (Dev.raise_keeps.step rfl (Dev.count_keeps.step rfl .refl))
  · exact Dev.logLimited_keeps.step rfl (Dev.raise_keeps.step rfl (Dev.count_keeps.step rfl .refl))
  · exact Dev.logLimited_keeps.step rfl (Dev.raise_keeps.step rfl (Dev.count_keeps.step rfl .refl))
  · exact Dev.logLimited_keeps.step rfl (Dev.raise_keeps.step rfl (Dev.count_keeps.step rfl .refl))
  · exact Dev.logLimited_keeps.step rfl (Dev.raise_keeps.step rfl (Dev.health_keeps.step rfl (Dev.count_keeps.step rfl .refl)))
  · exact .refl

theorem Dev.strand_keeps {d : Dev} {w : WriteJob} :
    Keeps [.regs, .evj, .fmm] d (Dev.strand d w) := by
  unfold Dev.strand
  extract_lets n1 ns2 furlong3 h4
  split
  · exact .refl
  · split
    · exact .refl
    next z5 z6 z7 z8 =>
      refine Dev.modBushel_keeps.step rfl ?_
      refine Dev.place_keeps rfl (fun x9 => ?_) ?_ _ z8
      · split
        · exact .none
        · exact fun _ h => (Dev.openFor_keeps _ h).step rfl .refl
      · exact .refl

theorem Dev.failWrite_keeps {d : Dev} {ctx : Nat} {status : Nat} {version : Nat} {detail : Nat} :
    Keeps [.regs, .evj, .ports, .sess, .cqe, .vpl, .fmm] d (Dev.failWrite d ctx status version detail) := by
  unfold Dev.failWrite
  extract_lets job1 segs2 d3 y4 d5 d6
  have h7 : Keeps [.regs, .evj, .ports, .sess, .cqe, .vpl, .fmm] d d3 := by
    unfold d3
    clear_value job1
    split
    · exact Dev.strand_keeps.step rfl .refl
    · exact .refl
  have h8 : Keeps [.regs, .evj, .ports, .sess, .cqe, .vpl, .fmm] d d5 := .upd (fun p hp => by cases p <;> first | exact absurd hp (by decide) | rfl) h7
  have h9 : Keeps [.regs, .evj, .ports, .sess, .cqe, .vpl, .fmm] d d6 := Dev.countN_keeps.step rfl h8
  split
  · exact Dev.finishOk_keeps.step rfl h9
  · exact Dev.finish_keeps.step rfl h9

theorem Dev.assignAe_keeps {d : Dev} {h : EngineHold} :
    Keeps [.regs, .evj, .ports, .sess, .cqe, .vpl, .fmm] d (Dev.assignAe d h) := by
  unfold Dev.assignAe
  extract_lets seals1
  split
  · exact .refl
  · exact .ite (Dev.failWrite_keeps.step rfl .refl) .refl
  · exact .refl
  · split
    · exact Dev.takeLane_keeps.step rfl .refl
    · split
      next z2 z3 z4 =>
        exact Dev.failWrite_keeps.step rfl ((Dev.drawCtr_keeps.snd z4).step rfl .refl)
      next z5 z6 z7 z8 =>
        exact Dev.modWrite_keeps.step rfl (Dev.takeLane_keeps.step rfl ((Dev.drawCtr_keeps.snd z8).step rfl .refl))

theorem Dev.assignCz_keeps {d : Dev} {h : EngineHold} :
    Keeps [.regs, .evj, .ports, .sess, .cqe, .vpl, .fmm] d (Dev.assignCz d h) := by
  unfold Dev.assignCz
  split
  · exact .refl
  · split
    · exact .refl
    · split
      · exact Dev.count_keeps.step rfl (Dev.modWrite_keeps.step rfl .refl)
      · split
        · exact Dev.failWrite_keeps.step rfl .refl
        · split
          · exact .refl
          · extract_lets y1 d2
            have h3 : Keeps [.regs, .evj, .ports, .sess, .cqe, .vpl, .fmm] d d2 := .set_vpl rfl .refl
            exact Dev.modWrite_keeps.step rfl h3

theorem Dev.assign_keeps {d : Dev} :
    Keeps [.regs, .evj, .ports, .sess, .cqe, .vpl, .fmm] d (Dev.assign d) := by
  unfold Dev.assign
  extract_lets d1 d2
  have h3 : Keeps [.regs, .evj, .ports, .sess, .cqe, .vpl, .fmm] d d1 := by
    unfold d1
    refine .foldl (fun y4 a5 => ?_) ?_
    · exact Dev.assignCz_keeps.step rfl .refl
    · exact .refl
  have h6 : Keeps [.regs, .evj, .ports, .sess, .cqe, .vpl, .fmm] d d2 := by
    unfold d2
    refine .foldl (fun y7 a8 => ?_) ?_
    · exact Dev.assignAe_keeps.step rfl .refl
    · exact h3
  refine .foldl (fun y9 a10 => ?_) ?_
  · exact Dev.assignDz_keeps.step rfl .refl
  · exact h6

theorem Dev.noteCommit_keeps {d : Dev} {ns : Nat} {version : Nat} {key : Option KeyGen} :
    Keeps [.nss] d (Dev.noteCommit d ns version key) :=
  .set_nss rfl .refl

theorem Dev.setLedger_keeps {d : Dev} {ns : Nat} {l : Ledger} :
    Keeps [.cap] d (Dev.setLedger d ns l) :=
  .set_cap rfl .refl

theorem Dev.useFreed_keeps {d : Dev} {n : Nat} :
    Keeps [.fmm] d (Dev.useFreed d n) :=
  .set_fmm rfl .refl

theorem Dev.noteExtent_keeps {d : Dev} {b : Nat} {ns : Nat} {stream : Nat} {grain : Nat} {time : Nat} :
    Keeps [.fmm, .cap] d (Dev.noteExtent d b ns stream grain time) := by
  unfold Dev.noteExtent
  extract_lets k1 e2 y3 d4
  have h5 : Keeps [.fmm, .cap] d d4 := .set_cap rfl .refl
  exact Dev.modBushel_keeps.step rfl h5

theorem Dev.furlongHead_keeps {d : Dev} {ns : Nat} :
    Keeps [.regs, .fmm] d (Dev.furlongHead d ns).2 := by
  unfold Dev.furlongHead
  extract_lets h1 d2 parked3 d4
  have h5 : Keeps [.regs, .fmm] d d2 := by
    unfold d2
    split
    · exact Dev.count_keeps.step rfl (Dev.modBushel_keeps.step rfl .refl)
    · exact .refl
  have h6 : Keeps [.regs, .fmm] d d4 := Dev.modHead_keeps.step rfl h5
  split
  · dsimp only
    exact .refl
  · clear_value parked3
    split
    · dsimp only
      exact Dev.modBushel_keeps.step rfl h6
    · dsimp only
      exact h6

theorem Dev.refuseRefill_keeps {d : Dev} {ns : Nat} :
    Keeps [.regs, .evj, .cap] d (Dev.refuseRefill d ns) :=
  .ite .refl (Dev.log_keeps.step rfl (.set_cap rfl .refl))

theorem Dev.chainLevel_keeps {d : Dev} :
    Keeps [.regs, .evj, .cap] d (Dev.chainLevel d) := by
  unfold Dev.chainLevel
  extract_lets used1 y2
  exact .ite (Dev.log_keeps.step rfl (Dev.raise_keeps.step rfl (.set_cap rfl .refl))) (.ite (.set_cap rfl .refl) .refl)

theorem Dev.placeValue_keeps {m : List Part} {d0 d : Dev} {h : Nat} {a : Author} {v : Value} {through : Bool}
    {f : Dev → Option (Nat × Dev)} (c : covers m [.regs, .fmm] = true)
    (hf : ∀ y, KeepsO m y (fun r => r.2) (f y)) (hd : Keeps m d0 d) :
    KeepsO m d0 (fun r => r.2) (d.placeValue h a v through f) := by
  unfold Dev.placeValue
  split
  · exact .none
  next loc e z =>
    have he := Dev.place_keeps (covers_trans c rfl) hf hd _ z
    refine .some ?_
    dsimp only
    exact (Dev.countN_keeps.step (covers_trans c rfl) (Dev.countN_keeps.step (covers_trans c rfl)
      (Dev.stage_keeps.step (covers_trans c rfl) (.set_fmm (Part.isIn_of c rfl) he))))

theorem Dev.reclaim_keeps {d : Dev} {ns : Nat} :
    KeepsO [.regs, .evj, .fmm, .cap] d (fun r => r) (Dev.reclaim d ns) := by
  unfold Dev.reclaim
  split
  · exact .none
  · refine .some ?_
    exact Dev.count_keeps.step rfl (Dev.release_keeps.step rfl .refl)

theorem Dev.reclaimTo_keeps {ns : Nat} {top : Nat} {n : Nat} {d : Dev} :
    Keeps [.regs, .evj, .fmm, .cap] d (Dev.reclaimTo ns top n d) := by
  induction n generalizing ns top d with
  | zero =>
    unfold Dev.reclaimTo
    exact .refl
  | succ n1 ih =>
    unfold Dev.reclaimTo
    split
    · exact .refl
    · split
      · exact .refl
      next z1 z2 z3 =>
        exact ih.step rfl ((Dev.reclaim_keeps _ z3).step rfl .refl)

theorem Dev.version_keeps {d : Dev} {enc : Bool} :
    KeepsE [.regs, .evj, .vpl] d (fun r => r.2) (Dev.version d enc) := by
  unfold Dev.version
  split
  next z1 z2 z3 z4 =>
    refine .ok ?_
    dsimp only
    exact (Dev.drawCtr_keeps.snd z4).step rfl .refl
  next z5 z6 z7 =>
    exact .error

theorem Dev.report_keeps {d : Dev} {r : Report} :
    Keeps [.regs, .rates, .evj, .idx, .vpl, .cap] d (Dev.report d r) := by
  unfold Dev.report
  split
  · exact .refl
  · exact Dev.refuseRefill_keeps.step rfl .refl
  · exact Dev.keysFull_keeps.step rfl .refl
  · exact Dev.pairFull_keeps.step rfl .refl
  · exact Dev.logLimited_keeps.step rfl (Dev.raise_keeps.step rfl .refl)
  · exact Dev.reportExhausted_keeps.step rfl .refl
  · extract_lets d1 l2 until_3 y4
    have h5 : Keeps [.regs, .rates, .evj, .idx, .vpl, .cap] d d1 := Dev.raise_keeps.step rfl .refl
    exact .ite h5 (Dev.log_keeps.step rfl (.set_cap rfl h5))

theorem Dev.openFurlong_keeps {d : Dev} {h : Nat} {ns : Nat} {cap : Nat} :
    KeepsO [.regs, .evj, .fmm, .cap] d (fun r => r.2) (Dev.openFurlong d h ns cap) := by
  unfold Dev.openFurlong
  split
  next mode area _ =>
    extract_lets need openIt e viaRing
    have he : Keeps [.regs, .evj, .fmm, .cap] d e := Dev.reclaimTo_keeps.step rfl .refl
    have ho : ∀ x, Keeps [.regs, .evj, .fmm, .cap] d x → KeepsO [.regs, .evj, .fmm, .cap] d (fun r => r.2) (openIt x) := by
      intro x hx
      unfold openIt
      split
      · exact .none
      · exact fun _ h => (Dev.openBushel_keeps _ h).step rfl hx
    have hv : ∀ x, Keeps [.regs, .evj, .fmm, .cap] d x → KeepsO [.regs, .evj, .fmm, .cap] d (fun r => r.2) (viaRing x) := by
      intro x hx
      unfold viaRing
      split
      · exact .none
      next y h => exact ho y ((Dev.reclaim_keeps _ h).step rfl hx)
    clear_value openIt viaRing
    split
    · split
      · exact ho _ (.set_cap rfl he)
      · exact hv _ (Dev.refuseRefill_keeps.step rfl he)
    split
    · exact hv _ he
    · exact ho _ he

theorem Dev.commitAppend_keeps {d : Dev} {a : Author} {o : WOp} {through : Bool} :
    KeepsE [.regs, .evj, .nss, .vpl, .fmm, .cap] d (fun r => r.2.2.2) (Dev.commitAppend d a o through) := by
  unfold Dev.commitAppend
  extract_lets stream1 st2 key3
  split
  · exact .error
  · split
    · exact .error
    next z4 z5 z6 z7 =>
      extract_lets y8 v9 fail10
      split
      · exact .error
      · split
        next z11 z12 z13 z14 =>
          split
          · exact .error
          · split
            · exact .error
            · extract_lets taken15 refused16 y17
              split
              · exact .error
              next z18 z19 z20 z21 =>
                extract_lets d'22 b23 d'24 y25 d'26
                have h27 : Keeps [.regs, .evj, .nss, .vpl, .fmm, .cap] d d'22 := by
                  unfold d'22
                  refine Dev.useFreed_keeps.step rfl ?_
                  refine Dev.placeValue_keeps rfl (fun x28 => ?_) ?_ _ z21
                  · exact fun _ h => (Dev.openFurlong_keeps _ h).step rfl .refl
                  · exact (Dev.furlongHead_keeps.snd z14).step rfl ((Dev.version_keeps _ z7).step rfl .refl)
                have h29 : Keeps [.regs, .evj, .nss, .vpl, .fmm, .cap] d d'24 := Dev.modHead_keeps.step rfl (Dev.noteExtent_keeps.step rfl h27)
                have h30 : Keeps [.regs, .evj, .nss, .vpl, .fmm, .cap] d d'26 := .set_cap rfl h29
                split
                · exact .error
                · refine .ok ?_
                  dsimp only
                  exact Dev.noteCommit_keeps.step rfl h30

theorem Dev.placeHot_keeps {d : Dev} {a : Author} {v : Value} {through : Bool} :
    KeepsE [.regs, .evj, .fmm] d (fun r => r.2) (Dev.placeHot d a v through) := by
  unfold Dev.placeHot
  split
  · exact .error
  · split
    · exact .error
    · extract_lets taken1
      split
      · exact .error
      next z2 z3 z4 z5 =>
        refine .ok ?_
        dsimp only
        refine Dev.useFreed_keeps.step rfl ?_
        refine Dev.placeValue_keeps rfl (fun x6 => ?_) ?_ _ z5
        · exact fun _ h => (Dev.openFor_keeps _ h).step rfl .refl
        · exact .refl

theorem Dev.commitChain_keeps {d : Dev} {a : Author} {o : WOp} :
    KeepsE [.regs, .evj, .nss, .vpl, .fmm, .cap] d (fun r => r.2) (Dev.commitChain d a o) := by
  unfold Dev.commitChain
  extract_lets l1 y2 body3
  split
  · exact .error
  next z4 z5 z6 z7 =>
    extract_lets y8 v9 fail10
    split
    · exact .error
    · split
      · exact .error
      · split
        · split
          · exact .error
          · exact .error
        next z11 z12 z13 z14 =>
          extract_lets l15 d16
          have h17 : Keeps [.regs, .evj, .nss, .vpl, .fmm, .cap] d d16 := by
            unfold d16
            split
            · refine Dev.raise_keeps.step rfl ?_
              refine Dev.placeValue_keeps rfl (fun x18 => ?_) ?_ _ z14
              · exact fun _ h => (Dev.openFor_keeps _ h).step rfl .refl
              · exact (Dev.version_keeps _ z7).step rfl .refl
            · refine Dev.placeValue_keeps rfl (fun x19 => ?_) ?_ _ z14
              · exact fun _ h => (Dev.openFor_keeps _ h).step rfl .refl
              · exact (Dev.version_keeps _ z7).step rfl .refl
          refine .ok ?_
          dsimp only
          exact Dev.chainLevel_keeps.step rfl (Dev.noteCommit_keeps.step rfl (Dev.setLedger_keeps.step rfl h17))

theorem Dev.placeRoot_keeps {d : Dev} {a : Author} {v : Value} :
    KeepsE [.regs, .evj, .fmm] d (fun r => r.2) (Dev.placeRoot d a v) := by
  unfold Dev.placeRoot
  split
  · exact .error
  split
  · split
    · split
      · exact .error
      next r z => exact .ok (Dev.placeValue_keeps rfl (fun _ => .none) .refl _ z)
    · exact .error
  · split
    · exact .error
    next r z => exact .ok (Dev.placeValue_keeps rfl (fun _ _ h => (Dev.openFor_keeps _ h).step rfl .refl) .refl _ z)

theorem Dev.commitDelete_keeps {d : Dev} {a : Author} {o : WOp} :
    KeepsE [.regs, .rates, .evj, .nss, .idx, .vpl, .fmm, .cap] d (fun r => r.2) (Dev.commitDelete d a o) := by
  unfold Dev.commitDelete
  split
  next z1 z2 z3 =>
    exact .error
  next z4 z5 z6 z7 z8 z9 =>
    split
    · exact .error
    · split
      · exact .error
      next z10 z11 z12 z13 =>
        extract_lets d14 y15 d16
        have h17 : Keeps [.regs, .rates, .evj, .nss, .idx, .vpl, .fmm, .cap] d d14 := Dev.idxRemove_keeps.step rfl ((Dev.version_keeps _ z13).step rfl ((Dev.lookFor_keeps.snd z9).step rfl .refl))
        have h18 : Keeps [.regs, .rates, .evj, .nss, .idx, .vpl, .fmm, .cap] d d16 := .ite (.set_idx rfl h17) h17
        refine .ok ?_
        dsimp only
        exact Dev.noteCommit_keeps.step rfl h18

theorem Dev.point_keeps {d : Dev} {a : Author} {v : Value} {loc : Nat} :
    KeepsE [.regs, .rates, .evj, .idx, .fmm, .cap] d (fun r => r) (Dev.point d a v loc) := by
  unfold Dev.point
  extract_lets seg1 l2 d3 p4
  have h5 : Keeps [.regs, .rates, .evj, .idx, .fmm, .cap] d d3 := Dev.countLook_keeps.step rfl .refl
  split
  · exact .error
  · split
    · refine .ok ?_
      exact Dev.idxReplace_keeps.step rfl h5
    · split
      · exact .error
      · split
        · exact .error
        · refine .ok ?_
          exact Dev.idxInsert_keeps.step rfl h5

theorem Dev.unmap_keeps {a : Author} {ns : Nat} {key : Bytes} {n : List Nat} {d : Dev} :
    KeepsE [.regs, .rates, .evj, .idx, .fmm, .cap] d (fun r => r) (Dev.unmap a ns key n d) := by
  induction n generalizing a ns key d with
  | nil =>
    unfold Dev.unmap
    refine .ok ?_
    exact .refl
  | cons x1 l1 ih =>
    unfold Dev.unmap
    split
    next z1 z2 z3 =>
      exact fun _ h => (ih _ h).step rfl ((Dev.lookFor_keeps.snd z3).step rfl .refl)
    next z4 z5 z6 z7 z8 z9 =>
      split
      · exact .error
      · exact fun _ h => (ih _ h).step rfl (Dev.idxRemove_keeps.step rfl ((Dev.lookFor_keeps.snd z9).step rfl .refl))

theorem Dev.commitPut_keeps {d : Dev} {a : Author} {o : WOp} :
    KeepsE [.regs, .rates, .evj, .nss, .idx, .vpl, .fmm, .cap] d (fun r => r.2) (Dev.commitPut d a o) := by
  unfold Dev.commitPut
  split
  · exact .error
  next z1 z2 z3 z4 =>
    extract_lets v5
    split
    · exact .error
    next z6 z7 z8 z9 =>
      split
      · exact .error
      next z10 z11 z12 =>
        refine .ok ?_
        dsimp only
        exact Dev.noteCommit_keeps.step rfl ((Dev.point_keeps _ z12).step rfl ((Dev.placeHot_keeps _ z9).step rfl ((Dev.version_keeps _ z4).step rfl .refl)))

theorem Dev.commitSegment_keeps {d : Dev} {a : Author} {o : WOp} {version : Nat} {create : Nat} {s : SegWork} :
    KeepsE [.regs, .rates, .evj, .idx, .fmm, .cap] d (fun r => r) (Dev.commitSegment d a o version create s) := by
  unfold Dev.commitSegment
  extract_lets y1 v2
  split
  · exact .error
  next z3 z4 z5 z6 =>
    exact fun _ h => (Dev.point_keeps _ h).step rfl ((Dev.placeHot_keeps _ z6).step rfl .refl)

theorem Dev.commitSegments_keeps {a : Author} {o : WOp} {version : Nat} {create : Nat} {n : List SegWork} {d : Dev} :
    KeepsE [.regs, .rates, .evj, .idx, .fmm, .cap] d (fun r => r) (Dev.commitSegments a o version create n d) := by
  suffices H : ∀ l e, Keeps [.regs, .rates, .evj, .idx, .fmm, .cap] d e → KeepsE [.regs, .rates, .evj, .idx, .fmm, .cap] d (fun r => r) (Dev.commitSegments a o version create l e) from H _ _ .refl
  intro l
  induction l with
  | nil => intro e he r hr; unfold Dev.commitSegments at hr; cases hr; exact he
  | cons s l ih =>
    intro e he r hr
    unfold Dev.commitSegments at hr
    split at hr
    · cases hr
    next f h => exact ih _ ((Dev.commitSegment_keeps _ h).step rfl he) r hr

theorem Dev.commitExtent_keeps {d : Dev} {a : Author} {o : WOp} :
    KeepsE [.regs, .rates, .evj, .nss, .idx, .vpl, .fmm, .cap] d (fun r => r.2) (Dev.commitExtent d a o) := by
  unfold Dev.commitExtent
  split
  · exact .error
  next ver e z =>
  extract_lets old create size _ root
  have h1 : Keeps [.regs, .rates, .evj, .nss, .idx, .vpl, .fmm, .cap] d e := (Dev.version_keeps _ z).step rfl .refl
  have hp : KeepsE [.regs, .rates, .evj, .nss, .idx, .vpl, .fmm, .cap] d (fun r => r.2)
      (if o.op = 18 ∧ o.segs.isEmpty = true then e.placeRoot a root else e.placeHot a root false) := by
    split
    · exact fun _ h => (Dev.placeRoot_keeps _ h).step rfl h1
    · exact fun _ h => (Dev.placeHot_keeps _ h).step rfl h1
  split
  · exact .error
  next loc f z2 =>
  have h2 := hp _ z2
  split
  · exact .error
  next g z3 =>
  split
  · exact .error
  next h z4 =>
  split
  · exact .error
  next k z5 =>
  exact .ok (Dev.noteCommit_keeps.step rfl ((Dev.unmap_keeps _ z5).step rfl ((Dev.commitSegments_keeps _ z4).step rfl
    ((Dev.point_keeps _ z3).step rfl h2))))

end Sys2Proof.Machine
end

