-- ==== Sys2Proof/Laws/DataFrames.lean ====
section
/-! SUPPORT. Frame lemmas: the data commands and the movement of values between Bushels: each lemma `Dev.f_keeps` names the fields of the device that `Dev.f` may
change; every other field is as before. -/

open Sys2Proof

namespace Sys2Proof.Machine

theorem Dev.sealRecord_keeps {d : Dev} {ns : Nat} {cseq : Nat} {first : Nat} {retention : Nat} {cause : Nat} {st : Nat × Nat × Nat} {prev : Bytes} {key : Bytes} {ik : Nat} :
    Keeps [.free] d (Dev.sealRecord d ns cseq first retention cause st prev key ik).2 := by
  unfold Dev.sealRecord
  extract_lets head1 signed2
  split
  next z3 z4 z5 z6 =>
    split
    · dsimp only
      exact (Dev.draw_keeps.snd z6).step rfl .refl

theorem Dev.stamp_keeps {d : Dev} :
    KeepsO [.sec, .cap] d (fun r => r.2) (Dev.stamp d) := by
  unfold Dev.stamp
  extract_lets c1 res2 y3 y4 y5
  split
  · exact .none
  · refine .some ?_
    dsimp only
    exact .upd (fun p hp => by cases p <;> first | exact absurd hp (by decide) | rfl) .refl

theorem Dev.addSeal_keeps {d : Dev} {r : ChainRun} {ns : Nat} {first : Nat} {retention : Nat} {cause : Nat} {bind : Option KeyGen} {key : Bytes} :
    KeepsO [.free, .sec, .cap] d (fun r => r.2) (Dev.addSeal d r ns first retention cause bind key) := by
  unfold Dev.addSeal
  split
  · refine .some ?_
    dsimp only
    exact .refl
  · split
    · exact .none
    next z1 z2 z3 z4 =>
      split
      next z5 z6 z7 z8 =>
        refine .some ?_
        dsimp only
        exact (Dev.sealRecord_keeps.snd z8).step rfl ((Dev.stamp_keeps _ z4).step rfl .refl)

theorem Dev.chainRun_keeps {d : Dev} {l : Ledger} {ns : Nat} {retention : Nat} {bind : Option KeyGen} {key : Bytes} :
    KeepsO [.free, .sec, .cap] d (fun r => r.2) (Dev.chainRun d l ns retention bind key) := by
  unfold Dev.chainRun
  extract_lets r1
  split
  · refine .some ?_
    dsimp only
    exact .refl
  · exact fun _ h => (Dev.addSeal_keeps _ h).step rfl .refl

theorem Dev.afterEntry_keeps {d : Dev} {r : ChainRun} {ns : Nat} {first : Nat} {retention : Nat} {bind : Option KeyGen} {key : Bytes} :
    KeepsO [.free, .sec, .cap] d (fun r => r.2) (Dev.afterEntry d r ns first retention bind key) := by
  unfold Dev.afterEntry
  split
  · exact fun _ h => (Dev.addSeal_keeps _ h).step rfl .refl
  · split
    · exact fun _ h => (Dev.addSeal_keeps _ h).step rfl .refl
    · refine .some ?_
      dsimp only
      exact .refl

theorem Dev.endWait_keeps {d : Dev} {ctx : Nat} :
    Keeps [.regs, .fmm] d (Dev.endWait d ctx) := by
  unfold Dev.endWait
  split
  · exact .refl
  · exact Dev.countN_keeps.step rfl (.set_fmm rfl .refl)

theorem Dev.chainColl_keeps {d : Dev} :
    Keeps [.fmm] d (Dev.chainColl d) := by
  unfold Dev.chainColl
  split
  · exact .ite (Dev.startColl_keeps.step rfl .refl) .refl
  · exact .refl

theorem Dev.rawRefused_keeps {d : Dev} {ns : Nat} {seg : Nat} {status : Nat} :
    Keeps [.regs, .evj] d (Dev.rawRefused d ns seg status) :=
  Dev.log_keeps.step rfl (Dev.raise_keeps.step rfl (Dev.count_keeps.step rfl .refl))

theorem Dev.ackWrite_keeps {d : Dev} {ctx : Nat} {w : WriteJob} :
    Keeps [.regs, .ports, .sess, .cqe, .fmm] d (Dev.ackWrite d ctx w) := by
  unfold Dev.ackWrite
  extract_lets isQuire1 d2 moved3
  have h4 : Keeps [.regs, .ports, .sess, .cqe, .fmm] d d2 := .ite (Dev.count_keeps.step rfl .refl) .refl
  exact Dev.finishOk_keeps.step rfl (Dev.health_keeps.step rfl h4)

theorem Dev.placeThrough_keeps {d : Dev} {a : Author} {o : WOp} :
    KeepsE [.regs, .evj, .nss, .vpl, .fmm, .cap] d (fun r => r.2.2) (Dev.placeThrough d a o) := by
  unfold Dev.placeThrough
  split
  · extract_lets before
    exact KeepsE.map Dev.commitAppend_keeps rfl fun _ => rfl
  split
  · exact .error
  next ver e h1 =>
  extract_lets v
  split
  · exact .error
  next loc f h2 =>
  refine .ok ?_
  exact (Dev.placeHot_keeps _ h2).step rfl ((Dev.version_keeps _ h1).step rfl .refl)

theorem Dev.flushesDone_keeps {d : Dev} :
    Keeps [.regs, .ports, .sess, .cqe] d (Dev.flushesDone d) := by
  unfold Dev.flushesDone
  refine .foldl (fun y1 a2 => ?_) ?_
  · extract_lets waiting3 unsent4
    exact .ite (Dev.finishOk_keeps.step rfl (Dev.count_keeps.step rfl .refl)) .refl
  · exact .refl

theorem Dev.sendRead_keeps {d : Dev} {ctx : Nat} {f : Flight} {r : ReadJob} {bytes : Bytes} {last : Bool} :
    Keeps [.regs, .ports, .sess, .cqe] d (Dev.sendRead d ctx f r bytes last) := by
  unfold Dev.sendRead
  extract_lets c1 msg2 d3 d4
  have h5 : Keeps [.regs, .ports, .sess, .cqe] d d3 := Dev.modSess_keeps.step rfl .refl
  have h6 : Keeps [.regs, .ports, .sess, .cqe] d d4 := .ite .refl (.ite (Dev.extendMessage_keeps.step rfl .refl) (.ite (Dev.sendMessage_keeps.step rfl h5) (Dev.openMessage_keeps.step rfl h5)))
  exact Dev.modFlight_keeps.step rfl h6

theorem Dev.writeDone_keeps {d : Dev} {ctx : Nat} {w : WriteJob} :
    Keeps [.regs, .ports, .sess, .cqe, .lge, .fmm] d (Dev.writeDone d ctx w) := by
  unfold Dev.writeDone
  split
  · exact .refl
  · extract_lets c1 id2 msg3 req4 d5 y6
    have h7 : Keeps [.regs, .ports, .sess, .cqe, .lge, .fmm] d d5 := Dev.modWrite_keeps.step rfl .refl
    exact .ite (Dev.ackWrite_keeps.step rfl .refl) (.ite (Dev.ackWrite_keeps.step rfl (Dev.count_keeps.step rfl .refl)) (.set_lge rfl h7))

theorem Dev.endRead_keeps {d : Dev} {ctx : Nat} {f : Flight} {r : ReadJob} {status : Nat} {detail : Nat} :
    Keeps [.regs, .ports, .sess, .cqe, .vpl, .fmm] d (Dev.endRead d ctx f r status detail) := by
  unfold Dev.endRead
  extract_lets d1 d2 y3
  have h4 : Keeps [.regs, .ports, .sess, .cqe, .vpl, .fmm] d d1 := Dev.sendRead_keeps.step rfl (Dev.countStatus_keeps.step rfl .refl)
  have h5 : Keeps [.regs, .ports, .sess, .cqe, .vpl, .fmm] d d2 := Dev.modSess_keeps.step rfl h4
  exact Dev.cleanEngines_keeps.step rfl (.set_cqe rfl h5)

theorem Dev.commitFailed_keeps {d : Dev} {ctx : Nat} {i : Nat} {quire : Bool} {f : Fail} :
    Keeps [.regs, .rates, .evj, .ports, .sess, .cqe, .idx, .vpl, .fmm, .cap] d (Dev.commitFailed d ctx i quire f) := by
  unfold Dev.commitFailed
  extract_lets full1 d2 y3 y4 d5 d6
  have h7 : Keeps [.regs, .rates, .evj, .ports, .sess, .cqe, .idx, .vpl, .fmm, .cap] d d2 := .ite (Dev.chainColl_keeps.step rfl .refl) (Dev.report_keeps.step rfl .refl)
  have h8 : Keeps [.regs, .rates, .evj, .ports, .sess, .cqe, .idx, .vpl, .fmm, .cap] d d5 := by
    unfold d5
    split
    · exact .set_vpl rfl .refl
    · exact .refl
  have h9 : Keeps [.regs, .rates, .evj, .ports, .sess, .cqe, .idx, .vpl, .fmm, .cap] d d6 := .ite (Dev.chainColl_keeps.step rfl h8) (Dev.countN_keeps.step rfl (Dev.report_keeps.step rfl h8))
  exact .ite (.set_fmm rfl h7) (Dev.failWrite_keeps.step rfl h9)

theorem Dev.failRead_keeps {d : Dev} {ctx : Nat} {status : Nat} {detail : Nat} :
    Keeps [.regs, .ports, .sess, .cqe, .vpl, .fmm] d (Dev.failRead d ctx status detail) := by
  unfold Dev.failRead
  split
  · exact .refl
  · split
    · exact Dev.finish_keeps.step rfl .refl
    · exact .ite (Dev.endRead_keeps.step rfl .refl) (Dev.cleanEngines_keeps.step rfl (Dev.finish_keeps.step rfl .refl))

theorem Dev.releaseRead_keeps {d : Dev} {ctx : Nat} :
    Keeps [.regs, .ports, .sess, .cqe, .vpl, .fmm] d (Dev.releaseRead d ctx) := by
  unfold Dev.releaseRead
  split
  · exact .refl
  · split
    · exact .refl
    · split
      · extract_lets r'1 d2 d3 sent4
        have h5 : Keeps [.regs, .ports, .sess, .cqe, .vpl, .fmm] d d2 := Dev.health_keeps.step rfl (Dev.countN_keeps.step rfl .refl)
        have h6 : Keeps [.regs, .ports, .sess, .cqe, .vpl, .fmm] d d3 := .ite (Dev.modFlight_keeps.step rfl h5) (Dev.sendRead_keeps.step rfl h5)
        split
        · exact Dev.endRead_keeps.step rfl h6
        · split
          · exact Dev.failRead_keeps.step rfl h6
          · exact h6

theorem Dev.cutMore_keeps {d : Dev} {ctx : Nat} {f : Flight} {w : WriteJob} :
    Keeps [.free, .regs, .sec, .evj, .ports, .sess, .cqe, .vpl, .fmm, .cap] d (Dev.cutMore d ctx f w) := by
  unfold Dev.cutMore
  extract_lets c setOps more l0
  split
  · exact .refl
  next n _ =>
  extract_lets bind
  clear_value bind
  split
  · split
    · split
      · exact Dev.failWrite_keeps.step rfl (Dev.rawRefused_keeps.step rfl .refl)
      split
      · exact Dev.failWrite_keeps.step rfl .refl
      split
      · exact Dev.failWrite_keeps.step rfl .refl
      · exact Dev.modWrite_keeps.step rfl .refl
    · exact .refl
  split
  · exact Dev.modWrite_keeps.step rfl .refl
  split
  · split
    extract_lets q
    split
    · exact Dev.modWrite_keeps.step rfl .refl
    · exact .refl
  split
  · split
    · split
      · exact Dev.failWrite_keeps.step rfl .refl
      next k _ =>
        extract_lets built
        have hb : KeepsO [.free, .regs, .sec, .evj, .ports, .sess, .cqe, .vpl, .fmm, .cap] d (fun r => r.2.2.2) built := by
          intro r hr
          unfold built at hr
          simp only [Option.bind_eq_bind, Option.bind_eq_some_iff] at hr
          obtain ⟨x, hx, y, hy, z, hz, hr⟩ := hr
          cases hr
          exact (Dev.afterEntry_keeps _ hz).step rfl
            ((Dev.stamp_keeps _ hy).step rfl ((Dev.chainRun_keeps _ hx).step rfl .refl))
        clear_value built
        split
        · exact Dev.failWrite_keeps.step rfl .refl
        · unfold setOps
          exact Dev.modWrite_keeps.step rfl (Dev.modWrite_keeps.step rfl (hb _ rfl))
    · exact .refl
  · exact .refl

theorem Dev.pointThrough_keeps {d : Dev} {ctx : Nat} {f : Flight} {w : WriteJob} :
    Keeps [.regs, .rates, .evj, .ports, .sess, .cqe, .lge, .nss, .idx, .vpl, .fmm, .cap] d (Dev.pointThrough d ctx f w) := by
  unfold Dev.pointThrough
  split
  · split
    · exact Dev.writeDone_keeps.step rfl .refl
    · split
      · exact Dev.writeDone_keeps.step rfl .refl
      · exact Dev.failWrite_keeps.step rfl (Dev.invalidateValue_keeps.step rfl .refl)
      · split
        · exact Dev.holdIndex_keeps.step rfl .refl
        · split
          · exact .ite .refl (Dev.commitFailed_keeps.step rfl (Dev.invalidateValue_keeps.step rfl .refl))
          next z1 z2 z3 =>
            extract_lets d4 w5
            have h6 : Keeps [.regs, .rates, .evj, .ports, .sess, .cqe, .lge, .nss, .idx, .vpl, .fmm, .cap] d d4 := Dev.noteCommit_keeps.step rfl ((Dev.point_keeps _ z3).step rfl .refl)
            exact .ite (Dev.modWrite_keeps.step rfl h6) (Dev.writeDone_keeps.step rfl h6)
  · exact .refl

theorem Dev.programsDone_keeps {d : Dev} :
    Keeps [.regs, .rates, .evj, .ports, .sess, .cqe, .lge, .nss, .idx, .vpl, .fmm, .cap] d (Dev.programsDone d) := by
  unfold Dev.programsDone
  refine .foldl (fun y1 a2 => ?_) ?_
  · split
    · exact .refl
    · split
      · exact .refl
      · exact .ite (.ite (Dev.pointThrough_keeps.step rfl .refl) (Dev.writeDone_keeps.step rfl .refl)) .refl
  · exact .refl

theorem Dev.startRead_keeps {d : Dev} {ctx : Nat} {r : ReadJob} :
    Keeps [.regs, .evj, .ports, .sess, .cqe, .vpl, .fmm] d (Dev.startRead d ctx r) :=
  Dev.releaseRead_keeps.step rfl (Dev.assign_keeps.step rfl (Dev.modFlight_keeps.step rfl .refl))

theorem Dev.advance_keeps {d : Dev} {ctx : Nat} :
    Keeps [.free, .regs, .sec, .evj, .ports, .sess, .cqe, .vpl, .fmm, .cap] d (Dev.advance d ctx) := by
  unfold Dev.advance
  split
  · exact .refl
  · split
    · exact .refl
    · exact .ite (Dev.assign_keeps.step rfl (Dev.cutMore_keeps.step rfl .refl)) .refl

theorem Dev.commitOp_keeps {d : Dev} {a : Author} {o : WOp} :
    KeepsE [.regs, .rates, .evj, .nss, .idx, .vpl, .fmm, .cap] d (fun r => r.2.2) (Dev.commitOp d a o) := by
  unfold Dev.commitOp
  split
  · exact KeepsE.map Dev.commitDelete_keeps rfl fun _ => rfl
  split
  · exact KeepsE.map Dev.commitExtent_keeps rfl fun _ => rfl
  split
  · exact KeepsE.map Dev.commitAppend_keeps rfl fun _ => rfl
  split
  · exact KeepsE.map Dev.commitChain_keeps rfl fun _ => rfl
  · exact KeepsE.map Dev.commitPut_keeps rfl fun _ => rfl

theorem Dev.commitOps_keeps {a : Author} {n : Nat} {m : List WOp} {d : Dev} :
    KeepsE [.regs, .rates, .evj, .nss, .idx, .vpl, .fmm, .cap] d (fun r => r.2) (Dev.commitOps a n m d) := by
  induction m generalizing n d with
  | nil => unfold Dev.commitOps; exact .ok .refl
  | cons x l ih =>
    unfold Dev.commitOps
    split
    · exact .error
    next z1 z2 z3 z4 z5 =>
      split
      · exact .error
      next z6 z7 z8 z9 =>
        refine .ok ?_
        dsimp only
        exact (ih _ z9).step rfl ((Dev.commitOp_keeps _ (Dev.consume_ok z5)).step rfl .refl)

theorem Dev.commit_keeps {d : Dev} {ctx : Nat} {f : Flight} {w : WriteJob} :
    Keeps [.free, .regs, .rates, .sec, .evj, .ports, .sess, .cqe, .lge, .nss, .idx, .vpl, .fmm, .cap] d (Dev.commit d ctx f w) := by
  unfold Dev.commit
  extract_lets c1 a2 quire3
  split
  · split
    · split
      · exact Dev.commitFailed_keeps.step rfl .refl
      next z4 z5 z6 z7 z8 =>
        exact Dev.modWrite_keeps.step rfl (Dev.endWait_keeps.step rfl ((Dev.placeThrough_keeps _ z8).step rfl .refl))
    · exact .refl
  · split
    · exact Dev.commitFailed_keeps.step rfl .refl
    next z9 z10 z11 z12 =>
      extract_lets y13 y14 d15 param16 w17 y18
      have h19 : Keeps [.free, .regs, .rates, .sec, .evj, .ports, .sess, .cqe, .lge, .nss, .idx, .vpl, .fmm, .cap] d y13 := Dev.endWait_keeps.step rfl ((Dev.commitOps_keeps _ z12).step rfl .refl)
      have h20 : Keeps [.free, .regs, .rates, .sec, .evj, .ports, .sess, .cqe, .lge, .nss, .idx, .vpl, .fmm, .cap] d d15 := .set_cap rfl h19
      split
      · extract_lets q21
        exact .ite (Dev.advance_keeps.step rfl (Dev.modWrite_keeps.step rfl h20)) (.ite (Dev.modWrite_keeps.step rfl h20) (Dev.writeDone_keeps.step rfl h20))

theorem Dev.relocOps_keeps {d : Dev} {old : Nat} {new : Nat} :
    Keeps [.cqe] d (Dev.relocOps d old new) := by
  unfold Dev.relocOps
  extract_lets one1 job2 y3
  exact .set_cqe rfl .refl

theorem Dev.countProgram_keeps {d : Dev} {x : Bushel} {grains : Nat} :
    Keeps [.fmm] d (Dev.countProgram d x grains) :=
  Dev.health_keeps.step rfl .refl

theorem Dev.keepStreams_keeps {d : Dev} {b : Nat} :
    Keeps [.cap] d (Dev.keepStreams d b) := by
  unfold Dev.keepStreams
  extract_lets c1 mine2 add3 y4
  exact .set_cap rfl .refl

theorem Dev.ringBegin_keeps {d : Dev} {k : CollKind} {x : Bushel} :
    Keeps [.fmm] d (Dev.ringBegin d k x) :=
  Dev.modHead_keeps.step rfl .refl

theorem Dev.ringEnd_keeps {d : Dev} {was : Dev} {k : CollKind} {x : Bushel} :
    Keeps [.fmm] d (Dev.ringEnd d was k x) := by
  unfold Dev.ringEnd
  extract_lets h1 old2 stays3 t4 d5
  have h6 : Keeps [.fmm] d d5 := by
    unfold d5
    clear_value t4
    split
    · exact .refl
    · exact .ite (Dev.closeBushel_keeps.step rfl .refl) (.ite (Dev.modBushel_keeps.step rfl .refl) (Dev.modBushel_keeps.step rfl .refl))
  exact .ite h6 (Dev.modHead_keeps.step rfl h6)

theorem Dev.pinBy_keeps {d : Dev} {w : Nat} {b : Nat} :
    Keeps [.fmm] d (Dev.pinBy d w b) :=
  Dev.modBushel_keeps.step rfl .refl

theorem Dev.pinWindow_keeps {d : Dev} {w : Nat} :
    Keeps [.fmm] d (Dev.pinWindow d w) := by
  unfold Dev.pinWindow
  split
  · exact .refl
  · exact .foldl (fun _ _ => (Dev.pinBy_keeps.step rfl .refl)) .refl

theorem Dev.pinBushel_keeps {d : Dev} {b : Nat} :
    Keeps [.fmm] d (Dev.pinBushel d b) :=
  .foldl (fun _ _ => (.ite (Dev.pinBy_keeps.step rfl .refl) .refl)) .refl

theorem Dev.putWindow_keeps {d : Dev} {w : Nat} {x : Window} :
    Keeps [.fmm, .cap] d (Dev.putWindow d w x) :=
  Dev.pinWindow_keeps.step rfl (.set_cap rfl .refl)

theorem Dev.settle_keeps {d : Dev} {b : Nat} :
    Keeps [.pins, .idx, .fmm, .cap] d (Dev.settle d b) := by
  unfold Dev.settle
  extract_lets c1 done2 y3 y4 d5 y6 d7 d8 y9 y10
  have h11 : Keeps [.pins, .idx, .fmm, .cap] d d5 := .upd (fun p hp => by cases p <;> first | exact absurd hp (by decide) | rfl) .refl
  have h12 : Keeps [.pins, .idx, .fmm, .cap] d d7 := .ite (.set_cap rfl h11) h11
  have h13 : Keeps [.pins, .idx, .fmm, .cap] d d8 := Dev.keepStreams_keeps.step rfl h12
  have h14 : Keeps [.pins, .idx, .fmm, .cap] d y9 := Dev.pinBushel_keeps.step rfl h13
  exact .set_pins rfl h14

theorem Dev.sealCopies_keeps {d : Dev} {was : Dev} {pins : Nat} :
    Keeps [.pins, .regs, .idx, .fmm, .cap] d (Dev.sealCopies d was pins) := by
  unfold Dev.sealCopies
  extract_lets hit1
  exact .foldl (fun _ _ => (Dev.modBushel_keeps.step rfl (Dev.settle_keeps.step rfl (Dev.sealGroup_keeps.step rfl .refl)))) .refl

theorem Dev.countColl_keeps {d : Dev} {b : Nat} {k : CollKind} {grains : Nat} :
    Keeps [.regs, .evj, .fmm] d (Dev.countColl d b k grains) := by
  unfold Dev.countColl
  split
  · exact Dev.health_keeps.step rfl (Dev.count_keeps.step rfl .refl)
  · extract_lets d1 y2
    have h3 : Keeps [.regs, .evj, .fmm] d d1 := Dev.health_keeps.step rfl (Dev.count_keeps.step rfl .refl)
    exact .set_fmm rfl h3
  · exact Dev.health_keeps.step rfl (Dev.count_keeps.step rfl .refl)
  · exact Dev.log_keeps.step rfl (Dev.health_keeps.step rfl (Dev.health_keeps.step rfl (Dev.count_keeps.step rfl .refl)))

theorem Dev.patrolRead_keeps {d : Dev} {b : Nat} {set : Nat} {corr : Nat} {r : MediaRead} :
    Keeps [.regs, .rates, .evj, .fmm] d (Dev.patrolRead d b set corr r) := by
  unfold Dev.patrolRead
  extract_lets was1 d2 d3 marked4 y5
  have h6 : Keeps [.regs, .rates, .evj, .fmm] d d2 := Dev.noteRead_keeps.step rfl (Dev.countReads_keeps.step rfl .refl)
  have h7 : Keeps [.regs, .rates, .evj, .fmm] d d3 := Dev.modBushel_keeps.step rfl h6
  exact .set_fmm rfl h7

theorem Dev.freeWindowPins_keeps {d : Dev} {w : Nat} :
    Keeps [.regs, .evj, .fmm, .cap] d (Dev.freeWindowPins d w).2 := by
  unfold Dev.freeWindowPins
  extract_lets hit1 back2 d3 y4 d5 rings6
  have h7 : Keeps [.regs, .evj, .fmm, .cap] d d3 := .foldl (fun _ _ => (Dev.modBushel_keeps.step rfl .refl)) .refl
  have h8 : Keeps [.regs, .evj, .fmm, .cap] d d5 := .set_cap rfl h7
  dsimp only
  refine .foldl (fun y9 a10 => ?_) ?_
  · split
    · exact Dev.reclaimTo_keeps.step rfl .refl
    · exact .refl
  · exact h8

theorem Dev.patrolKept_keeps {d : Dev} {b : Nat} :
    Keeps [.regs, .evj, .fmm, .cap] d (Dev.patrolKept d b) := by
  unfold Dev.patrolKept
  extract_lets x1
  exact .ite (Dev.release_keeps.step rfl .refl) .refl

theorem Dev.patrolEnd_keeps {d : Dev} :
    Keeps [.regs, .evj, .fmm, .cap] d (Dev.patrolEnd d) := by
  unfold Dev.patrolEnd
  extract_lets d1 n2 y3
  have h4 : Keeps [.regs, .evj, .fmm, .cap] d d1 := .foldl (fun _ _ => (Dev.patrolKept_keeps.step rfl .refl)) .refl
  exact Dev.log_keeps.step rfl (Dev.health_keeps.step rfl (.set_fmm rfl h4))

theorem Dev.ringOpen_keeps {k : CollKind} {x : Bushel} {h : Nat} {d : Dev} :
    KeepsO [.regs, .evj, .fmm] d (fun r => r.2) (Dev.ringOpen k x h d) := by
  unfold Dev.ringOpen
  extract_lets pslc1
  split
  · exact fun _ h => (Dev.openBushel_keeps _ h).step rfl .refl
  · split
    · exact fun _ h => (Dev.openBushel_keeps _ h).step rfl .refl
    · exact .none

theorem Dev.moveBlocks_keeps {n : List (Nat × Nat)} {d : Dev} :
    KeepsO [.regs, .evj, .idx, .fmm] d (fun r => r) (Dev.moveBlocks n d) := by
  induction n generalizing d with
  | nil => unfold Dev.moveBlocks; exact .some .refl
  | cons p r ih =>
    unfold Dev.moveBlocks
    split
    · exact .none
    next loc e z =>
      have he : Keeps [.regs, .evj, .idx, .fmm] d e := Dev.place_keeps rfl (fun _ _ h => (Dev.openFor_keeps _ h).step rfl .refl) .refl _ z
      exact fun _ h => (ih _ h).step rfl (.upd (fun p hp => by cases p <;> first | exact absurd hp (by decide) | rfl) he)

theorem Dev.openAny_keeps {h : Nat} {ns : Nat} {d : Dev} :
    KeepsO [.regs, .evj, .fmm, .cap] d (fun r => r.2) (Dev.openAny h ns d) := by
  unfold Dev.openAny
  split
  · split
    · exact fun _ h => (Dev.openFurlong_keeps _ h).step rfl .refl
    · exact .none
  · exact fun _ h => (Dev.openFor_keeps _ h).step rfl .refl

theorem Dev.moveCopies_keeps {d : Dev} {b : Nat} :
    KeepsO [.regs, .evj, .idx, .fmm] d (fun r => r) (Dev.moveCopies d b) := by
  unfold Dev.moveCopies
  extract_lets mine1 y2
  exact fun _ h => (Dev.putPages_keeps _ h).step rfl (.set_idx rfl .refl)

theorem Dev.replaceBlocks_keeps {d : Dev} {b : Nat} {c : Nat} {h : Nat} :
    Keeps [.regs, .evj, .idx, .fmm] d (Dev.replaceBlocks d b c h) := by
  unfold Dev.replaceBlocks
  extract_lets gone1
  refine .foldl (fun y2 a3 => ?_) ?_
  · split
    · exact .refl
    next z4 z5 z6 z7 =>
      extract_lets d8 y9 y10
      have h11 : Keeps [.regs, .evj, .idx, .fmm] y2 d8 := by
        unfold d8
        refine Dev.stage_keeps.step rfl ?_
        refine Dev.place_keeps rfl (fun x12 => ?_) ?_ _ z7
        · exact fun _ h => (Dev.openFor_keeps _ h).step rfl .refl
        · exact .refl
      exact .upd (fun p hp => by cases p <;> first | exact absurd hp (by decide) | rfl) h11
  · exact .refl

theorem Dev.moveValue_keeps {m : List Part} {d0 d : Dev} {h : Nat} {a : Author} {f : Dev → Option (Nat × Dev)} {loc : Nat}
    {v : Value} (c : covers m [.regs, .evj, .idx, .fmm, .cap] = true) (hf : ∀ y, KeepsO m y (fun r => r.2) (f y)) (hd : Keeps m d0 d) :
    KeepsO m d0 (fun r => r.2) (d.moveValue h a f loc v) := by
  unfold Dev.moveValue
  split
  · exact .none
  next loc e z =>
    extract_lets _ e2 l
    have he : Keeps m d0 e2 := .set_fmm (Part.isIn_of c rfl) (Dev.place_keeps (covers_trans c rfl) hf hd _ z)
    split
    · split
      · split
        · refine .some ?_
          dsimp only
          exact Dev.idxReplace_keeps.step (covers_trans c rfl) he
        · exact .none
      · exact .some he
    split
    · refine .some ?_
      dsimp only
      exact (Dev.invalidate_keeps.step (covers_trans c rfl) (Dev.setLedger_keeps.step (covers_trans c rfl) he))
    · refine .some ?_
      dsimp only
      exact (Dev.invalidate_keeps.step (covers_trans c rfl) (Dev.noteExtent_keeps.step (covers_trans c rfl) he))

theorem Dev.moveItems_keeps {m : List Part} {h : Nat} {f : Dev → Option (Nat × Dev)} {l : List (Nat × Value)} {n : Nat}
    {d0 d : Dev} (c : covers m [.regs, .evj, .idx, .fmm, .cap] = true) (hf : ∀ y, KeepsO m y (fun r => r.2) (f y)) (hd : Keeps m d0 d) :
    KeepsO m d0 (fun r => r.2) (Dev.moveItems h f l n d) := by
  induction l generalizing n d with
  | nil => unfold Dev.moveItems; exact .some hd
  | cons p l ih =>
    obtain ⟨loc, v⟩ := p
    unfold Dev.moveItems
    split
    · exact ih hd
    split
    · exact .none
    next x e z => exact ih (Dev.moveValue_keeps (covers_trans c rfl) hf hd _ z)

theorem Dev.groupDone_keeps {d : Dev} {b : Nat} :
    Keeps [.pins, .regs, .rates, .evj, .ports, .sess, .cqe, .lge, .nss, .idx, .vpl, .fmm, .cap] d (Dev.groupDone d b) := by
  unfold Dev.groupDone
  extract_lets x1 top2 d3 d4 d5 x6 d7
  have h8 : Keeps [.pins, .regs, .rates, .evj, .ports, .sess, .cqe, .lge, .nss, .idx, .vpl, .fmm, .cap] d d3 := Dev.fill_keeps.step rfl .refl
  have h9 : Keeps [.pins, .regs, .rates, .evj, .ports, .sess, .cqe, .lge, .nss, .idx, .vpl, .fmm, .cap] d d4 := Dev.countProgram_keeps.step rfl (Dev.modBushel_keeps.step rfl h8)
  have h10 : Keeps [.pins, .regs, .rates, .evj, .ports, .sess, .cqe, .lge, .nss, .idx, .vpl, .fmm, .cap] d d5 := Dev.settle_keeps.step rfl h9
  have h11 : Keeps [.pins, .regs, .rates, .evj, .ports, .sess, .cqe, .lge, .nss, .idx, .vpl, .fmm, .cap] d d7 := .ite (Dev.closeBushel_keeps.step rfl h10) h10
  exact Dev.nextColl_keeps.step rfl (Dev.flushesDone_keeps.step rfl (Dev.programsDone_keeps.step rfl (Dev.maybeRelease_keeps.step rfl h11)))

theorem Dev.copyOut_keeps {d : Dev} {b : Nat} {k : CollKind} {stop : Option Nat} :
    KeepsO [.pins, .regs, .evj, .idx, .fmm, .cap] d (fun r => r.2) (Dev.copyOut d b k stop) := by
  unfold Dev.copyOut
  extract_lets x mine items blocks h opener start
  have hs : Keeps [.pins, .regs, .evj, .idx, .fmm, .cap] d start := .ite .refl (Dev.ringBegin_keeps.step rfl .refl)
  have ho : ∀ y, KeepsO [.pins, .regs, .evj, .idx, .fmm, .cap] y (fun r => r.2) (opener y) := by
    intro y
    unfold opener
    split
    · exact fun _ h => (Dev.openFor_keeps _ h).step rfl .refl
    · exact fun _ h => (Dev.ringOpen_keeps _ h).step rfl .refl
  clear_value opener start
  intro r hr
  simp only [Option.bind_eq_some_iff, Option.map_eq_some_iff] at hr
  obtain ⟨a, ha, e, he, g, hg, rfl⟩ := hr
  have h1 := Dev.moveItems_keeps (m := [.pins, .regs, .evj, .idx, .fmm, .cap]) rfl ho hs _ ha
  have h2 : Keeps [.pins, .regs, .evj, .idx, .fmm, .cap] d e := (Dev.moveBlocks_keeps _ he).step rfl h1
  have h3 : Keeps [.pins, .regs, .evj, .idx, .fmm, .cap] d g := by
    split at hg
    · cases hg; exact h2
    · exact (Dev.moveCopies_keeps _ hg).step rfl h2
  dsimp only
  exact .ite (Dev.sealCopies_keeps.step rfl h3) (Dev.ringEnd_keeps.step rfl (Dev.sealCopies_keeps.step rfl h3))

theorem Dev.replace_keeps {m : List Part} {d0 d : Dev} {b h : Nat} {f : Dev → Option (Nat × Dev)}
    (c : covers m [.regs, .evj, .cqe, .idx, .fmm, .cap] = true) (hf : ∀ y, KeepsO m y (fun r => r.2) (f y)) (hd : Keeps m d0 d) :
    Keeps m d0 (d.replace b h f) := by
  unfold Dev.replace
  refine .foldl (fun y x => ?_) hd
  extract_lets who a through author
  split
  · exact .refl
  next loc e z =>
    exact .upd (x := (e.stage loc x.2.grains h a.session a.arrival through).relocOps x.1 loc)
      (fun p hp => by cases p <;> first | (rw [Part.isIn_of c rfl] at hp; cases hp) | rfl)
      (Dev.relocOps_keeps.step (covers_trans c rfl) (Dev.stage_keeps.step (covers_trans c rfl)
        (Dev.moveValue_keeps (covers_trans c rfl) hf .refl _ z)))

theorem Dev.collect_keeps {d : Dev} {b : Nat} {k : CollKind} {bad : Option Nat} :
    Keeps [.pins, .regs, .rates, .evj, .ports, .sess, .cqe, .lge, .nss, .idx, .vpl, .fmm, .cap] d (Dev.collect d b k bad) := by
  unfold Dev.collect
  extract_lets stop
  clear_value stop
  split
  · exact .refl
  next n e hz =>
  have he : Keeps [.pins, .regs, .rates, .evj, .ports, .sess, .cqe, .lge, .nss, .idx, .vpl, .fmm, .cap] d e := (Dev.copyOut_keeps _ hz).step rfl .refl
  extract_lets e1 _ _ e2
  have h1 : Keeps [.pins, .regs, .rates, .evj, .ports, .sess, .cqe, .lge, .nss, .idx, .vpl, .fmm, .cap] d e1 := Dev.countN_keeps.step rfl he
  have h2 : Keeps [.pins, .regs, .rates, .evj, .ports, .sess, .cqe, .lge, .nss, .idx, .vpl, .fmm, .cap] d e2 := by
    unfold e2
    split
    · exact Dev.log_keeps.step rfl (Dev.raise_keeps.step rfl (Dev.modBushel_keeps.step rfl (.set_fmm rfl h1)))
    · exact Dev.release_keeps.step rfl (Dev.countColl_keeps.step rfl h1)
  exact Dev.nextColl_keeps.step rfl (Dev.flushesDone_keeps.step rfl (Dev.programsDone_keeps.step rfl h2))

theorem Dev.programFail_keeps {d : Dev} {b : Nat} {die : Nat} :
    Keeps [.regs, .evj, .cqe, .idx, .fmm, .cap] d (Dev.programFail d b die) := by
  unfold Dev.programFail
  extract_lets x1 h2 blk3 d4 spare5 d6 y7 d8 d9 d10 d11 y12 d13 d14 d15 d16 restarts17 d18
  have h19 : Keeps [.regs, .evj, .cqe, .idx, .fmm, .cap] d d4 := Dev.log_keeps.step rfl (Dev.raise_keeps.step rfl (Dev.health_keeps.step rfl (Dev.count_keeps.step rfl .refl)))
  have h20 : Keeps [.regs, .evj, .cqe, .idx, .fmm, .cap] d d6 := .ite (Dev.checkExhausted_keeps.step rfl (Dev.useSpare_keeps.step rfl h19)) h19
  have h21 : Keeps [.regs, .evj, .cqe, .idx, .fmm, .cap] d d8 := .ite h20 (.set_fmm rfl h20)
  have h22 : Keeps [.regs, .evj, .cqe, .idx, .fmm, .cap] d d9 := Dev.modBushel_keeps.step rfl h21
  have h23 : Keeps [.regs, .evj, .cqe, .idx, .fmm, .cap] d d10 := Dev.closeBushel_keeps.step rfl h22
  have h24 : Keeps [.regs, .evj, .cqe, .idx, .fmm, .cap] d d11 := by
    unfold d11
    refine Dev.replace_keeps rfl (fun x25 => ?_) ?_
    · exact fun _ h => (Dev.openAny_keeps _ h).step rfl .refl
    · exact h23
  have h26 : Keeps [.regs, .evj, .cqe, .idx, .fmm, .cap] d d13 := .set_fmm rfl h24
  have h27 : Keeps [.regs, .evj, .cqe, .idx, .fmm, .cap] d d14 := Dev.replaceBlocks_keeps.step rfl h26
  have h28 : Keeps [.regs, .evj, .cqe, .idx, .fmm, .cap] d d15 := Dev.modBushel_keeps.step rfl h27
  have h29 : Keeps [.regs, .evj, .cqe, .idx, .fmm, .cap] d d16 := Dev.modBushel_keeps.step rfl h28
  have h30 : Keeps [.regs, .evj, .cqe, .idx, .fmm, .cap] d d18 := .ite (Dev.log_keeps.step rfl (Dev.countN_keeps.step rfl h29)) h29
  exact Dev.nextColl_keeps.step rfl (Dev.floors_keeps.step rfl h30)

end Sys2Proof.Machine
end

