-- ==== Sys2Proof/Laws/SessionFrames.lean ====
section
/-! SUPPORT. Frame lemmas: sessions, placing commands at cores, the League and the Rod: each lemma `Dev.f_keeps` names the fields of the device that `Dev.f` may
change; every other field is as before. -/

open Sys2Proof

namespace Sys2Proof.Machine

theorem Dev.chargeLate_keeps {d : Dev} {ctx : Nat} {bytes : Nat} :
    Keeps [.cqe] d (Dev.chargeLate d ctx bytes) := by
  unfold Dev.chargeLate
  split
  · exact .refl
  · extract_lets u1 e2 e3 e4
    exact .set_cqe rfl .refl

theorem Dev.reportRefusal_keeps {d : Dev} {status : Nat} :
    Keeps [.regs, .evj, .vpl] d (Dev.reportRefusal d status) :=
  .ite (Dev.reportExhausted_keeps.step rfl .refl) .refl

theorem Dev.unlessRefused_keeps {m : List Part} {d0 d : Dev} {ctx : Nat} {refusal : Option (Nat × Nat)} {f : Dev → Dev}
    (c : covers m [.regs, .evj, .ports, .sess, .cqe, .vpl] = true) (hf : ∀ y, Keeps m y (f y)) (h : Keeps m d0 d) :
    Keeps m d0 (d.unlessRefused ctx refusal f) := by
  unfold Dev.unlessRefused
  split
  · exact Dev.finish_keeps.step (covers_trans c rfl) (Dev.reportRefusal_keeps.step (covers_trans c rfl) h)
  · exact (hf d).step (covers_self m) h

theorem Dev.imgFail_keeps {d : Dev} {sect : Nat} {stage : Nat} {code : Nat} :
    Keeps [.regs, .imgWin] d (Dev.imgFail d sect stage code) := by
  unfold Dev.imgFail
  extract_lets y1 d2
  have h3 : Keeps [.regs, .imgWin] d d2 := .set_imgWin rfl .refl
  exact Dev.setReg_keeps.step rfl h3

theorem Dev.newEpoch_keeps {d : Dev} {sid : Nat} :
    Keeps [.epochs] d (Dev.newEpoch d sid).2 := by
  unfold Dev.newEpoch
  extract_lets e1
  dsimp only
  exact .set_epochs rfl .refl

theorem Dev.imgOrphan_keeps {d : Dev} {sid : Nat} :
    Keeps [.regs, .imgWin] d (Dev.imgOrphan d sid) :=
  .ite (Dev.imgFail_keeps.step rfl .refl) .refl

theorem Dev.askNeighbour_keeps {d : Dev} {port : Nat} {v6 : Bool} {ip : Nat} :
    Keeps [.regs, .ports, .lge] d (Dev.askNeighbour d port v6 ip) := by
  unfold Dev.askNeighbour
  extract_lets own1 f2 asked3 y4
  exact Dev.queueFrame_keeps.step rfl (.set_lge rfl .refl)

theorem Dev.refuseOpen_keeps {d : Dev} {k : RxPkt} {status : Nat} :
    Keeps [.regs, .ports] d (Dev.refuseOpen d k status) :=
  Dev.count_keeps.step rfl (Dev.sendBack_keeps.step rfl .refl)

theorem Dev.authFail_keeps {d : Dev} {slot : Nat} {cause : Nat} {v6 : Bool} {ip : Nat} :
    Keeps [.regs, .evj] d (Dev.authFail d slot cause v6 ip) :=
  Dev.log_keeps.step rfl (Dev.raise_keeps.step rfl .refl)

theorem Dev.openLeague_keeps {d : Dev} {t : LgTarget} {relay : Bytes} :
    Keeps [.free, .regs, .ports, .sess, .epochs, .mat, .lge] d (Dev.openLeague d t relay) := by
  unfold Dev.openLeague
  split
  · extract_lets v61 ip2 y3
    split
    · extract_lets own4
      split
      · exact .refl
      · split
        · exact Dev.askNeighbour_keeps.step rfl .refl
        · extract_lets ck5 taken6 d7 k8
          have h9 : Keeps [.free, .regs, .ports, .sess, .epochs, .mat, .lge] d d7 := .set_lge rfl .refl
          split
          · exact h9
          · split
            next z10 z11 z12 z13 =>
              split
              next z14 z15 z16 z17 =>
                split
                next z18 z19 z20 z21 =>
                  extract_lets isn22 y23 s24 y25 y26 d27
                  have h28 : Keeps [.free, .regs, .ports, .sess, .epochs, .mat, .lge] d y25 := Dev.classInstall_keeps.step rfl ((Dev.draw_keeps.snd z21).step rfl ((Dev.draw_keeps.snd z17).step rfl ((Dev.newEpoch_keeps.snd z13).step rfl h9)))
                  have h29 : Keeps [.free, .regs, .ports, .sess, .epochs, .mat, .lge] d d27 := .upd (fun p hp => by cases p <;> first | exact absurd hp (by decide) | rfl) h28
                  exact Dev.sendPlain_keeps.step rfl h29
    · exact .refl

theorem Dev.sessFull_keeps {d : Dev} :
    Keeps [.regs, .rates, .evj] d (Dev.sessFull d) :=
  Dev.logLimited_keeps.step rfl (Dev.raise_keeps.step rfl .refl)

theorem Dev.roomFor_keeps {d : Dev} {admin : Bool} {league : Bool} {key : ClassKey} :
    Keeps [.regs, .rates, .evj] d (Dev.roomFor d admin league key).2 := by
  unfold Dev.roomFor
  split
  · dsimp only
    exact Dev.sessFull_keeps.step rfl .refl
  · split
    · dsimp only
      exact Dev.sessFull_keeps.step rfl .refl
    · split
      · dsimp only
        exact Dev.sessFull_keeps.step rfl (Dev.raise_keeps.step rfl .refl)
      · dsimp only
        exact .refl

theorem Dev.endUnavailable_keeps {d : Dev} {ctx : Nat} {id : Nat} :
    Keeps [.regs, .ports, .sess, .cqe] d (Dev.endUnavailable d ctx id) :=
  Dev.finish_keeps.step rfl (Dev.count_keeps.step rfl .refl)

theorem Dev.mirrorFail_keeps {d : Dev} {ctx : Nat} {id : Nat} {status : Nat} :
    Keeps [.regs, .evj, .ports, .sess, .cqe] d (Dev.mirrorFail d ctx id status) := by
  unfold Dev.mirrorFail
  split
  · exact .refl
  · extract_lets d1
    have h2 : Keeps [.regs, .evj, .ports, .sess, .cqe] d d1 := Dev.log_keeps.step rfl (Dev.raise_keeps.step rfl (Dev.count_keeps.step rfl .refl))
    exact Dev.endUnavailable_keeps.step rfl h2

theorem Dev.leagueSend_keeps {d : Dev} {sid : Nat} {req : Bytes} {kind : CallKind} :
    Keeps [.regs, .ports, .sess, .lge] d (Dev.leagueSend d sid req kind) := by
  unfold Dev.leagueSend
  extract_lets tag1 y2
  exact Dev.sendMessage_keeps.step rfl (.set_lge rfl .refl)

theorem Dev.leaguePump_keeps {d : Dev} :
    Keeps [.free, .regs, .ports, .sess, .epochs, .mat, .lge] d (Dev.leaguePump d) := by
  unfold Dev.leaguePump
  refine .foldl (fun y1 a2 => ?_) ?_
  · split
    · exact Dev.leagueSend_keeps.step rfl (.set_lge rfl .refl)
    · exact .ite .refl (Dev.openLeague_keeps.step rfl .refl)
  · exact .refl

theorem Dev.dropCalls_keeps {d : Dev} {sid : Nat} :
    Keeps [.regs, .evj, .ports, .sess, .cqe, .lge] d (Dev.dropCalls d sid) := by
  unfold Dev.dropCalls
  extract_lets gone1 y2 d3
  have h4 : Keeps [.regs, .evj, .ports, .sess, .cqe, .lge] d d3 := .set_lge rfl .refl
  refine .foldl (fun y5 a6 => ?_) ?_
  · split
    · exact Dev.mirrorFail_keeps.step rfl .refl
    · exact .refl
  · exact h4

theorem Dev.cutSession_keeps {d : Dev} {sid : Nat} {reason : Nat} :
    Keeps [.regs, .latches, .imgWin, .evj, .ports, .belowXoff, .cellsHeld, .sess, .cqe, .mat, .lge, .vpl, .fmm] d (Dev.cutSession d sid reason) := by
  unfold Dev.cutSession
  split
  · exact .refl
  · extract_lets d1
    have h2 : Keeps [.regs, .latches, .imgWin, .evj, .ports, .belowXoff, .cellsHeld, .sess, .cqe, .mat, .lge, .vpl, .fmm] d d1 := Dev.sendPlain_keeps.step rfl .refl
    split
    next z3 z4 z5 z6 =>
      extract_lets d7
      have h8 : Keeps [.regs, .latches, .imgWin, .evj, .ports, .belowXoff, .cellsHeld, .sess, .cqe, .mat, .lge, .vpl, .fmm] d d7 := Dev.log_keeps.step rfl (Dev.raise_keeps.step rfl (Dev.count_keeps.step rfl ((Dev.dropSession_keeps.fst z6).step rfl h2)))
      exact Dev.dropCalls_keeps.step rfl (Dev.imgOrphan_keeps.step rfl (Dev.cleanEngines_keeps.step rfl h8))

theorem Dev.leagueQueue_keeps {d : Dev} {t : LgTarget} {req : Bytes} {k : CallKind} :
    Keeps [.free, .regs, .ports, .sess, .epochs, .mat, .lge] d (Dev.leagueQueue d t req k) :=
  Dev.leaguePump_keeps.step rfl (.set_lge rfl .refl)

theorem Dev.memberLost_keeps {d : Dev} {id : Nat} {cause : Nat} :
    Keeps [.regs, .latches, .imgWin, .evj, .ports, .belowXoff, .cellsHeld, .sess, .cqe, .mat, .lge, .vpl, .fmm] d (Dev.memberLost d id cause) := by
  unfold Dev.memberLost
  split
  · exact .refl
  · split
    · extract_lets waits1 cut2 y3 d4 d5 d6 d7
      have h8 : Keeps [.regs, .latches, .imgWin, .evj, .ports, .belowXoff, .cellsHeld, .sess, .cqe, .mat, .lge, .vpl, .fmm] d d4 := .set_lge rfl .refl
      have h9 : Keeps [.regs, .latches, .imgWin, .evj, .ports, .belowXoff, .cellsHeld, .sess, .cqe, .mat, .lge, .vpl, .fmm] d d5 := .foldl (fun _ _ => (Dev.endUnavailable_keeps.step rfl .refl)) h8
      have h10 : Keeps [.regs, .latches, .imgWin, .evj, .ports, .belowXoff, .cellsHeld, .sess, .cqe, .mat, .lge, .vpl, .fmm] d d6 := Dev.log_keeps.step rfl (Dev.raise_keeps.step rfl h9)
      have h11 : Keeps [.regs, .latches, .imgWin, .evj, .ports, .belowXoff, .cellsHeld, .sess, .cqe, .mat, .lge, .vpl, .fmm] d d7 := by
        unfold d7
        split
        · exact Dev.cutSession_keeps.step rfl h10
        · exact h10
      split
      · exact Dev.cutSession_keeps.step rfl h11
      · exact h11
    · exact .refl

theorem Dev.leagueSessionEnded_keeps {d : Dev} {sid : Nat} {target : Option LgTarget} :
    Keeps [.regs, .latches, .imgWin, .evj, .ports, .belowXoff, .cellsHeld, .sess, .cqe, .mat, .lge, .vpl, .fmm] d (Dev.leagueSessionEnded d sid target) := by
  unfold Dev.leagueSessionEnded
  split
  · split
    · extract_lets was1 y2 d3
      have h4 : Keeps [.regs, .latches, .imgWin, .evj, .ports, .belowXoff, .cellsHeld, .sess, .cqe, .mat, .lge, .vpl, .fmm] d d3 := .set_lge rfl .refl
      exact .ite (Dev.log_keeps.step rfl (Dev.raise_keeps.step rfl h4)) h4
    · exact .refl
  · split
    · exact Dev.memberLost_keeps.step rfl .refl
    · exact .refl

theorem Dev.loseSession_keeps {d : Dev} {sid : Nat} {reason : Nat} :
    Keeps [.regs, .latches, .imgWin, .evj, .ports, .belowXoff, .cellsHeld, .sess, .cqe, .mat, .lge, .vpl, .fmm] d (Dev.loseSession d sid reason) := by
  unfold Dev.loseSession
  extract_lets target1
  exact Dev.leagueSessionEnded_keeps.step rfl (Dev.cutSession_keeps.step rfl .refl)

theorem Dev.endSession_keeps {d : Dev} {sid : Nat} :
    Keeps [.regs, .latches, .imgWin, .evj, .ports, .belowXoff, .cellsHeld, .sess, .cqe, .mat, .lge, .vpl, .fmm] d (Dev.endSession d sid) := by
  unfold Dev.endSession
  extract_lets target1 d2
  have h3 : Keeps [.regs, .latches, .imgWin, .evj, .ports, .belowXoff, .cellsHeld, .sess, .cqe, .mat, .lge, .vpl, .fmm] d d2 := Dev.dropCalls_keeps.step rfl (Dev.imgOrphan_keeps.step rfl (Dev.cleanEngines_keeps.step rfl (Dev.dropSession_keeps.step rfl .refl)))
  exact Dev.leagueSessionEnded_keeps.step rfl h3

theorem Dev.runHere_keeps {d : Dev} {ctx : Nat} :
    Keeps [.regs, .cqe] d (Dev.runHere d ctx) :=
  Dev.count_keeps.step rfl (Dev.modFlight_keeps.step rfl .refl)

theorem Dev.placeOff_keeps {d : Dev} {ctx : Nat} {dom : Nat} :
    Keeps [.regs, .ports, .sess, .cqe, .rod] d (Dev.placeOff d ctx dom) := by
  unfold Dev.placeOff
  extract_lets y1 d2
  have h3 : Keeps [.regs, .ports, .sess, .cqe, .rod] d d2 := .set_rod rfl .refl
  split
  · exact .ite (Dev.finish_keeps.step rfl (Dev.count_keeps.step rfl h3)) h3
  · exact h3

theorem Dev.redirect_keeps {d : Dev} {ctx : Nat} {c : Cmd} {member : Nat} :
    Keeps [.regs, .ports, .sess, .cqe] d (Dev.redirect d ctx c member) := by
  unfold Dev.redirect
  split
  · split
    · extract_lets expiry1 mt2 tail3
      exact Dev.finishWith_keeps.step rfl (Dev.count_keeps.step rfl .refl)
  · exact Dev.finish_keeps.step rfl .refl
  · exact Dev.finish_keeps.step rfl .refl

theorem Dev.relay_keeps {d : Dev} {ctx : Nat} {c : Cmd} {member : Nat} {mirror : Option Nat} :
    Keeps [.free, .regs, .ports, .sess, .epochs, .cqe, .mat, .lge] d (Dev.relay d ctx c member mirror) := by
  unfold Dev.relay
  extract_lets inner1 d2 y3 d4
  have h5 : Keeps [.free, .regs, .ports, .sess, .epochs, .cqe, .mat, .lge] d d2 := Dev.count_keeps.step rfl (Dev.modFlight_keeps.step rfl .refl)
  have h6 : Keeps [.free, .regs, .ports, .sess, .epochs, .cqe, .mat, .lge] d d4 := .ite h5 (.set_lge rfl h5)
  exact Dev.leagueQueue_keeps.step rfl h6

theorem Dev.handTo_keeps {d : Dev} {ctx : Nat} {c : Cmd} {member : Nat} :
    Keeps [.free, .regs, .ports, .sess, .epochs, .cqe, .mat, .lge] d (Dev.handTo d ctx c member) :=
  .ite (Dev.runHere_keeps.step rfl .refl) (.ite (Dev.relay_keeps.step rfl .refl) (Dev.redirect_keeps.step rfl .refl))

theorem Dev.placeBy_keeps {d : Dev} {ctx : Nat} {c : Cmd} {results : List (Option Nat)} :
    Keeps [.free, .regs, .ports, .sess, .epochs, .cqe, .mat, .lge] d (Dev.placeBy d ctx c results) := by
  unfold Dev.placeBy
  extract_lets d1 r2 dev3 x4 mirrorEn5 mirror6
  have h7 : Keeps [.free, .regs, .ports, .sess, .epochs, .cqe, .mat, .lge] d d1 := Dev.count_keeps.step rfl .refl
  split
  · exact Dev.finishWith_keeps.step rfl (Dev.count_keeps.step rfl (Dev.countStatus_keeps.step rfl h7))
  · exact .ite (Dev.runHere_keeps.step rfl h7) (.ite (.ite (Dev.handTo_keeps.step rfl h7) (.ite (Dev.relay_keeps.step rfl h7) (Dev.endUnavailable_keeps.step rfl h7))) (.ite (Dev.handTo_keeps.step rfl h7) (Dev.endUnavailable_keeps.step rfl h7)))

theorem Dev.placeFound_keeps {d : Dev} {ctx : Nat} {op : Nat} {r : Option Nat} :
    Keeps [.free, .regs, .ports, .sess, .epochs, .cqe, .mat, .rod, .lge] d (Dev.placeFound d ctx op r) := by
  unfold Dev.placeFound
  split
  · exact .refl
  · split
    · exact .refl
    · extract_lets found1 mine2 words3 y4 d5 results6
      have h7 : Keeps [.free, .regs, .ports, .sess, .epochs, .cqe, .mat, .rod, .lge] d d5 := .set_rod rfl .refl
      exact .ite (.set_rod rfl .refl) (Dev.placeBy_keeps.step rfl h7)

theorem Dev.placeOwn_keeps {d : Dev} {ctx : Nat} {op : Nat} {word : Nat} :
    Keeps [.free, .regs, .ports, .sess, .epochs, .cqe, .mat, .rod, .lge] d (Dev.placeOwn d ctx op word) := by
  unfold Dev.placeOwn
  extract_lets d1
  have h2 : Keeps [.free, .regs, .ports, .sess, .epochs, .cqe, .mat, .rod, .lge] d d1 := Dev.countSearch_keeps.step rfl .refl
  split
  · exact Dev.placeFound_keeps.step rfl h2
  · exact Dev.placeOff_keeps.step rfl h2
  · exact Dev.placeOff_keeps.step rfl h2

theorem Dev.startPlacing_keeps {d : Dev} {ctx : Nat} :
    Keeps [.free, .regs, .ports, .sess, .epochs, .cqe, .mat, .rod, .lge] d (Dev.startPlacing d ctx) := by
  unfold Dev.startPlacing
  split
  · exact .refl
  · extract_lets words1 d2 idx3 y4
    have h5 : Keeps [.free, .regs, .ports, .sess, .epochs, .cqe, .mat, .rod, .lge] d d2 := Dev.modFlight_keeps.step rfl .refl
    exact .ite (.set_rod rfl h5) (.foldl (fun _ _ => (Dev.placeOwn_keeps.step rfl .refl)) h5)

theorem Dev.rodDown_keeps {d : Dev} {next : RodState} {cause : Nat} :
    Keeps [.free, .regs, .evj, .ports, .sess, .epochs, .cqe, .mat, .rod, .lge] d (Dev.rodDown d next cause) := by
  unfold Dev.rodDown
  extract_lets wasUp1 out2 wait3 y4 d5 d6 d7
  have h8 : Keeps [.free, .regs, .evj, .ports, .sess, .epochs, .cqe, .mat, .rod, .lge] d d5 := .set_rod rfl .refl
  have h9 : Keeps [.free, .regs, .evj, .ports, .sess, .epochs, .cqe, .mat, .rod, .lge] d d6 := .foldl (fun _ _ => (.ite .refl (Dev.placeOff_keeps.step rfl .refl))) h8
  have h10 : Keeps [.free, .regs, .evj, .ports, .sess, .epochs, .cqe, .mat, .rod, .lge] d d7 := .foldl (fun _ _ => (Dev.placeOwn_keeps.step rfl .refl)) h9
  exact .ite (Dev.log_keeps.step rfl (Dev.raise_keeps.step rfl h10)) h10

theorem Dev.takeAnswer_keeps {d : Dev} {sid : Nat} {tag : Nat} :
    KeepsO [.sess, .lge] d (fun r => r.2.2) (Dev.takeAnswer d sid tag) := by
  unfold Dev.takeAnswer
  split
  · intro r hr
    rw [Option.map_eq_some_iff] at hr
    obtain ⟨a, _, rfl⟩ := hr
    exact .set_lge rfl (Dev.modSess_keeps.step rfl .refl)
  · exact .none

theorem Dev.dropPortion_keeps {d : Dev} :
    Keeps [.mat, .lge] d (Dev.dropPortion d) :=
  .upd (fun p hp => by cases p <;> first | exact absurd hp (by decide) | rfl) .refl

theorem Dev.joined_keeps {d : Dev} {msg : Bytes} :
    Keeps [.mat, .lge] d (Dev.joined d msg) := by
  unfold Dev.joined
  split
  · extract_lets gen1 y2 d3
    have h4 : Keeps [.mat, .lge] d d3 := .set_lge rfl .refl
    exact .ite (Dev.dropPortion_keeps.step rfl h4) h4
  · exact .set_lge rfl .refl

theorem Dev.memberUpNow_keeps {d : Dev} {id : Nat} :
    Keeps [.regs, .evj, .lge] d (Dev.memberUpNow d id) := by
  unfold Dev.memberUpNow
  split
  · exact .refl
  · extract_lets y1 d2
    have h3 : Keeps [.regs, .evj, .lge] d d2 := .set_lge rfl .refl
    exact Dev.log_keeps.step rfl (Dev.raise_keeps.step rfl h3)

theorem Dev.keepaliveSend_keeps {d : Dev} :
    Keeps [.regs, .ports, .sess, .lge] d (Dev.keepaliveSend d) := by
  unfold Dev.keepaliveSend
  split
  · split
    · extract_lets st1
      exact Dev.leagueSend_keeps.step rfl .refl
    · exact .refl
  · exact .refl

theorem Dev.dirSet_keeps {d : Dev} {ctx : Nat} {c : Cmd} :
    Keeps [.regs, .ports, .sess, .cqe, .mat, .lge] d (Dev.dirSet d ctx c) := by
  unfold Dev.dirSet
  extract_lets p1 y2
  split
  · extract_lets w3 e4 err5 a6 k7 d8
    have h9 : Keeps [.regs, .ports, .sess, .cqe, .mat, .lge] d d8 := .set_lge rfl .refl
    exact .ite (Dev.finish_keeps.step rfl .refl) (.ite (Dev.finish_keeps.step rfl (.set_lge rfl .refl)) (.ite (Dev.finish_keeps.step rfl .refl) (.ite (Dev.finish_keeps.step rfl .refl) (Dev.finish_keeps.step rfl (.ite (Dev.entryDel_keeps.step rfl h9) (Dev.entryPut_keeps.step rfl h9))))))

theorem Dev.sendJoin_keeps {d : Dev} :
    Keeps [.regs, .ports, .sess, .lge] d (Dev.sendJoin d) := by
  unfold Dev.sendJoin
  split
  · exact .ite .refl (Dev.leagueSend_keeps.step rfl (.set_lge rfl .refl))
  · exact .refl

theorem Dev.refuseJoin_keeps {d : Dev} {ctx : Nat} {id : Nat} {ip : Bytes} {status : Nat} {detail : Nat} :
    Keeps [.regs, .evj, .ports, .sess, .cqe] d (Dev.refuseJoin d ctx id ip status detail) :=
  Dev.finish_keeps.step rfl (Dev.log_keeps.step rfl (Dev.raise_keeps.step rfl .refl))

theorem Dev.keepalive_keeps {d : Dev} {ctx : Nat} {c : Cmd} :
    Keeps [.regs, .ports, .sess, .cqe, .lge] d (Dev.keepalive d ctx c) := by
  unfold Dev.keepalive
  split
  · exact Dev.finish_keeps.step rfl .refl
  · extract_lets f1 y2
    exact Dev.finish_keeps.step rfl (.set_lge rfl .refl)

theorem Dev.openDue_keeps {d : Dev} :
    Keeps [.free, .regs, .ports, .sess, .epochs, .mat, .lge] d (Dev.openDue d) := by
  unfold Dev.openDue
  extract_lets d1 d2 lone3
  have h4 : Keeps [.free, .regs, .ports, .sess, .epochs, .mat, .lge] d d1 := Dev.leaguePump_keeps.step rfl .refl
  have h5 : Keeps [.free, .regs, .ports, .sess, .epochs, .mat, .lge] d d2 := .ite (.ite (Dev.sendJoin_keeps.step rfl h4) (Dev.openLeague_keeps.step rfl h4)) h4
  exact .ite (.foldl (fun _ _ => (Dev.openLeague_keeps.step rfl .refl)) h5) h5

theorem Dev.joinRetry_keeps {d : Dev} :
    Keeps [.free, .regs, .latches, .evj, .ports, .belowXoff, .cellsHeld, .sess, .epochs, .cqe, .mat, .lge] d (Dev.joinRetry d) := by
  unfold Dev.joinRetry
  extract_lets stale1
  exact Dev.openDue_keeps.step rfl (.foldl (fun _ _ => (Dev.dropCalls_keeps.step rfl (Dev.dropSession_keeps.step rfl .refl))) .refl)

theorem Dev.replicaAnswered_keeps {d : Dev} {ctx : Nat} {id : Nat} {msg : Bytes} :
    Keeps [.regs, .evj, .ports, .sess, .cqe, .fmm] d (Dev.replicaAnswered d ctx id msg) := by
  unfold Dev.replicaAnswered
  extract_lets status1
  split
  · exact Dev.mirrorFail_keeps.step rfl .refl
  · split
    · exact Dev.ackWrite_keeps.step rfl (Dev.count_keeps.step rfl .refl)
    · exact .refl

theorem Dev.resolved_keeps {d : Dev} {port : Nat} {sc : Nat} {v6 : Bool} {ip : Nat} {mac : Nat} :
    Keeps [.free, .regs, .ports, .sess, .epochs, .mat, .lge] d (Dev.resolved d port sc v6 ip mac) := by
  unfold Dev.resolved
  split
  · extract_lets known1 y2
    exact Dev.openDue_keeps.step rfl (.set_lge rfl .refl)
  · exact .refl

theorem Dev.keepaliveMiss_keeps {d : Dev} {id : Nat} :
    Keeps [.regs, .latches, .imgWin, .evj, .ports, .belowXoff, .cellsHeld, .sess, .cqe, .mat, .lge, .vpl, .fmm] d (Dev.keepaliveMiss d id) := by
  unfold Dev.keepaliveMiss
  split
  · exact .refl
  · split
    · extract_lets y1 d2
      have h3 : Keeps [.regs, .latches, .imgWin, .evj, .ports, .belowXoff, .cellsHeld, .sess, .cqe, .mat, .lge, .vpl, .fmm] d d2 := Dev.count_keeps.step rfl (.set_lge rfl .refl)
      exact .ite (Dev.memberLost_keeps.step rfl h3) h3
    · exact .refl

theorem Dev.sendPortion_keeps {d : Dev} {id : Nat} {pos : Nat} :
    Keeps [.free, .regs, .ports, .sess, .epochs, .mat, .lge] d (Dev.sendPortion d id pos) := by
  unfold Dev.sendPortion
  extract_lets mine1 d2
  have h3 : Keeps [.free, .regs, .ports, .sess, .epochs, .mat, .lge] d d2 := by
    unfold d2
    refine .foldl (fun y4 a5 => ?_) ?_
    · extract_lets a6
      exact Dev.leagueQueue_keeps.step rfl .refl
    · exact .refl
  exact Dev.leagueQueue_keeps.step rfl h3

theorem Dev.join_keeps {d : Dev} {ctx : Nat} {c : Cmd} :
    Keeps [.free, .regs, .evj, .ports, .sess, .epochs, .cqe, .mat, .lge] d (Dev.join d ctx c) := by
  unfold Dev.join
  extract_lets p1 ok2 again3 y4
  split
  · split
    · extract_lets ip5 old6 held7 same8 deputy9 d10 m11 d12
      have h13 : Keeps [.free, .regs, .evj, .ports, .sess, .epochs, .cqe, .mat, .lge] d d10 := Dev.finishOk_keeps.step rfl (.set_lge rfl .refl)
      have h14 : Keeps [.free, .regs, .evj, .ports, .sess, .epochs, .cqe, .mat, .lge] d d12 := Dev.finishOk_keeps.step rfl (.set_lge rfl .refl)
      exact .ite (Dev.finish_keeps.step rfl .refl) (.ite (Dev.refuseJoin_keeps.step rfl .refl) (.ite (Dev.refuseJoin_keeps.step rfl .refl) (.ite (.ite (Dev.sendPortion_keeps.step rfl h13) h13) (.ite (Dev.sendPortion_keeps.step rfl h14) (Dev.openLeague_keeps.step rfl (Dev.memberUpNow_keeps.step rfl h14))))))

theorem Dev.flushMembers_keeps {d : Dev} {ctx : Nat} {session : Nat} :
    Keeps [.free, .regs, .ports, .sess, .epochs, .mat, .lge] d (Dev.flushMembers d ctx session) := by
  unfold Dev.flushMembers
  extract_lets ids1 y2 d3
  have h4 : Keeps [.free, .regs, .ports, .sess, .epochs, .mat, .lge] d d3 := .set_lge rfl .refl
  exact .ite (.foldl (fun _ _ => (Dev.leagueQueue_keeps.step rfl .refl)) h4) h4

theorem Dev.fenceAll_keeps {d : Dev} :
    Keeps [.free, .regs, .ports, .sess, .epochs, .mat, .lge] d (Dev.fenceAll d) := by
  unfold Dev.fenceAll
  extract_lets req1 ups2 d3 y4
  have h5 : Keeps [.free, .regs, .ports, .sess, .epochs, .mat, .lge] d d3 := .foldl (fun _ _ => (Dev.leagueQueue_keeps.step rfl (Dev.count_keeps.step rfl .refl))) .refl
  exact .set_lge rfl h5

theorem Dev.fence_keeps {d : Dev} {ctx : Nat} {c : Cmd} :
    Keeps [.regs, .latches, .imgWin, .evj, .ports, .belowXoff, .cellsHeld, .sess, .cqe, .mat, .lge, .vpl, .fmm] d (Dev.fence d ctx c) := by
  unfold Dev.fence
  split
  · exact Dev.finish_keeps.step rfl .refl
  · extract_lets t1 y2 d3 mine4
    have h5 : Keeps [.regs, .latches, .imgWin, .evj, .ports, .belowXoff, .cellsHeld, .sess, .cqe, .mat, .lge, .vpl, .fmm] d d3 := Dev.count_keeps.step rfl (.set_lge rfl .refl)
    exact Dev.finish_keeps.step rfl (.foldl (fun _ _ => (Dev.loseSession_keeps.step rfl .refl)) h5)

theorem Dev.leaveNow_keeps {d : Dev} {id : Nat} :
    Keeps [.regs, .latches, .imgWin, .evj, .ports, .belowXoff, .cellsHeld, .sess, .cqe, .mat, .lge, .vpl, .fmm] d (Dev.leaveNow d id) := by
  unfold Dev.leaveNow
  split
  · exact .refl
  · extract_lets y1 d2 d3 close4
    have h5 : Keeps [.regs, .latches, .imgWin, .evj, .ports, .belowXoff, .cellsHeld, .sess, .cqe, .mat, .lge, .vpl, .fmm] d d2 := .set_lge rfl .refl
    have h6 : Keeps [.regs, .latches, .imgWin, .evj, .ports, .belowXoff, .cellsHeld, .sess, .cqe, .mat, .lge, .vpl, .fmm] d d3 := by
      unfold d3
      split
      · exact Dev.finish_keeps.step rfl h5
      · exact h5
    unfold close4
    split
    · refine Dev.endSession_keeps.step rfl ?_
      refine Dev.sendPlain_keeps.step rfl ?_
      split
      · exact Dev.endSession_keeps.step rfl (Dev.sendPlain_keeps.step rfl h6)
      · exact h6
    · split
      · exact Dev.endSession_keeps.step rfl (Dev.sendPlain_keeps.step rfl h6)
      · exact h6

theorem Dev.dirChange_keeps {d : Dev} {clear : Bool} {session : Nat} {pos : Nat} {bank : Nat} {index : Nat} {e : MatEntry} :
    Keeps [.free, .regs, .evj, .ports, .sess, .epochs, .mat, .lge] d (Dev.dirChange d clear session pos bank index e) := by
  unfold Dev.dirChange
  split
  · exact .refl
  · extract_lets err1 y2 a3 k4 gen5 d6 d7 y8 d9
    have h10 : Keeps [.free, .regs, .evj, .ports, .sess, .epochs, .mat, .lge] d d6 := .set_lge rfl .refl
    have h11 : Keeps [.free, .regs, .evj, .ports, .sess, .epochs, .mat, .lge] d d7 := Dev.log_keeps.step rfl h10
    have h12 : Keeps [.free, .regs, .evj, .ports, .sess, .epochs, .mat, .lge] d d9 := .set_lge rfl h11
    split
    · exact .set_lge rfl .refl
    · split
      · exact Dev.fenceAll_keeps.step rfl (.ite (Dev.entryDel_keeps.step rfl h12) (Dev.entryPut_keeps.step rfl h12))
      · split
        · exact Dev.leagueQueue_keeps.step rfl h11
        · exact h11

theorem Dev.leaveIfDone_keeps {d : Dev} {id : Nat} :
    Keeps [.regs, .latches, .imgWin, .evj, .ports, .belowXoff, .cellsHeld, .sess, .cqe, .mat, .lge, .vpl, .fmm] d (Dev.leaveIfDone d id) := by
  unfold Dev.leaveIfDone
  split
  · exact .ite (Dev.leaveNow_keeps.step rfl .refl) .refl
  · exact .refl

theorem Dev.dirAnswered_keeps {d : Dev} {sid : Nat} {closing : Bool} {msg : Bytes} :
    Keeps [.free, .regs, .evj, .ports, .sess, .epochs, .mat, .lge] d (Dev.dirAnswered d sid closing msg) := by
  unfold Dev.dirAnswered
  split
  · exact .ite (.ite (Dev.memberUpNow_keeps.step rfl .refl) .refl) (.ite (Dev.fenceAll_keeps.step rfl (.set_lge rfl .refl)) .refl)
  · exact .refl

theorem Dev.leave_keeps {d : Dev} {ctx : Nat} {c : Cmd} :
    Keeps [.regs, .latches, .imgWin, .evj, .ports, .belowXoff, .cellsHeld, .sess, .cqe, .mat, .lge, .vpl, .fmm] d (Dev.leave d ctx c) := by
  unfold Dev.leave
  extract_lets id1 y2
  split
  · exact Dev.finish_keeps.step rfl .refl
  · split
    · exact Dev.finish_keeps.step rfl .refl
    · extract_lets d3
      have h4 : Keeps [.regs, .latches, .imgWin, .evj, .ports, .belowXoff, .cellsHeld, .sess, .cqe, .mat, .lge, .vpl, .fmm] d d3 := .set_lge rfl .refl
      exact Dev.leaveIfDone_keeps.step rfl (Dev.modFlight_keeps.step rfl h4)

theorem Dev.leagueAnswer_keeps {d : Dev} {sid : Nat} {tag : Nat} {msg : Bytes} :
    Keeps [.free, .regs, .latches, .imgWin, .evj, .ports, .belowXoff, .cellsHeld, .sess, .epochs, .cqe, .mat, .lge, .vpl, .fmm] d (Dev.leagueAnswer d sid tag msg) := by
  unfold Dev.leagueAnswer
  split
  · exact .refl
  · extract_lets y1 done2
    have h3 : Keeps [.free, .regs, .latches, .imgWin, .evj, .ports, .belowXoff, .cellsHeld, .sess, .epochs, .cqe, .mat, .lge, .vpl, .fmm] d done2 := .set_lge rfl .refl
    split
    · exact Dev.modSess_keeps.step rfl .refl
    · exact Dev.modSess_keeps.step rfl .refl
    · exact Dev.joined_keeps.step rfl h3
    · exact Dev.dirAnswered_keeps.step rfl h3
    · exact Dev.flushesDone_keeps.step rfl (Dev.leaveIfDone_keeps.step rfl h3)
    · exact h3

theorem Dev.relayAnswered_keeps {d : Dev} {ctx : Nat} {member : Nat} {msg : Bytes} :
    Keeps [.regs, .latches, .imgWin, .evj, .ports, .belowXoff, .cellsHeld, .sess, .cqe, .mat, .lge, .vpl, .fmm] d (Dev.relayAnswered d ctx member msg) :=
  Dev.flushesDone_keeps.step rfl (Dev.leaveIfDone_keeps.step rfl (Dev.finishWith_keeps.step rfl (Dev.countStatus_keeps.step rfl .refl)))

theorem Dev.entDone_keeps {d : Dev} {err : Nat} {valid : Bool} :
    Keeps [.mat] d (Dev.entDone d err valid) :=
  .set_mat rfl .refl

theorem Dev.ruleWritten_keeps {d : Dev} {a : Nat} :
    Keeps [.lge] d (Dev.ruleWritten d a) :=
  .set_lge rfl .refl

theorem Dev.modRod_keeps {d : Dev} {f : Rod → Rod} :
    Keeps [.rod] d (Dev.modRod d f) :=
  .set_rod rfl .refl

theorem Dev.setWide_keeps {d : Dev} {base : Nat} {v : Nat} :
    Keeps [.regs] d (Dev.setWide d base v) :=
  .foldl (fun _ _ => (Dev.setRegN_keeps.step rfl .refl)) .refl

theorem Dev.rodStart_keeps {d : Dev} :
    Keeps [.rod] d (Dev.rodStart d) :=
  .ite (Dev.modRod_keeps.step rfl .refl) .refl

theorem Dev.entRead_keeps {d : Dev} :
    Keeps [.regs, .mat] d (Dev.entRead d) := by
  unfold Dev.entRead
  split
  · split
    · exact Dev.entDone_keeps.step rfl .refl
    · extract_lets w1
      split
      · exact Dev.entDone_keeps.step rfl (Dev.setRegN_keeps.step rfl (Dev.setWide_keeps.step rfl (Dev.setWide_keeps.step rfl .refl)))
      · exact Dev.entDone_keeps.step rfl (Dev.setRegN_keeps.step rfl (Dev.setWide_keeps.step rfl (Dev.setWide_keeps.step rfl .refl)))

theorem Dev.entWrite_keeps {d : Dev} :
    Keeps [.regs, .mat, .lge] d (Dev.entWrite d) := by
  unfold Dev.entWrite
  split
  · extract_lets e1 err2 a3
    exact .ite (Dev.entDone_keeps.step rfl .refl) (Dev.entDone_keeps.step rfl (Dev.ruleWritten_keeps.step rfl (Dev.entryPut_keeps.step rfl .refl)))

theorem Dev.takeWord_keeps {d : Dev} {word : Nat} :
    Keeps [.regs, .rod] d (Dev.takeWord d word) :=
  .ite .refl (Dev.count_keeps.step rfl (Dev.modRod_keeps.step rfl .refl))

theorem Dev.diagSearch_keeps {d : Dev} :
    Keeps [.regs, .mat] d (Dev.diagSearch d) := by
  unfold Dev.diagSearch
  extract_lets banks1 f2 d3 y4
  have h5 : Keeps [.regs, .mat] d d3 := Dev.countSearch_keeps.step rfl .refl
  split
  · exact .set_mat rfl h5
  · exact .set_mat rfl h5

theorem Dev.tokenPass_keeps {d : Dev} {t : Nat} :
    Keeps [.regs, .rod] d (Dev.tokenPass d t) := by
  unfold Dev.tokenPass
  split
  · exact Dev.modRod_keeps.step rfl .refl
  · split
    · exact Dev.modRod_keeps.step rfl .refl
    · extract_lets out1
      exact Dev.modRod_keeps.step rfl (Dev.countSearch_keeps.step rfl .refl)

theorem Dev.startCheck_keeps {d : Dev} :
    Keeps [.regs, .rod] d (Dev.startCheck d) :=
  Dev.count_keeps.step rfl (Dev.modRod_keeps.step rfl .refl)

theorem Dev.entClear_keeps {d : Dev} :
    Keeps [.regs, .mat, .lge] d (Dev.entClear d) := by
  unfold Dev.entClear
  split
  · extract_lets a1 old2
    exact .ite (Dev.entDone_keeps.step rfl .refl) (.ite (Dev.entDone_keeps.step rfl .refl) (.ite (Dev.entDone_keeps.step rfl .refl) (Dev.entDone_keeps.step rfl (Dev.ruleWritten_keeps.step rfl (Dev.entryDel_keeps.step rfl .refl)))))

theorem Dev.entCtl_keeps {d : Dev} {w : Nat} :
    Keeps [.regs, .mat, .lge] d (Dev.entCtl d w) :=
  .ite (Dev.entWrite_keeps.step rfl .refl) (.ite (Dev.entRead_keeps.step rfl .refl) (.ite (Dev.entClear_keeps.step rfl .refl) .refl))

theorem Dev.checkRetry_keeps {d : Dev} :
    Keeps [.regs, .rod] d (Dev.checkRetry d) :=
  .ite (Dev.startCheck_keeps.step rfl .refl) .refl

theorem Dev.aliveUp_keeps {d : Dev} :
    Keeps [.regs, .rod] d (Dev.aliveUp d) := by
  unfold Dev.aliveUp
  extract_lets d1
  have h2 : Keeps [.regs, .rod] d d1 := Dev.modRod_keeps.step rfl .refl
  exact .ite (.ite (Dev.startCheck_keeps.step rfl h2) (Dev.modRod_keeps.step rfl h2)) h2

theorem Dev.checkDone_keeps {d : Dev} {samples : List (List Nat)} {back : Bool} :
    Keeps [.regs, .evj, .rod] d (Dev.checkDone d samples back) := by
  unfold Dev.checkDone
  split
  · exact .refl
  · extract_lets head1
    split
    · extract_lets bad2 results3 d4 p5
      have h6 : Keeps [.regs, .evj, .rod] d d4 := Dev.modRod_keeps.step rfl .refl
      exact .ite (Dev.log_keeps.step rfl (Dev.raise_keeps.step rfl (Dev.modRod_keeps.step rfl h6))) (Dev.log_keeps.step rfl (Dev.raise_keeps.step rfl (Dev.modRod_keeps.step rfl h6)))

theorem Dev.dirRestore_keeps {d : Dev} {a : Nat} :
    Keeps [.regs, .evj, .mat, .lge] d (Dev.dirRestore d a) := by
  unfold Dev.dirRestore
  split
  · exact .ite (Dev.log_keeps.step rfl (Dev.raise_keeps.step rfl (Dev.ruleWritten_keeps.step rfl (Dev.entryPut_keeps.step rfl .refl)))) .refl
  · exact .refl

theorem Dev.sendWord_keeps {d : Dev} :
    Keeps [.free, .regs, .ports, .sess, .epochs, .cqe, .mat, .rod, .lge] d (Dev.sendWord d) := by
  unfold Dev.sendWord
  split
  · exact Dev.modRod_keeps.step rfl .refl
  · split
    · exact Dev.count_keeps.step rfl (Dev.modRod_keeps.step rfl .refl)
    · extract_lets word1 token2 d3 d4
      have h5 : Keeps [.free, .regs, .ports, .sess, .epochs, .cqe, .mat, .rod, .lge] d d3 := Dev.count_keeps.step rfl (Dev.modRod_keeps.step rfl .refl)
      have h6 : Keeps [.free, .regs, .ports, .sess, .epochs, .cqe, .mat, .rod, .lge] d d4 := Dev.countSearch_keeps.step rfl h5
      split
      · exact Dev.placeFound_keeps.step rfl (Dev.modRod_keeps.step rfl h6)
      · exact Dev.placeOff_keeps.step rfl (Dev.modRod_keeps.step rfl h6)
      · exact Dev.modRod_keeps.step rfl h6

theorem Dev.loseEntry_keeps {d : Dev} {a : Nat} {e : MatEntry} :
    Keeps [.regs, .latches, .imgWin, .evj, .ports, .belowXoff, .cellsHeld, .sess, .cqe, .mat, .lge, .vpl, .fmm] d (Dev.loseEntry d a e) := by
  unfold Dev.loseEntry
  extract_lets bank1 y2 d3 d4 y5
  have h6 : Keeps [.regs, .latches, .imgWin, .evj, .ports, .belowXoff, .cellsHeld, .sess, .cqe, .mat, .lge, .vpl, .fmm] d d3 := .set_mat rfl .refl
  have h7 : Keeps [.regs, .latches, .imgWin, .evj, .ports, .belowXoff, .cellsHeld, .sess, .cqe, .mat, .lge, .vpl, .fmm] d d4 := Dev.log_keeps.step rfl (Dev.raise_keeps.step rfl (Dev.count_keeps.step rfl h6))
  exact .ite (.ite (Dev.loseSession_keeps.step rfl h7) h7) (.ite (.set_lge rfl h7) h7)

theorem Dev.rodSlot_keeps {d : Dev} {word : Option Nat} :
    Keeps [.free, .regs, .ports, .sess, .epochs, .cqe, .mat, .rod, .lge] d (Dev.rodSlot d word) := by
  unfold Dev.rodSlot
  split
  · exact .refl
  · split
    · exact Dev.sendWord_keeps.step rfl .refl
    · split
      · split
        · exact Dev.takeWord_keeps.step rfl .refl
        · exact .refl
      · exact .refl

theorem Dev.tokenHome_keeps {d : Dev} {t : Nat} :
    Keeps [.free, .regs, .ports, .sess, .epochs, .cqe, .mat, .rod, .lge] d (Dev.tokenHome d t) := by
  unfold Dev.tokenHome
  split
  · exact .ite (Dev.modRod_keeps.step rfl .refl) .refl
  · extract_lets d1 d2 d3
    have h4 : Keeps [.free, .regs, .ports, .sess, .epochs, .cqe, .mat, .rod, .lge] d d1 := Dev.modRod_keeps.step rfl .refl
    have h5 : Keeps [.free, .regs, .ports, .sess, .epochs, .cqe, .mat, .rod, .lge] d d2 := .ite (Dev.count_keeps.step rfl h4) h4
    have h6 : Keeps [.free, .regs, .ports, .sess, .epochs, .cqe, .mat, .rod, .lge] d d3 := .ite (Dev.count_keeps.step rfl h5) h5
    exact .ite h6 (.ite (Dev.placeFound_keeps.step rfl h6) (.ite (Dev.placeOff_keeps.step rfl h6) (Dev.placeFound_keeps.step rfl h6)))

theorem Dev.scrubStep_keeps {d : Dev} {r : ScrubRead} :
    Keeps [.regs, .latches, .rates, .imgWin, .evj, .ports, .belowXoff, .cellsHeld, .sess, .cqe, .mat, .lge, .vpl, .fmm] d (Dev.scrubStep d r) := by
  unfold Dev.scrubStep
  extract_lets u1 y2 d3
  have h4 : Keeps [.regs, .latches, .rates, .imgWin, .evj, .ports, .belowXoff, .cellsHeld, .sess, .cqe, .mat, .lge, .vpl, .fmm] d d3 := .set_mat rfl .refl
  split
  · exact .refl
  · split
    · exact h4
    · exact Dev.logLimited_keeps.step rfl (Dev.raise_keeps.step rfl (Dev.count_keeps.step rfl h4))
    · split
      · exact Dev.loseEntry_keeps.step rfl h4
      · exact h4

theorem Dev.rodCheck_keeps {d : Dev} :
    Keeps [.free, .regs, .ports, .sess, .epochs, .cqe, .mat, .rod, .lge] d (Dev.rodCheck d) := by
  unfold Dev.rodCheck
  split
  · extract_lets out1 wait2 d3 d4
    have h5 : Keeps [.free, .regs, .ports, .sess, .epochs, .cqe, .mat, .rod, .lge] d d3 := Dev.startCheck_keeps.step rfl (Dev.modRod_keeps.step rfl .refl)
    have h6 : Keeps [.free, .regs, .ports, .sess, .epochs, .cqe, .mat, .rod, .lge] d d4 := .foldl (fun _ _ => (Dev.placeOwn_keeps.step rfl .refl)) h5
    exact Dev.raise_keeps.step rfl (Dev.modRod_keeps.step rfl h6)
  · exact .refl

theorem Dev.rodToken_keeps {d : Dev} {t : Nat} :
    Keeps [.free, .regs, .ports, .sess, .epochs, .cqe, .mat, .rod, .lge] d (Dev.rodToken d t) :=
  .ite (Dev.tokenHome_keeps.step rfl .refl) (.ite (Dev.tokenPass_keeps.step rfl .refl) .refl)

theorem Dev.aliveLow_keeps {d : Dev} :
    Keeps [.free, .regs, .evj, .ports, .sess, .epochs, .cqe, .mat, .rod, .lge] d (Dev.aliveLow d) := by
  unfold Dev.aliveLow
  extract_lets d1
  have h2 : Keeps [.free, .regs, .evj, .ports, .sess, .epochs, .cqe, .mat, .rod, .lge] d d1 := Dev.modRod_keeps.step rfl .refl
  exact .ite (Dev.rodDown_keeps.step rfl h2) h2

theorem Dev.rodOff_keeps {d : Dev} :
    Keeps [.free, .regs, .evj, .ports, .sess, .epochs, .cqe, .mat, .rod, .lge] d (Dev.rodOff d) :=
  Dev.modRod_keeps.step rfl (Dev.rodDown_keeps.step rfl .refl)

theorem Dev.tokenLost_keeps {d : Dev} :
    Keeps [.free, .regs, .rates, .evj, .ports, .sess, .epochs, .cqe, .mat, .rod, .lge] d (Dev.tokenLost d) := by
  unfold Dev.tokenLost
  split
  · exact .refl
  · extract_lets n1 d2 d3 d4
    have h5 : Keeps [.free, .regs, .rates, .evj, .ports, .sess, .epochs, .cqe, .mat, .rod, .lge] d d2 := Dev.count_keeps.step rfl (Dev.modRod_keeps.step rfl .refl)
    have h6 : Keeps [.free, .regs, .rates, .evj, .ports, .sess, .epochs, .cqe, .mat, .rod, .lge] d d3 := Dev.logLimited_keeps.step rfl (Dev.raise_keeps.step rfl h5)
    have h7 : Keeps [.free, .regs, .rates, .evj, .ports, .sess, .epochs, .cqe, .mat, .rod, .lge] d d4 := .ite h6 (Dev.placeOff_keeps.step rfl h6)
    exact .ite (Dev.modRod_keeps.step rfl (Dev.rodDown_keeps.step rfl h7)) h7

theorem Dev.rodClkLost_keeps {d : Dev} :
    Keeps [.free, .regs, .evj, .ports, .sess, .epochs, .cqe, .mat, .rod, .lge] d (Dev.rodClkLost d) := by
  unfold Dev.rodClkLost
  split
  · extract_lets d1
    have h2 : Keeps [.free, .regs, .evj, .ports, .sess, .epochs, .cqe, .mat, .rod, .lge] d d1 := Dev.modRod_keeps.step rfl .refl
    exact .ite (Dev.rodDown_keeps.step rfl (Dev.modRod_keeps.step rfl h2)) h2
  · exact .refl

end Sys2Proof.Machine
end

