-- ==== Sys2Proof/Laws/TransportFrames.lean ====
section
/-! SUPPORT. Frame lemmas: packets of every type, frames at the ports, dispatch: each lemma `Dev.f_keeps` names the fields of the device that `Dev.f` may
change; every other field is as before. -/

open Sys2Proof

namespace Sys2Proof.Machine

theorem Dev.deadMessage_keeps {d : Dev} {sid : Nat} {queue : Nat} {tag : Nat} {eom : Bool} :
    Keeps [.sess] d (Dev.deadMessage d sid queue tag eom) :=
  .ite .refl (Dev.modSess_keeps.step rfl .refl)

theorem Dev.takePkt_keeps {d : Dev} {pid : Nat} {type : Nat} {keep : Bool} :
    KeepsO [.ports, .belowXoff, .rx, .cellsHeld] d (fun r => r.2) (Dev.takePkt d pid type keep) := by
  unfold Dev.takePkt
  split
  · split
    · refine .some ?_
      dsimp only
      exact .ite (Dev.claimPkt_keeps.step rfl .refl) (Dev.dropPkt_keeps.step rfl .refl)
    · exact .none
  · exact .none

theorem Dev.noSession_keeps {d : Dev} :
    Keeps [.regs] d (Dev.noSession d) :=
  Dev.count_keeps.step rfl .refl

theorem Dev.challengePkt_keeps {d : Dev} {sid : Nat} {k : RxPkt} :
    Keeps [.regs, .ports, .sess] d (Dev.challengePkt d sid k) := by
  unfold Dev.challengePkt
  split
  · exact .refl
  · split
    · exact .refl
    · split
      · extract_lets d1
        have h2 : Keeps [.regs, .ports, .sess] d d1 := Dev.modSess_keeps.step rfl .refl
        exact Dev.sendPlain_keeps.step rfl h2
      · exact .refl

theorem Dev.kaSend_keeps {d : Dev} {sid : Nat} :
    Keeps [.regs, .ports, .sess] d (Dev.kaSend d sid) := by
  unfold Dev.kaSend
  split
  · exact .ite .refl (Dev.sendPlain_keeps.step rfl .refl)
  · exact .refl

theorem Dev.sendChallenge_keeps {d : Dev} {sid : Nat} :
    Keeps [.regs, .ports, .sess] d (Dev.sendChallenge d sid) := by
  unfold Dev.sendChallenge
  split
  · exact Dev.sendPacket_keeps.step rfl .refl
  · exact .refl

theorem Dev.established_keeps {d : Dev} {sid : Nat} {priv : Nat} {slotField : Nat} {accept : Bytes} :
    Keeps [.regs, .evj, .ports, .sess] d (Dev.established d sid priv slotField accept) := by
  unfold Dev.established
  extract_lets d1 y2
  have h3 : Keeps [.regs, .evj, .ports, .sess] d d1 := Dev.modSess_keeps.step rfl .refl
  split
  · extract_lets d4
    have h5 : Keeps [.regs, .evj, .ports, .sess] d d4 := Dev.count_keeps.step rfl (Dev.sendPacket_keeps.step rfl h3)
    exact Dev.log_keeps.step rfl h5
  · exact h3

theorem Dev.refuseTicket_keeps {d : Dev} {k : RxPkt} {cause : Nat} :
    Keeps [.regs, .evj, .ports] d (Dev.refuseTicket d k cause) := by
  unfold Dev.refuseTicket
  extract_lets d1 d2
  have h3 : Keeps [.regs, .evj, .ports] d d1 := Dev.log_keeps.step rfl (Dev.raise_keeps.step rfl (Dev.count_keeps.step rfl .refl))
  have h4 : Keeps [.regs, .evj, .ports] d d2 := .ite (Dev.count_keeps.step rfl h3) h3
  exact Dev.refuseOpen_keeps.step rfl h4

theorem Dev.challenge_keeps {d : Dev} {sid : Nat} {k : RxPkt} {slot : Nat} {priv : Nat} {hostWin : Nat} {key : KeyGen} {league : Bool} :
    Keeps [.free, .regs, .ports, .sess, .epochs, .mat] d (Dev.challenge d sid k slot priv hostWin key league) := by
  unfold Dev.challenge
  split
  next z1 z2 z3 z4 =>
    split
    next z5 z6 z7 z8 =>
      split
      next z9 z10 z11 z12 =>
        extract_lets s13 y14 d15
        have h16 : Keeps [.free, .regs, .ports, .sess, .epochs, .mat] d y14 := Dev.classInstall_keeps.step rfl ((Dev.draw_keeps.snd z12).step rfl ((Dev.draw_keeps.snd z8).step rfl ((Dev.newEpoch_keeps.snd z4).step rfl .refl)))
        have h17 : Keeps [.free, .regs, .ports, .sess, .epochs, .mat] d d15 := .set_sess rfl h16
        exact Dev.sendChallenge_keeps.step rfl h17

theorem Dev.ticketPkt_keeps {d : Dev} {k : RxPkt} :
    Keeps [.free, .regs, .rates, .evj, .ports, .sess, .epochs, .mat, .lge] d (Dev.ticketPkt d k) := by
  unfold Dev.ticketPkt
  extract_lets p1
  split
  · split
    · exact Dev.noSession_keeps.step rfl .refl
    · split
      · exact Dev.count_keeps.step rfl .refl
      · split
        · exact Dev.refuseTicket_keeps.step rfl .refl
        · split
          next z2 z3 z4 =>
            exact Dev.refuseOpen_keeps.step rfl ((Dev.roomFor_keeps.snd z4).step rfl .refl)
          next z5 z6 z7 z8 =>
            split
            · exact Dev.refuseOpen_keeps.step rfl ((Dev.roomFor_keeps.snd z8).step rfl .refl)
            · split
              next z9 z10 z11 z12 =>
                split
                next z13 z14 z15 z16 =>
                  extract_lets s17 y18 y19 d20
                  have h21 : Keeps [.free, .regs, .rates, .evj, .ports, .sess, .epochs, .mat, .lge] d y18 := Dev.classInstall_keeps.step rfl ((Dev.draw_keeps.snd z16).step rfl ((Dev.newEpoch_keeps.snd z12).step rfl ((Dev.roomFor_keeps.snd z8).step rfl .refl)))
                  have h22 : Keeps [.free, .regs, .rates, .evj, .ports, .sess, .epochs, .mat, .lge] d d20 := .upd (fun p hp => by cases p <;> first | exact absurd hp (by decide) | rfl) h21
                  exact Dev.established_keeps.step rfl h22

theorem Dev.openNew_keeps {d : Dev} {k : RxPkt} :
    Keeps [.free, .regs, .rates, .evj, .ports, .sess, .epochs, .mat] d (Dev.openNew d k) := by
  unfold Dev.openNew
  extract_lets p1 ip2
  split
  · extract_lets fail3 winOk4 openWith5
    split
    · split
      · exact Dev.refuseOpen_keeps.step rfl (Dev.authFail_keeps.step rfl .refl)
      · split
        · exact Dev.refuseOpen_keeps.step rfl .refl
        · unfold openWith5
          split
          next z6 z7 z8 =>
            exact Dev.refuseOpen_keeps.step rfl ((Dev.roomFor_keeps.snd z8).step rfl .refl)
          next z9 z10 z11 z12 =>
            exact .ite (Dev.refuseOpen_keeps.step rfl ((Dev.roomFor_keeps.snd z12).step rfl .refl)) (Dev.challenge_keeps.step rfl ((Dev.roomFor_keeps.snd z12).step rfl .refl))
    · split
      · exact Dev.refuseOpen_keeps.step rfl (Dev.authFail_keeps.step rfl .refl)
      · split
        · exact Dev.refuseOpen_keeps.step rfl (Dev.authFail_keeps.step rfl .refl)
        · split
          · exact Dev.refuseOpen_keeps.step rfl .refl
          · unfold openWith5
            split
            next z13 z14 z15 =>
              exact Dev.refuseOpen_keeps.step rfl ((Dev.roomFor_keeps.snd z15).step rfl .refl)
            next z16 z17 z18 z19 =>
              exact .ite (Dev.refuseOpen_keeps.step rfl ((Dev.roomFor_keeps.snd z19).step rfl .refl)) (Dev.challenge_keeps.step rfl ((Dev.roomFor_keeps.snd z19).step rfl .refl))

theorem Dev.openPkt_keeps {d : Dev} {k : RxPkt} :
    Keeps [.free, .regs, .rates, .evj, .ports, .sess, .epochs, .mat] d (Dev.openPkt d k) := by
  unfold Dev.openPkt
  split
  · exact Dev.count_keeps.step rfl .refl
  · split
    · exact Dev.openNew_keeps.step rfl .refl
    · split
      · exact .ite (Dev.sendChallenge_keeps.step rfl .refl) (Dev.noSession_keeps.step rfl .refl)
      · exact Dev.noSession_keeps.step rfl .refl

theorem Dev.stopMessage_keeps {d : Dev} {sid : Nat} {queue : Nat} {detail : Nat} {eom : Bool} :
    Keeps [.regs, .ports, .belowXoff, .cellsHeld, .sess, .cqe, .vpl, .fmm] d (Dev.stopMessage d sid queue detail eom) := by
  unfold Dev.stopMessage
  extract_lets d1
  have h2 : Keeps [.regs, .ports, .belowXoff, .cellsHeld, .sess, .cqe, .vpl, .fmm] d d1 := Dev.cleanEngines_keeps.step rfl (Dev.breakMessage_keeps.step rfl .refl)
  exact .ite (Dev.endMessage_keeps.step rfl h2) h2

theorem Dev.arrive_keeps {d : Dev} {sid : Nat} {queue : Nat} {tag : Nat} {cells : Nat} {carried : Nat} {b : Bytes} {eom : Bool} :
    Keeps [.regs, .rates, .evj, .ports, .belowXoff, .cellsHeld, .sess, .cqe] d (Dev.arrive d sid queue tag cells carried b eom).1 := by
  unfold Dev.arrive
  split
  · dsimp only
    exact .refl
  · extract_lets a1 op2 refuse3
    split
    · exact Dev.freeCells_keeps.step rfl (Dev.refuseTag_keeps.step rfl .refl)
    · split
      · exact Dev.freeCells_keeps.step rfl (Dev.refuseTag_keeps.step rfl .refl)
      · split
        next z4 z5 z6 z7 =>
          dsimp only
          exact (Dev.enqueue_keeps.fst z7).step rfl .refl
        next z8 z9 z10 =>
          dsimp only
          exact Dev.freeCells_keeps.step rfl ((Dev.enqueue_keeps.fst z10).step rfl .refl)

theorem Dev.firstPacket_keeps {d : Dev} {sid : Nat} {s : Sess} {k : RxPkt} :
    Keeps [.regs, .rates, .evj, .ports, .belowXoff, .cellsHeld, .sess, .cqe] d (Dev.firstPacket d sid s k) := by
  unfold Dev.firstPacket
  extract_lets h1 b2
  split
  · exact Dev.deadMessage_keeps.step rfl (Dev.freeCells_keeps.step rfl (Dev.refuseTag_keeps.step rfl .refl))
  · split
    · exact Dev.modSess_keeps.step rfl .refl
    · split
      next z3 z4 z5 =>
        exact Dev.deadMessage_keeps.step rfl ((Dev.arrive_keeps.fst z5).step rfl .refl)
      next z6 z7 z8 z9 =>
        exact .ite ((Dev.arrive_keeps.fst z9).step rfl .refl) (Dev.modSess_keeps.step rfl ((Dev.arrive_keeps.fst z9).step rfl .refl))

theorem Dev.settleDrain_keeps {d : Dev} {sid : Nat} :
    Keeps [.regs, .latches, .imgWin, .evj, .ports, .belowXoff, .cellsHeld, .sess, .cqe, .mat, .lge, .vpl, .fmm] d (Dev.settleDrain d sid) := by
  unfold Dev.settleDrain
  split
  · exact .refl
  · extract_lets busy1 p2
    exact .ite (Dev.sendFirst_keeps.step rfl (Dev.modSess_keeps.step rfl .refl)) (.ite (Dev.log_keeps.step rfl (Dev.endSession_keeps.step rfl .refl)) .refl)

theorem Dev.killSession_keeps {d : Dev} {sid : Nat} :
    Keeps [.regs, .latches, .imgWin, .evj, .ports, .belowXoff, .cellsHeld, .sess, .cqe, .mat, .lge, .vpl, .fmm] d (Dev.killSession d sid) :=
  Dev.loseSession_keeps.step rfl .refl

theorem Dev.closeArrives_keeps {d : Dev} {sid : Nat} {s : Sess} :
    Keeps [.regs, .latches, .imgWin, .evj, .ports, .belowXoff, .cellsHeld, .sess, .cqe, .mat, .lge, .vpl, .fmm] d (Dev.closeArrives d sid s) := by
  unfold Dev.closeArrives
  split
  · exact Dev.endSession_keeps.step rfl (Dev.sendPlain_keeps.step rfl .refl)
  · extract_lets open_1 d2
    have h3 : Keeps [.regs, .latches, .imgWin, .evj, .ports, .belowXoff, .cellsHeld, .sess, .cqe, .mat, .lge, .vpl, .fmm] d d2 := .foldl (fun _ _ => (Dev.stopMessage_keeps.step rfl .refl)) .refl
    exact Dev.settleDrain_keeps.step rfl (.ite (Dev.modSess_keeps.step rfl h3) h3)

theorem Dev.nextPacket_keeps {d : Dev} {sid : Nat} {m : InMsg} {k : RxPkt} :
    Keeps [.free, .regs, .rates, .sec, .evj, .ports, .belowXoff, .cellsHeld, .sess, .cqe, .vpl, .fmm, .cap] d (Dev.nextPacket d sid m k) := by
  unfold Dev.nextPacket
  extract_lets h1 b2 next3 d4 keep5 d6
  have h7 : Keeps [.free, .regs, .rates, .sec, .evj, .ports, .belowXoff, .cellsHeld, .sess, .cqe, .vpl, .fmm, .cap] d d4 := Dev.freeCells_keeps.step rfl .refl
  have h8 : Keeps [.free, .regs, .rates, .sec, .evj, .ports, .belowXoff, .cellsHeld, .sess, .cqe, .vpl, .fmm, .cap] d d6 := Dev.modSess_keeps.step rfl .refl
  split
  · exact .ite (Dev.endMessage_keeps.step rfl h7) h7
  · split
    · exact Dev.stopMessage_keeps.step rfl (Dev.freeCells_keeps.step rfl .refl)
    · split
      · exact Dev.stopMessage_keeps.step rfl (Dev.freeCells_keeps.step rfl .refl)
      · split
        · extract_lets d9
          have h10 : Keeps [.free, .regs, .rates, .sec, .evj, .ports, .belowXoff, .cellsHeld, .sess, .cqe, .vpl, .fmm, .cap] d d9 := Dev.modSess_keeps.step rfl (Dev.feed_keeps.step rfl .refl)
          exact Dev.advance_keeps.step rfl h10
        · exact .ite (Dev.arrive_keeps.step rfl h8) (Dev.modSess_keeps.step rfl .refl)

theorem Dev.openExpired_keeps {d : Dev} {sid : Nat} :
    Keeps [.regs, .latches, .imgWin, .evj, .ports, .belowXoff, .cellsHeld, .sess, .cqe, .mat, .lge, .vpl, .fmm] d (Dev.openExpired d sid) := by
  unfold Dev.openExpired
  split
  · exact .ite (Dev.endSession_keeps.step rfl .refl) .refl
  · exact .refl

theorem Dev.refuseProof_keeps {d : Dev} {sid : Nat} {status : Nat} :
    Keeps [.regs, .latches, .imgWin, .evj, .ports, .belowXoff, .cellsHeld, .sess, .cqe, .mat, .lge, .vpl, .fmm] d (Dev.refuseProof d sid status) :=
  Dev.endSession_keeps.step rfl (Dev.count_keeps.step rfl (Dev.sendPlain_keeps.step rfl .refl))

theorem Dev.refusePkt_keeps {d : Dev} {sid : Nat} :
    Keeps [.regs, .latches, .imgWin, .evj, .ports, .belowXoff, .cellsHeld, .sess, .cqe, .mat, .lge, .vpl, .fmm] d (Dev.refusePkt d sid) := by
  unfold Dev.refusePkt
  split
  · exact .ite (Dev.endSession_keeps.step rfl .refl) .refl
  · exact .refl

theorem Dev.ackPkt_keeps {d : Dev} {sid : Nat} {k : RxPkt} :
    Keeps [.regs, .latches, .imgWin, .evj, .ports, .belowXoff, .cellsHeld, .sess, .cqe, .mat, .lge, .vpl, .fmm] d (Dev.ackPkt d sid k) := by
  unfold Dev.ackPkt
  split
  · exact .refl
  · split
    · exact .refl
    · extract_lets d1 d2
      have h3 : Keeps [.regs, .latches, .imgWin, .evj, .ports, .belowXoff, .cellsHeld, .sess, .cqe, .mat, .lge, .vpl, .fmm] d d1 := Dev.absorbAck_keeps.step rfl .refl
      have h4 : Keeps [.regs, .latches, .imgWin, .evj, .ports, .belowXoff, .cellsHeld, .sess, .cqe, .mat, .lge, .vpl, .fmm] d d2 := .ite (Dev.sendPlain_keeps.step rfl h3) h3
      exact Dev.settleDrain_keeps.step rfl h4

theorem Dev.retxTimeout_keeps {d : Dev} {sid : Nat} :
    Keeps [.regs, .latches, .imgWin, .evj, .ports, .belowXoff, .cellsHeld, .sess, .cqe, .mat, .lge, .vpl, .fmm] d (Dev.retxTimeout d sid) := by
  unfold Dev.retxTimeout
  split
  · exact .refl
  · split
    · exact .refl
    · split
      · exact .refl
      · split
        · exact .ite (Dev.endSession_keeps.step rfl .refl) (Dev.loseSession_keeps.step rfl .refl)
        · extract_lets d1
          have h2 : Keeps [.regs, .latches, .imgWin, .evj, .ports, .belowXoff, .cellsHeld, .sess, .cqe, .mat, .lge, .vpl, .fmm] d d1 := Dev.modSess_keeps.step rfl .refl
          exact Dev.count_keeps.step rfl (Dev.sendTx_keeps.step rfl h2)

theorem Dev.acceptPkt_keeps {d : Dev} {sid : Nat} {k : RxPkt} :
    Keeps [.free, .regs, .latches, .imgWin, .evj, .ports, .belowXoff, .cellsHeld, .sess, .epochs, .cqe, .mat, .lge, .vpl, .fmm] d (Dev.acceptPkt d sid k) := by
  unfold Dev.acceptPkt
  split
  · exact .refl
  · split
    · exact .refl
    · split
      · extract_lets priv1 d2 y3 d4 d5 d6
        have h7 : Keeps [.free, .regs, .latches, .imgWin, .evj, .ports, .belowXoff, .cellsHeld, .sess, .epochs, .cqe, .mat, .lge, .vpl, .fmm] d d2 := Dev.modSess_keeps.step rfl .refl
        have h8 : Keeps [.free, .regs, .latches, .imgWin, .evj, .ports, .belowXoff, .cellsHeld, .sess, .epochs, .cqe, .mat, .lge, .vpl, .fmm] d d4 := by
          unfold d4
          split
          · exact .set_lge rfl h7
          · exact h7
        have h9 : Keeps [.free, .regs, .latches, .imgWin, .evj, .ports, .belowXoff, .cellsHeld, .sess, .epochs, .cqe, .mat, .lge, .vpl, .fmm] d d5 := Dev.log_keeps.step rfl (Dev.count_keeps.step rfl h8)
        have h10 : Keeps [.free, .regs, .latches, .imgWin, .evj, .ports, .belowXoff, .cellsHeld, .sess, .epochs, .cqe, .mat, .lge, .vpl, .fmm] d d6 := .ite (Dev.sendJoin_keeps.step rfl h9) h9
        exact .ite (Dev.leaguePump_keeps.step rfl h10) (Dev.endSession_keeps.step rfl .refl)
      · exact .refl

theorem Dev.kaLoss_keeps {d : Dev} {sid : Nat} :
    Keeps [.regs, .latches, .imgWin, .evj, .ports, .belowXoff, .cellsHeld, .sess, .cqe, .mat, .lge, .vpl, .fmm] d (Dev.kaLoss d sid) := by
  unfold Dev.kaLoss
  split
  · exact .ite (Dev.loseSession_keeps.step rfl .refl) .refl
  · exact .refl

theorem Dev.answerPacket_keeps {d : Dev} {sid : Nat} {s : Sess} {k : RxPkt} :
    Keeps [.free, .regs, .latches, .imgWin, .evj, .ports, .belowXoff, .cellsHeld, .sess, .epochs, .cqe, .mat, .lge, .vpl, .fmm] d (Dev.answerPacket d sid s k) := by
  unfold Dev.answerPacket
  extract_lets h1 d2 b3
  have h4 : Keeps [.free, .regs, .latches, .imgWin, .evj, .ports, .belowXoff, .cellsHeld, .sess, .epochs, .cqe, .mat, .lge, .vpl, .fmm] d d2 := Dev.freeCells_keeps.step rfl .refl
  exact .ite (Dev.leagueAnswer_keeps.step rfl (Dev.modSess_keeps.step rfl h4)) (Dev.modSess_keeps.step rfl h4)

theorem Dev.proofPkt_keeps {d : Dev} {sid : Nat} {k : RxPkt} :
    Keeps [.regs, .latches, .imgWin, .evj, .ports, .belowXoff, .cellsHeld, .sess, .cqe, .mat, .lge, .vpl, .fmm] d (Dev.proofPkt d sid k) := by
  unfold Dev.proofPkt
  split
  · exact .refl
  · split
    · exact .refl
    · split
      · split
        · exact Dev.refuseProof_keeps.step rfl .refl
        · split
          · extract_lets proof1
            exact Dev.established_keeps.step rfl .refl
          · exact Dev.refuseProof_keeps.step rfl (Dev.authFail_keeps.step rfl .refl)
      · exact .ite (Dev.sendPacket_keeps.step rfl .refl) .refl

theorem Dev.deliver_keeps {d : Dev} {sid : Nat} {k : RxPkt} :
    Keeps [.free, .regs, .latches, .rates, .imgWin, .sec, .evj, .ports, .belowXoff, .cellsHeld, .sess, .epochs, .cqe, .mat, .lge, .vpl, .fmm, .cap] d (Dev.deliver d sid k) := by
  unfold Dev.deliver
  extract_lets d1 d2
  have h3 : Keeps [.free, .regs, .latches, .rates, .imgWin, .sec, .evj, .ports, .belowXoff, .cellsHeld, .sess, .epochs, .cqe, .mat, .lge, .vpl, .fmm, .cap] d d1 := Dev.modSess_keeps.step rfl .refl
  have h4 : Keeps [.free, .regs, .latches, .rates, .imgWin, .sec, .evj, .ports, .belowXoff, .cellsHeld, .sess, .epochs, .cqe, .mat, .lge, .vpl, .fmm, .cap] d d2 := Dev.freeCells_keeps.step rfl h3
  split
  · exact h3
  · split
    · exact Dev.closeArrives_keeps.step rfl (Dev.freeCells_keeps.step rfl h3)
    · split
      · exact Dev.answerPacket_keeps.step rfl h3
      · split
        · exact .ite (Dev.refuseTag_keeps.step rfl h4) h4
        · split
          · exact .ite (Dev.firstPacket_keeps.step rfl (Dev.stopMessage_keeps.step rfl h3)) (Dev.nextPacket_keeps.step rfl h3)
          · exact .ite (Dev.firstPacket_keeps.step rfl h3) (Dev.freeCells_keeps.step rfl h3)

theorem Dev.deliverHeld_keeps {sid : Nat} {n : Nat} {d : Dev} :
    Keeps [.free, .regs, .latches, .rates, .imgWin, .sec, .evj, .ports, .belowXoff, .cellsHeld, .sess, .epochs, .cqe, .mat, .lge, .vpl, .fmm, .cap] d (Dev.deliverHeld sid n d) := by
  induction n generalizing sid d with
  | zero =>
    unfold Dev.deliverHeld
    exact .refl
  | succ n1 ih =>
    unfold Dev.deliverHeld
    split
    · exact .refl
    · split
      · exact ih.step rfl (Dev.deliver_keeps.step rfl .refl)
      · exact .refl

theorem Dev.seqPkt_keeps {d : Dev} {sid : Nat} {k : RxPkt} :
    Keeps [.free, .regs, .latches, .rates, .imgWin, .sec, .evj, .ports, .belowXoff, .cellsHeld, .sess, .epochs, .cqe, .mat, .lge, .vpl, .fmm, .cap] d (Dev.seqPkt d sid k) := by
  unfold Dev.seqPkt
  split
  · exact Dev.freeCells_keeps.step rfl .refl
  · split
    · exact Dev.freeCells_keeps.step rfl .refl
    · extract_lets d1 seq2 d3
      have h4 : Keeps [.free, .regs, .latches, .rates, .imgWin, .sec, .evj, .ports, .belowXoff, .cellsHeld, .sess, .epochs, .cqe, .mat, .lge, .vpl, .fmm, .cap] d d1 := Dev.absorbAck_keeps.step rfl .refl
      have h5 : Keeps [.free, .regs, .latches, .rates, .imgWin, .sec, .evj, .ports, .belowXoff, .cellsHeld, .sess, .epochs, .cqe, .mat, .lge, .vpl, .fmm, .cap] d d3 := Dev.modSess_keeps.step rfl h4
      exact .ite (Dev.sendPlain_keeps.step rfl (Dev.freeCells_keeps.step rfl (Dev.count_keeps.step rfl h4))) (.ite (Dev.sendPlain_keeps.step rfl (Dev.freeCells_keeps.step rfl (Dev.count_keeps.step rfl h4))) (Dev.settleDrain_keeps.step rfl (Dev.sendPlain_keeps.step rfl (Dev.deliverHeld_keeps.step rfl h5))))

theorem Dev.ctRestore_keeps {d : Dev} :
    Keeps [.ports] d (Dev.ctRestore d) :=
  Dev.modPort_keeps.step rfl .refl

theorem Dev.statClear_keeps {d : Dev} {n : Nat} :
    Keeps [.ports] d (Dev.statClear d n) :=
  Dev.modPort_keeps.step rfl .refl

theorem Dev.modLanes_keeps {d : Dev} {n : Nat} {f : Lane → Lane} :
    Keeps [.lanes] d (Dev.modLanes d n f) :=
  .foldl (fun _ _ => (Dev.modLane_keeps.step rfl .refl)) .refl

theorem Dev.flipLane_keeps {d : Dev} {n : Nat} {l : Nat} :
    Keeps [.regs, .ports, .lanes] d (Dev.flipLane d n l) :=
  .ite (Dev.portCount_keeps.step rfl (Dev.modLane_keeps.step rfl .refl)) .refl

theorem Dev.countTx_keeps {d : Dev} {n : Nat} {f : TxFrame} :
    Keeps [.regs, .ports] d (Dev.countTx d n f) := by
  unfold Dev.countTx
  extract_lets d1 d2
  have h3 : Keeps [.regs, .ports] d d1 := Dev.portCount_keeps.step rfl (Dev.portCount_keeps.step rfl (Dev.portCount_keeps.step rfl .refl))
  have h4 : Keeps [.regs, .ports] d d2 := Dev.portCount_keeps.step rfl h3
  split
  · exact Dev.portCount_keeps.step rfl h4
  · exact Dev.portCount_keeps.step rfl h4
  · exact Dev.portCount_keeps.step rfl h4

theorem Dev.pfcRx_keeps {d : Dev} {n : Nat} {vector : Nat} {times : List Nat} :
    Keeps [.regs, .ports] d (Dev.pfcRx d n vector times) := by
  unfold Dev.pfcRx
  extract_lets d1 d2 en3 p4 gone5 most6 d7 left8 set9 held10
  have h11 : Keeps [.regs, .ports] d d1 := Dev.portCount_keeps.step rfl .refl
  have h12 : Keeps [.regs, .ports] d d2 := .foldl (fun _ _ => (.ite (Dev.portCount_keeps.step rfl .refl) .refl)) h11
  have h13 : Keeps [.regs, .ports] d d7 := Dev.portCount_keeps.step rfl h12
  exact .ite h12 (Dev.modPort_keeps.step rfl h13)

theorem Dev.polarityTimer_keeps {d : Dev} {l : Nat} :
    Keeps [.regs, .ports, .lanes] d (Dev.polarityTimer d l) := by
  unfold Dev.polarityTimer
  split
  · exact .ite (Dev.flipLane_keeps.step rfl .refl) .refl
  · exact .refl

theorem Dev.remoteClear_keeps {d : Dev} {n : Nat} :
    Keeps [.regs, .ports] d (Dev.remoteClear d n) :=
  .ite (Dev.raise_keeps.step rfl (Dev.modPort_keeps.step rfl .refl)) .refl

theorem Dev.signalDetect_keeps {d : Dev} {n : Nat} :
    Keeps [.ports, .lanes] d (Dev.signalDetect d n) :=
  .ite (Dev.modPort_keeps.step rfl (Dev.modLanes_keeps.step rfl .refl)) .refl

theorem Dev.xoffRepeat_keeps {d : Dev} {n : Nat} :
    Keeps [.ports] d (Dev.xoffRepeat d n) :=
  .ite (Dev.sendFlow_keeps.step rfl .refl) .refl

theorem Dev.errorBlocks_keeps {d : Dev} {l : Nat} :
    Keeps [.regs, .ports, .lanes] d (Dev.errorBlocks d l) := by
  unfold Dev.errorBlocks
  split
  · exact .ite (Dev.flipLane_keeps.step rfl .refl) .refl
  · exact .refl

theorem Dev.laneLock_keeps {d : Dev} {n : Nat} {fec : List Nat} :
    Keeps [.ports, .lanes] d (Dev.laneLock d n fec) := by
  unfold Dev.laneLock
  split
  · extract_lets d1 d2
    have h3 : Keeps [.ports, .lanes] d d1 := Dev.modLanes_keeps.step rfl .refl
    have h4 : Keeps [.ports, .lanes] d d2 := .ite (.foldl (fun _ _ => (Dev.modLane_keeps.step rfl .refl)) h3) h3
    exact Dev.modPort_keeps.step rfl h4
  · exact .refl

theorem Dev.pauseExpiry_keeps {d : Dev} {n : Nat} {prio : Option Nat} :
    Keeps [.regs, .ports] d (Dev.pauseExpiry d n prio) := by
  unfold Dev.pauseExpiry
  split
  · extract_lets left1
    exact .ite .refl (Dev.portCount_keeps.step rfl (Dev.modPort_keeps.step rfl .refl))
  · split
    · exact .refl
    · split
      · exact .refl
      · extract_lets rest2 d3
        have h4 : Keeps [.regs, .ports] d d3 := Dev.modPort_keeps.step rfl .refl
        exact .ite (Dev.portCount_keeps.step rfl h4) h4

theorem Dev.pauseRx_keeps {d : Dev} {n : Nat} {quanta : Nat} :
    Keeps [.regs, .ports] d (Dev.pauseRx d n quanta) := by
  unfold Dev.pauseRx
  extract_lets d1 p2 d3
  have h4 : Keeps [.regs, .ports] d d1 := Dev.portCount_keeps.step rfl .refl
  have h5 : Keeps [.regs, .ports] d d3 := Dev.portCount_keeps.step rfl h4
  exact .ite (Dev.modPort_keeps.step rfl h5) h4

theorem Dev.notAdmitted_keeps {d : Dev} {n : Nat} {cells : Nat} :
    Keeps [.regs, .ports, .belowXoff, .cellsHeld] d (Dev.notAdmitted d n cells) :=
  Dev.freeCells_keeps.step rfl (Dev.portCount_keeps.step rfl .refl)

theorem Dev.keepPkt_keeps {d : Dev} {k : RxPkt} :
    Keeps [.regs, .rx, .rxNext, .sess] d (Dev.keepPkt d k) := by
  unfold Dev.keepPkt
  extract_lets d1 y2
  have h3 : Keeps [.regs, .rx, .rxNext, .sess] d d1 := by
    unfold d1
    split
    · exact Dev.modSess_keeps.step rfl .refl
    · exact .refl
  have h4 : Keeps [.regs, .rx, .rxNext, .sess] d y2 := Dev.count_keeps.step rfl h3
  exact .upd (fun p hp => by cases p <;> first | exact absurd hp (by decide) | rfl) h4

theorem Dev.remoteFault_keeps {d : Dev} {n : Nat} :
    Keeps [.regs, .ports] d (Dev.remoteFault d n) := by
  unfold Dev.remoteFault
  split
  · extract_lets d1
    have h2 : Keeps [.regs, .ports] d d1 := Dev.dropQueue_keeps.step rfl (Dev.stomp_keeps.step rfl .refl)
    exact Dev.raise_keeps.step rfl (Dev.raise_keeps.step rfl (Dev.modPort_keeps.step rfl h2))
  · exact .refl

theorem Dev.laneStuck_keeps {d : Dev} {n : Nat} :
    Keeps [.regs, .evj, .ports] d (Dev.laneStuck d n) := by
  unfold Dev.laneStuck
  extract_lets p1 dead2
  exact .ite (Dev.log_keeps.step rfl (Dev.raise_keeps.step rfl (Dev.modPort_keeps.step rfl .refl))) .refl

theorem Dev.txUnderrun_keeps {d : Dev} {n : Nat} {sent : Nat} :
    Keeps [.regs, .evj, .ports] d (Dev.txUnderrun d n sent) := by
  unfold Dev.txUnderrun
  extract_lets p1 ct2
  split
  · extract_lets len3 d4
    have h5 : Keeps [.regs, .evj, .ports] d d4 := Dev.modPort_keeps.step rfl (Dev.cutFrame_keeps.step rfl .refl)
    exact .ite (Dev.log_keeps.step rfl (Dev.raise_keeps.step rfl (Dev.raise_keeps.step rfl h5))) .refl
  · exact .refl

theorem Dev.rxDkt_keeps {d : Dev} {n : Nat} {sc : Nat} {srcMac : Nat} {cells : Nat} {g : Datagram} :
    Keeps [.regs, .ports, .belowXoff, .rx, .rxNext, .cellsHeld, .sess] d (Dev.rxDkt d n sc srcMac cells g) := by
  unfold Dev.rxDkt
  extract_lets key1 found2 d3 drop4 h5 k6
  have h7 : Keeps [.regs, .ports, .belowXoff, .rx, .rxNext, .cellsHeld, .sess] d d3 := Dev.countSearch_keeps.step rfl .refl
  split
  · exact Dev.notAdmitted_keeps.step rfl (Dev.count_keeps.step rfl h7)
  · split
    · exact Dev.notAdmitted_keeps.step rfl (Dev.count_keeps.step rfl h7)
    · split
      · exact Dev.notAdmitted_keeps.step rfl (Dev.count_keeps.step rfl h7)
      · extract_lets sid8
        split
        · split
          · exact Dev.keepPkt_keeps.step rfl h7
          · split
            · exact Dev.notAdmitted_keeps.step rfl (Dev.count_keeps.step rfl h7)
            · exact Dev.keepPkt_keeps.step rfl h7
        · exact .ite (Dev.keepPkt_keeps.step rfl h7) (Dev.notAdmitted_keeps.step rfl (Dev.count_keeps.step rfl h7))

theorem Dev.holdDone_keeps {d : Dev} {n : Nat} :
    Keeps [.regs, .evj, .ports] d (Dev.holdDone d n) := by
  unfold Dev.holdDone
  extract_lets p1 d2 d3 d4
  have h5 : Keeps [.regs, .evj, .ports] d d2 := Dev.raise_keeps.step rfl (Dev.modPort_keeps.step rfl .refl)
  have h6 : Keeps [.regs, .evj, .ports] d d3 := Dev.log_keeps.step rfl h5
  have h7 : Keeps [.regs, .evj, .ports] d d4 := .foldl (fun _ _ => (.ite (Dev.log_keeps.step rfl .refl) .refl)) h6
  exact .ite (.ite (Dev.log_keeps.step rfl (Dev.portCount_keeps.step rfl h7)) h7) .refl

theorem Dev.poolDrop_keeps {d : Dev} {n : Nat} :
    Keeps [.regs, .rates, .evj, .ports, .poolLow, .belowXoff, .cellsHeld] d (Dev.poolDrop d n) := by
  unfold Dev.poolDrop
  extract_lets held1 d2 low3 d4
  have h5 : Keeps [.regs, .rates, .evj, .ports, .poolLow, .belowXoff, .cellsHeld] d d2 := Dev.takeCells_keeps.step rfl .refl
  have h6 : Keeps [.regs, .rates, .evj, .ports, .poolLow, .belowXoff, .cellsHeld] d d4 := Dev.logKeyed_keeps.step rfl (Dev.raise_keeps.step rfl (Dev.portCount_keeps.step rfl h5))
  exact Dev.freeCells_keeps.step rfl h6

theorem Dev.rxBad_keeps {d : Dev} {n : Nat} {f : Frame} {counter : Nat} :
    Keeps [.regs, .ports, .poolLow, .belowXoff, .cellsHeld] d (Dev.rxBad d n f counter) := by
  unfold Dev.rxBad
  extract_lets d1
  have h2 : Keeps [.regs, .ports, .poolLow, .belowXoff, .cellsHeld] d d1 := Dev.portCount_keeps.step rfl .refl
  exact .ite (Dev.passCells_keeps.step rfl h2) h2

theorem Dev.leaveLink_keeps {d : Dev} {n : Nat} {cause : Nat} {record : Bool} :
    Keeps [.regs, .evj, .ports] d (Dev.leaveLink d n cause record) := by
  unfold Dev.leaveLink
  extract_lets p1 d2 d3
  have h4 : Keeps [.regs, .evj, .ports] d d2 := Dev.portCount_keeps.step rfl (Dev.dropQueue_keeps.step rfl (Dev.stomp_keeps.step rfl .refl))
  have h5 : Keeps [.regs, .evj, .ports] d d3 := Dev.raiseIf_keeps.step rfl h4
  exact .ite (.ite (Dev.log_keeps.step rfl h5) h5) .refl

theorem Dev.txStart_keeps {d : Dev} {n : Nat} :
    Keeps [.regs, .sec, .evj, .ports] d (Dev.txStart d n) := by
  unfold Dev.txStart
  extract_lets p1
  split
  · split
    · exact .refl
    · extract_lets d2
      have h3 : Keeps [.regs, .sec, .evj, .ports] d d2 := Dev.modPort_keeps.step rfl .refl
      split
      · split
        · exact Dev.count_keeps.step rfl h3
        · exact Dev.modPort_keeps.step rfl (Dev.countTx_keeps.step rfl (Dev.saUse_keeps.step rfl h3))
      · exact Dev.modPort_keeps.step rfl (Dev.countTx_keeps.step rfl h3)
  · exact .refl

theorem Dev.portDown_keeps {d : Dev} {n : Nat} {cause : Nat} {record : Bool} :
    Keeps [.regs, .evj, .ports, .lanes] d (Dev.portDown d n cause record) := by
  unfold Dev.portDown
  extract_lets p1 d2 d3 d4
  have h5 : Keeps [.regs, .evj, .ports, .lanes] d d2 := Dev.leaveLink_keeps.step rfl .refl
  have h6 : Keeps [.regs, .evj, .ports, .lanes] d d3 := .ite (Dev.portCount_keeps.step rfl h5) h5
  have h7 : Keeps [.regs, .evj, .ports, .lanes] d d4 := Dev.portCount_keeps.step rfl h6
  exact Dev.modPort_keeps.step rfl (Dev.modLanes_keeps.step rfl h7)

theorem Dev.rxPool_keeps {d : Dev} {n : Nat} {sc : Nat} {f : Frame} :
    Keeps [.pins, .regs, .rates, .evj, .ports, .poolLow, .belowXoff, .rx, .rxNext, .cellsHeld, .sess] d (Dev.rxPool d n sc f) := by
  unfold Dev.rxPool
  extract_lets cells1 d2 y3 d4
  have h5 : Keeps [.pins, .regs, .rates, .evj, .ports, .poolLow, .belowXoff, .rx, .rxNext, .cellsHeld, .sess] d d2 := Dev.takeCells_keeps.step rfl .refl
  have h6 : Keeps [.pins, .regs, .rates, .evj, .ports, .poolLow, .belowXoff, .rx, .rxNext, .cellsHeld, .sess] d d4 := .set_pins rfl h5
  split
  · exact Dev.poolDrop_keeps.step rfl .refl
  · split
    · exact .ite (Dev.notAdmitted_keeps.step rfl (Dev.count_keeps.step rfl h6)) (.ite (Dev.notAdmitted_keeps.step rfl (Dev.count_keeps.step rfl h6)) (.ite (Dev.notAdmitted_keeps.step rfl h6) (Dev.rxDkt_keeps.step rfl h6)))
    · exact Dev.notAdmitted_keeps.step rfl (.ite (Dev.count_keeps.step rfl h6) h6)
    · exact Dev.notAdmitted_keeps.step rfl h6

theorem Dev.signalLoss_keeps {d : Dev} {l : Nat} :
    Keeps [.regs, .evj, .ports, .lanes] d (Dev.signalLoss d l) := by
  unfold Dev.signalLoss
  extract_lets d1
  have h2 : Keeps [.regs, .evj, .ports, .lanes] d d1 := Dev.modLane_keeps.step rfl .refl
  split
  · exact .ite h2 (Dev.portDown_keeps.step rfl h2)
  · exact h2

theorem Dev.linkFault_keeps {d : Dev} {n : Nat} {cause : Nat} :
    Keeps [.regs, .evj, .ports, .lanes] d (Dev.linkFault d n cause) := by
  unfold Dev.linkFault
  extract_lets p1 d2 d3 d4
  have h5 : Keeps [.regs, .evj, .ports, .lanes] d d2 := .ite (Dev.raise_keeps.step rfl (Dev.modPort_keeps.step rfl .refl)) .refl
  have h6 : Keeps [.regs, .evj, .ports, .lanes] d d3 := Dev.leaveLink_keeps.step rfl h5
  have h7 : Keeps [.regs, .evj, .ports, .lanes] d d4 := .ite (Dev.portCount_keeps.step rfl (Dev.modLanes_keeps.step rfl h6)) h6
  exact .ite (Dev.modPort_keeps.step rfl h7) h5

theorem Dev.rxLong_keeps {d : Dev} {n : Nat} {f : Frame} :
    Keeps [.regs, .rates, .evj, .ports, .poolLow, .belowXoff, .cellsHeld] d (Dev.rxLong d n f) :=
  .ite (Dev.poolDrop_keeps.step rfl .refl) (Dev.rxBad_keeps.step rfl .refl)

theorem Dev.rxAccepted_keeps {d : Dev} {n : Nat} {sc : Nat} {f : Frame} :
    Keeps [.free, .pins, .regs, .rates, .evj, .ports, .poolLow, .belowXoff, .rx, .rxNext, .cellsHeld, .sess, .epochs, .mat, .lge] d (Dev.rxAccepted d n sc f) := by
  unfold Dev.rxAccepted
  split
  · exact .ite .refl (.ite (Dev.queueFrame_keeps.step rfl .refl) (Dev.resolved_keeps.step rfl .refl))
  · exact .ite (Dev.queueFrame_keeps.step rfl .refl) .refl
  · exact Dev.resolved_keeps.step rfl .refl
  · exact Dev.rxPool_keeps.step rfl .refl

theorem Dev.rxGood_keeps {d : Dev} {n : Nat} {f : Frame} :
    Keeps [.free, .pins, .regs, .rates, .sec, .evj, .ports, .poolLow, .belowXoff, .rx, .rxNext, .cellsHeld, .sess, .epochs, .mat, .lge] d (Dev.rxGood d n f) := by
  unfold Dev.rxGood
  split
  · exact Dev.portCount_keeps.step rfl .refl
  · split
    · split
      · exact .ite (Dev.pauseRx_keeps.step rfl .refl) (.ite (Dev.pfcRx_keeps.step rfl .refl) (Dev.portCount_keeps.step rfl .refl))
      · exact Dev.portCount_keeps.step rfl .refl
    · split
      · split
        · exact Dev.portCount_keeps.step rfl .refl
        · split
          · exact Dev.rxAccepted_keeps.step rfl (Dev.secPass_keeps.step rfl .refl)
          · exact Dev.portCount_keeps.step rfl (Dev.count_keeps.step rfl .refl)
          · exact Dev.portCount_keeps.step rfl .refl
      · exact .ite (Dev.portCount_keeps.step rfl .refl) (Dev.rxAccepted_keeps.step rfl .refl)

theorem Dev.rxFrame_keeps {d : Dev} {f : Frame} :
    Keeps [.free, .pins, .regs, .rates, .sec, .evj, .ports, .poolLow, .belowXoff, .rx, .rxNext, .cellsHeld, .sess, .epochs, .mat, .lge] d (Dev.rxFrame d f) := by
  unfold Dev.rxFrame
  extract_lets n1 d2 d3 d4
  have h5 : Keeps [.free, .pins, .regs, .rates, .sec, .evj, .ports, .poolLow, .belowXoff, .rx, .rxNext, .cellsHeld, .sess, .epochs, .mat, .lge] d d2 := Dev.portCount_keeps.step rfl (Dev.portCount_keeps.step rfl (Dev.portCount_keeps.step rfl .refl))
  have h6 : Keeps [.free, .pins, .regs, .rates, .sec, .evj, .ports, .poolLow, .belowXoff, .rx, .rxNext, .cellsHeld, .sess, .epochs, .mat, .lge] d d3 := Dev.portCount_keeps.step rfl (Dev.portCount_keeps.step rfl (Dev.portCount_keeps.step rfl h5))
  have h7 : Keeps [.free, .pins, .regs, .rates, .sec, .evj, .ports, .poolLow, .belowXoff, .rx, .rxNext, .cellsHeld, .sess, .epochs, .mat, .lge] d d4 := Dev.portCount_keeps.step rfl (Dev.portCount_keeps.step rfl h6)
  exact .ite .refl (.ite (Dev.rxBad_keeps.step rfl h5) (.ite (Dev.rxBad_keeps.step rfl h5) (.ite (Dev.rxLong_keeps.step rfl h5) (.ite (Dev.portCount_keeps.step rfl (Dev.rxBad_keeps.step rfl h5)) (Dev.rxGood_keeps.step rfl h7)))))

theorem Dev.pauseDispatch_keeps {d : Dev} :
    Keeps [.cqe] d (Dev.pauseDispatch d) :=
  .set_cqe rfl .refl

theorem Dev.arbWindow_keeps {d : Dev} :
    Keeps [.cqe] d (Dev.arbWindow d) := by
  unfold Dev.arbWindow
  extract_lets e1
  exact .set_cqe rfl .refl

theorem Dev.resumeDispatch_keeps {d : Dev} :
    Keeps [.cqe] d (Dev.resumeDispatch d) := by
  unfold Dev.resumeDispatch
  extract_lets y1 d2
  have h3 : Keeps [.cqe] d d2 := .set_cqe rfl .refl
  exact Dev.arbWindow_keeps.step rfl h3

theorem Dev.ctxWatch_keeps {d : Dev} :
    Keeps [.regs, .cqe] d (Dev.ctxWatch d) :=
  .ite (Dev.raise_keeps.step rfl (.set_cqe rfl .refl)) .refl

theorem Dev.toFlight_keeps {d : Dev} {n : Nat} {c : Cmd} {cls : Nat} :
    Keeps [.regs, .ports, .belowXoff, .cellsHeld, .cqe] d (Dev.toFlight d n c cls) := by
  unfold Dev.toFlight
  extract_lets cost1 e2 e3
  exact Dev.freeCells_keeps.step rfl (Dev.count_keeps.step rfl (.set_cqe rfl .refl))

theorem Dev.ctxEnd_keeps {d : Dev} :
    Keeps [.regs, .evj, .cqe] d (Dev.ctxEnd d) := by
  unfold Dev.ctxEnd
  split
  · exact .refl
  · split
    · extract_lets n1 y2 d3
      have h4 : Keeps [.regs, .evj, .cqe] d d3 := .set_cqe rfl .refl
      exact .ite (Dev.log_keeps.step rfl h4) h4
    · exact .refl

theorem Dev.commandTimeout_keeps {d : Dev} {n : Nat} :
    Keeps [.regs, .ports, .belowXoff, .cellsHeld, .sess, .cqe] d (Dev.commandTimeout d n) := by
  unfold Dev.commandTimeout
  split
  · exact .refl
  · exact .ite .refl (Dev.flushesDone_keeps.step rfl (Dev.answerStatus_keeps.step rfl (Dev.freeCells_keeps.step rfl (.set_cqe rfl .refl))))

theorem Dev.dispatch_keeps {d : Dev} :
    Keeps [.free, .regs, .ports, .belowXoff, .cellsHeld, .sess, .epochs, .cqe, .mat, .rod, .lge] d (Dev.dispatch d) := by
  unfold Dev.dispatch
  split
  · exact .refl
  · extract_lets d1
    have h2 : Keeps [.free, .regs, .ports, .belowXoff, .cellsHeld, .sess, .epochs, .cqe, .mat, .rod, .lge] d d1 := Dev.ctxWatch_keeps.step rfl .refl
    split
    · exact .set_cqe rfl h2
    · extract_lets d3 d4 d5
      have h6 : Keeps [.free, .regs, .ports, .belowXoff, .cellsHeld, .sess, .epochs, .cqe, .mat, .rod, .lge] d d3 := Dev.toFlight_keeps.step rfl (.set_cqe rfl h2)
      have h7 : Keeps [.free, .regs, .ports, .belowXoff, .cellsHeld, .sess, .epochs, .cqe, .mat, .rod, .lge] d d4 := .ite (Dev.count_keeps.step rfl h6) h6
      have h8 : Keeps [.free, .regs, .ports, .belowXoff, .cellsHeld, .sess, .epochs, .cqe, .mat, .rod, .lge] d d5 := .ite (Dev.count_keeps.step rfl h7) h7
      split
      · exact Dev.flushesDone_keeps.step rfl (Dev.finish_keeps.step rfl h8)
      · split
        · exact h7
        · split
          · exact Dev.finish_keeps.step rfl h7
          · exact Dev.startPlacing_keeps.step rfl h7

end Sys2Proof.Machine
end

