-- ==== Sys2Proof/Laws/RowFrames.lean ====
section
/-! SUPPORT. Frame lemmas: the rows of data, capture, namespace and media commands: each lemma `Dev.f_keeps` names the fields of the device that `Dev.f` may
change; every other field is as before. -/

open Sys2Proof

namespace Sys2Proof.Machine

theorem Dev.extentSeg_keeps {d : Dev} {ns : Nat} {key : Bytes} {create : Nat} {bad : List (Nat × Nat)} {s : Nat} {a : Nat} {b : Nat} :
    Keeps [.regs, .rates, .evj] d (Dev.extentSeg d ns key create bad s a b).2 := by
  unfold Dev.extentSeg
  extract_lets l1 d2 hole3
  have h4 : Keeps [.regs, .rates, .evj] d d2 := Dev.countLook_keeps.step rfl .refl
  split
  · dsimp only
    exact h4
  · split
    · dsimp only
      exact h4
    · dsimp only
      exact h4

theorem Dev.checkedSeg_keeps {d : Dev} {h : EngineHold} {loc : Nat} {v : Value} {k : Nat} {r : MediaRead} :
    Keeps [.regs, .rates, .evj, .fmm] d (Dev.checkedSeg d h loc v k r).2 := by
  unfold Dev.checkedSeg
  extract_lets r1 c2 n3 d4
  have h5 : Keeps [.regs, .rates, .evj, .fmm] d d4 := Dev.countReads_keeps.step rfl (Dev.noteRead_keeps.step rfl .refl)
  clear_value c2
  split
  · dsimp only
    exact .ite (Dev.count_keeps.step rfl h5) h5
  · dsimp only
    exact Dev.reportCheck_keeps.step rfl h5

theorem Dev.extentSegs_keeps {ns : Nat} {key : Bytes} {create : Nat} {lo : Nat} {hi : Nat} {bad : List (Nat × Nat)} {n : List Nat} {d : Dev} :
    Keeps [.regs, .rates, .evj] d (Dev.extentSegs ns key create lo hi bad n d).2 := by
  induction n generalizing ns key create lo hi bad d with
  | nil =>
    unfold Dev.extentSegs
    dsimp only
    exact .refl
  | cons x1 l1 ih =>
    unfold Dev.extentSegs
    split
    next z1 z2 z3 z4 =>
      split
      next z5 z6 z7 z8 =>
        dsimp only
        exact (ih.snd z8).step rfl ((Dev.extentSeg_keeps.snd z4).step rfl .refl)

theorem Dev.withNs_keeps {m : List Part} {d0 d : Dev} {ctx op : Nat} {f : Flight → Namespace → Dev}
    (c : covers m [.regs, .ports, .sess, .cqe] = true) (hf : ∀ x n, Keeps m d0 (f x n)) (h : Keeps m d0 d) :
    Keeps m d0 (d.withNs ctx op f) := by
  unfold Dev.withNs
  split
  · exact h
  split
  · exact Dev.finish_keeps.step c h
  split
  · exact Dev.finish_keeps.step c h
  · exact hf _ _

theorem Dev.findValue_keeps {m : List Part} {d0 d : Dev} {ctx ns : Nat} {key : Bytes} {bad : List (Nat × Nat)}
    {f : Nat → Value → Dev → Dev} (c : covers m [.regs, .rates, .evj, .ports, .sess, .cqe, .fmm] = true) (hf : ∀ n v y, Keeps m y (f n v y)) (h : Keeps m d0 d) :
    Keeps m d0 (d.findValue ctx ns key bad f) := by
  unfold Dev.findValue
  extract_lets l e
  have he : Keeps m d0 e := Dev.countLook_keeps.step (covers_trans c rfl) h
  split
  · split
    · exact Dev.finish_keeps.step (covers_trans c rfl) he
    · exact (hf _ _ _).step (covers_self m) (.ite (Dev.countReads_keeps.step (covers_trans c rfl) he) he)
  · split <;> exact Dev.finish_keeps.step (covers_trans c rfl) he

theorem Dev.runIterate_keeps {d : Dev} {ctx : Nat} {bad : List (Nat × Nat)} :
    Keeps [.regs, .rates, .evj, .ports, .sess, .cqe] d (Dev.runIterate d ctx bad) := by
  unfold Dev.runIterate
  refine Dev.withNs_keeps rfl (fun x1 x2 => ?_) ?_
  · extract_lets cursor3 from_4 cands5 failed6 d7 hits8 max_9 data10 next11
    have h12 : Keeps [.regs, .rates, .evj, .ports, .sess, .cqe] d d7 := Dev.reportHeaders_keeps.step rfl .refl
    exact .ite (Dev.finish_keeps.step rfl .refl) (Dev.finishWith_keeps.step rfl (Dev.chargeLate_keeps.step rfl h12))
  · exact .refl

theorem Dev.withRoot_keeps {m : List Part} {d0 d : Dev} {ctx : Nat} {g : Flight} {n : Namespace} {f : Option Value → Dev → Dev}
    (c : covers m [.regs, .rates, .evj, .ports, .sess, .cqe, .vpl] = true) (hf : ∀ o y, Keeps m y (f o y)) (h : Keeps m d0 d) :
    Keeps m d0 (d.withRoot ctx g n f) := by
  unfold Dev.withRoot
  exact Dev.unlessRefused_keeps (covers_trans c rfl)
    (fun _ => (hf _ _).step (covers_self m) (Dev.lookFor_keeps.step (covers_trans c rfl) .refl)) h

theorem Dev.runExists_keeps {d : Dev} {ctx : Nat} {bad : List (Nat × Nat)} :
    Keeps [.regs, .rates, .evj, .ports, .sess, .cqe, .fmm] d (Dev.runExists d ctx bad) := by
  unfold Dev.runExists
  refine Dev.withNs_keeps rfl (fun x1 x2 => ?_) ?_
  · refine Dev.findValue_keeps rfl (fun x3 x4 x5 => ?_) ?_
    · exact Dev.finishWith_keeps.step rfl .refl
    · exact .refl
  · exact .refl

theorem Dev.mergeFailed_keeps {d : Dev} {ctx : Nat} {op : Nat} {quire : Bool} {status : Nat} {detail : Nat} :
    Keeps [.regs, .evj, .ports, .sess, .cqe, .vpl, .fmm] d (Dev.mergeFailed d ctx op quire status detail) := by
  unfold Dev.mergeFailed
  extract_lets d1
  have h2 : Keeps [.regs, .evj, .ports, .sess, .cqe, .vpl, .fmm] d d1 := .ite (Dev.count_keeps.step rfl .refl) .refl
  exact Dev.failWrite_keeps.step rfl h2

theorem Dev.runFlush_keeps {d : Dev} {ctx : Nat} :
    Keeps [.free, .regs, .ports, .sess, .epochs, .cqe, .mat, .lge] d (Dev.runFlush d ctx) := by
  unfold Dev.runFlush
  split
  · exact .refl
  · extract_lets mine1 d2
    have h3 : Keeps [.free, .regs, .ports, .sess, .epochs, .cqe, .mat, .lge] d d2 := Dev.modFlight_keeps.step rfl .refl
    split
    · exact Dev.finish_keeps.step rfl .refl
    · exact Dev.flushesDone_keeps.step rfl (Dev.flushMembers_keeps.step rfl h3)

theorem Dev.compressed_keeps {d : Dev} {n : Nat} {stream : Bytes} :
    Keeps [.regs, .evj, .ports, .sess, .cqe, .vpl, .fmm] d (Dev.compressed d n stream) := by
  unfold Dev.compressed
  split
  · exact .refl
  · split
    · exact .set_vpl rfl .refl
    · split
      · extract_lets keep1 y2 d3 d4
        have h5 : Keeps [.regs, .evj, .ports, .sess, .cqe, .vpl, .fmm] d d3 := .set_vpl rfl .refl
        have h6 : Keeps [.regs, .evj, .ports, .sess, .cqe, .vpl, .fmm] d d4 := .ite h5 (Dev.count_keeps.step rfl h5)
        exact .ite .refl (Dev.assign_keeps.step rfl (Dev.modWrite_keeps.step rfl h6))
      · exact .refl

theorem Dev.writeChecked_keeps {d : Dev} {ctx : Nat} {pos : Nat} {f : Flight} {w : WriteJob} {r : MediaRead} :
    Keeps [.regs, .rates, .evj, .ports, .sess, .cqe, .vpl, .fmm] d (Dev.writeChecked d ctx pos f w r) := by
  unfold Dev.writeChecked
  split
  · exact .refl
  · extract_lets quire1 h2 free3 goOn4
    split
    · exact .refl
    · split
      · split
        next z5 z6 z7 =>
          exact Dev.assign_keeps.step rfl (Dev.modWrite_keeps.step rfl ((Dev.lookFor_keeps.snd z7).step rfl .refl))
        next z8 z9 z10 z11 z12 z13 =>
          split
          next z14 z15 z16 z17 =>
            split
            · exact Dev.assign_keeps.step rfl (Dev.modWrite_keeps.step rfl (.set_vpl rfl ((Dev.checkedSeg_keeps.snd z17).step rfl ((Dev.lookFor_keeps.snd z13).step rfl .refl))))
            · split
              · exact Dev.mergeFailed_keeps.step rfl ((Dev.checkedSeg_keeps.snd z17).step rfl ((Dev.lookFor_keeps.snd z13).step rfl .refl))
      · split
        · exact Dev.assign_keeps.step rfl (Dev.modWrite_keeps.step rfl (.set_vpl rfl (.ite (Dev.count_keeps.step rfl .refl) .refl)))
        · exact Dev.mergeFailed_keeps.step rfl .refl
        · exact Dev.mergeFailed_keeps.step rfl (Dev.rawRefused_keeps.step rfl .refl)
      · exact .refl

theorem Dev.sealed_keeps {d : Dev} {n : Nat} :
    Keeps [.regs, .evj, .ports, .sess, .cqe, .vpl, .fmm] d (Dev.sealed d n) := by
  unfold Dev.sealed
  split
  · exact .refl
  · split
    · exact .refl
    · split
      · exact .refl
      · extract_lets y1 d2
        have h3 : Keeps [.regs, .evj, .ports, .sess, .cqe, .vpl, .fmm] d d2 := .set_vpl rfl .refl
        exact Dev.assign_keeps.step rfl (Dev.modWrite_keeps.step rfl (Dev.count_keeps.step rfl h3))

theorem Dev.readChecked_keeps {d : Dev} {ctx : Nat} {pos : Nat} {j : ReadJob} {r : MediaRead} :
    Keeps [.regs, .rates, .evj, .ports, .sess, .cqe, .vpl, .fmm] d (Dev.readChecked d ctx pos j r) := by
  unfold Dev.readChecked
  split
  · exact .refl
  · split
    · exact .refl
    · extract_lets h1 segs2
      split
      · exact .refl
      · split
        · exact Dev.assign_keeps.step rfl (Dev.releaseRead_keeps.step rfl (Dev.modFlight_keeps.step rfl (Dev.holdOnly_keeps.step rfl .refl)))
        · split
          next z3 z4 z5 z6 =>
            extract_lets segs7
            exact Dev.assign_keeps.step rfl (Dev.releaseRead_keeps.step rfl (Dev.modFlight_keeps.step rfl (Dev.holdOnly_keeps.step rfl ((Dev.checkedSeg_keeps.snd z6).step rfl .refl))))

theorem Dev.startWrite_keeps {d : Dev} {ctx : Nat} {n : Namespace} {adds : Bool} {job : WriteJob} :
    Keeps [.free, .regs, .sec, .evj, .ports, .sess, .cqe, .idx, .vpl, .fmm, .cap] d (Dev.startWrite d ctx n adds job) :=
  .ite (Dev.finish_keeps.step rfl (Dev.keysFull_keeps.step rfl .refl)) (Dev.advance_keeps.step rfl (Dev.modFlight_keeps.step rfl .refl))

theorem Dev.runDelete_keeps {d : Dev} {ctx : Nat} :
    Keeps [.free, .regs, .rates, .sec, .evj, .ports, .sess, .cqe, .idx, .vpl, .fmm, .cap] d (Dev.runDelete d ctx) := by
  unfold Dev.runDelete
  refine Dev.withNs_keeps rfl (fun x1 x2 => ?_) ?_
  · refine Dev.withRoot_keeps rfl (fun x3 x4 => ?_) ?_
    · exact .ite (Dev.finish_keeps.step rfl .refl) (Dev.startWrite_keeps.step rfl .refl)
    · exact .refl
  · exact .refl

theorem Dev.beginRead_keeps {d : Dev} {ctx : Nat} {r : ReadJob} :
    Keeps [.regs, .evj, .ports, .sess, .cqe, .vpl, .fmm] d (Dev.beginRead d ctx r) := by
  unfold Dev.beginRead
  split
  · exact Dev.finish_keeps.step rfl .refl
  · exact Dev.startRead_keeps.step rfl .refl

theorem Dev.runQuire_keeps {d : Dev} {ctx : Nat} :
    Keeps [.regs, .evj, .ports, .sess, .cqe, .idx, .vpl, .fmm] d (Dev.runQuire d ctx) := by
  unfold Dev.runQuire
  split
  · exact .refl
  · extract_lets subs1
    split
    · extract_lets d2
      have h3 : Keeps [.regs, .evj, .ports, .sess, .cqe, .idx, .vpl, .fmm] d d2 := .ite (Dev.rawRefused_keeps.step rfl .refl) .refl
      exact Dev.finish_keeps.step rfl (Dev.count_keeps.step rfl (Dev.reportRefusal_keeps.step rfl h3))
    · extract_lets adds4
      exact .ite (Dev.finish_keeps.step rfl (Dev.count_keeps.step rfl (Dev.keysFull_keeps.step rfl .refl))) (Dev.assign_keeps.step rfl (Dev.modFlight_keeps.step rfl .refl))

theorem Dev.runCas_keeps {d : Dev} {ctx : Nat} :
    Keeps [.free, .regs, .rates, .sec, .evj, .ports, .sess, .cqe, .idx, .vpl, .fmm, .cap] d (Dev.runCas d ctx) := by
  unfold Dev.runCas
  refine Dev.withNs_keeps rfl (fun x1 x2 => ?_) ?_
  · refine Dev.withRoot_keeps rfl (fun x3 x4 => ?_) ?_
    · split
      · exact Dev.finish_keeps.step rfl .refl
      · exact Dev.startWrite_keeps.step rfl .refl
    · exact .refl
  · exact .refl

theorem Dev.segmentChecked_keeps {d : Dev} {ctx : Nat} {pos : Nat} {r : MediaRead} :
    Keeps [.regs, .rates, .evj, .ports, .sess, .cqe, .vpl, .fmm] d (Dev.segmentChecked d ctx pos r) := by
  unfold Dev.segmentChecked
  split
  · exact .refl
  · split
    · exact Dev.readChecked_keeps.step rfl .refl
    · exact .ite (Dev.writeChecked_keeps.step rfl .refl) .refl
    · exact .refl

theorem Dev.runExtentRead_keeps {d : Dev} {ctx : Nat} {bad : List (Nat × Nat)} :
    Keeps [.regs, .rates, .evj, .ports, .sess, .cqe, .vpl, .fmm] d (Dev.runExtentRead d ctx bad) := by
  unfold Dev.runExtentRead
  refine Dev.withNs_keeps rfl (fun x1 x2 => ?_) ?_
  · refine Dev.findValue_keeps rfl (fun x3 x4 x5 => ?_) ?_
    · extract_lets lo6 hi7 nos8
      split
      next z9 z10 z11 z12 =>
        exact Dev.beginRead_keeps.step rfl ((Dev.extentSegs_keeps.snd z12).step rfl .refl)
    · exact .refl
  · exact .refl

theorem Dev.runGet_keeps {d : Dev} {ctx : Nat} {bad : List (Nat × Nat)} :
    Keeps [.regs, .rates, .evj, .ports, .sess, .cqe, .vpl, .fmm] d (Dev.runGet d ctx bad) := by
  unfold Dev.runGet
  refine Dev.withNs_keeps rfl (fun x1 x2 => ?_) ?_
  · refine Dev.findValue_keeps rfl (fun x3 x4 x5 => ?_) ?_
    · exact Dev.beginRead_keeps.step rfl .refl
    · exact .refl
  · exact .refl

theorem Dev.beginWrite_keeps {d : Dev} {ctx : Nat} {f : Flight} {n : Namespace} {adds : Bool} {job : WriteJob} :
    Keeps [.free, .regs, .sec, .evj, .ports, .sess, .cqe, .idx, .vpl, .fmm, .cap] d (Dev.beginWrite d ctx f n adds job) := by
  unfold Dev.beginWrite
  refine Dev.unlessRefused_keeps rfl (fun x1 => ?_) ?_
  · exact Dev.startWrite_keeps.step rfl .refl
  · exact .refl

theorem Dev.runExtentWrite_keeps {d : Dev} {ctx : Nat} :
    Keeps [.free, .regs, .sec, .evj, .ports, .sess, .cqe, .idx, .vpl, .fmm, .cap] d (Dev.runExtentWrite d ctx) := by
  unfold Dev.runExtentWrite
  refine Dev.withNs_keeps rfl (fun x1 x2 => ?_) ?_
  · exact Dev.beginWrite_keeps.step rfl .refl
  · exact .refl

theorem Dev.runDiscard_keeps {d : Dev} {ctx : Nat} :
    Keeps [.free, .regs, .rates, .sec, .evj, .ports, .sess, .cqe, .idx, .vpl, .fmm, .cap] d (Dev.runDiscard d ctx) := by
  unfold Dev.runDiscard
  refine Dev.withNs_keeps rfl (fun x1 x2 => ?_) ?_
  · refine Dev.withRoot_keeps rfl (fun x3 x4 => ?_) ?_
    · exact .ite (Dev.finish_keeps.step rfl .refl) (Dev.startWrite_keeps.step rfl .refl)
    · exact .refl
  · exact .refl

theorem Dev.runGetRange_keeps {d : Dev} {ctx : Nat} {bad : List (Nat × Nat)} :
    Keeps [.regs, .rates, .evj, .ports, .sess, .cqe, .vpl, .fmm] d (Dev.runGetRange d ctx bad) := by
  unfold Dev.runGetRange
  refine Dev.withNs_keeps rfl (fun x1 x2 => ?_) ?_
  · refine Dev.findValue_keeps rfl (fun x3 x4 x5 => ?_) ?_
    · extract_lets lo6
      exact Dev.beginRead_keeps.step rfl .refl
    · exact .refl
  · exact .refl

theorem Dev.runPut_keeps {d : Dev} {ctx : Nat} :
    Keeps [.free, .regs, .sec, .evj, .ports, .sess, .cqe, .idx, .vpl, .fmm, .cap] d (Dev.runPut d ctx) := by
  unfold Dev.runPut
  refine Dev.withNs_keeps rfl (fun x1 x2 => ?_) ?_
  · exact Dev.beginWrite_keeps.step rfl .refl
  · exact .refl

theorem Dev.stagingComplete_keeps {d : Dev} {ctx : Nat} :
    Keeps [.free, .regs, .rates, .sec, .evj, .ports, .sess, .epochs, .cqe, .mat, .lge, .nss, .idx, .vpl, .fmm, .cap] d (Dev.stagingComplete d ctx) := by
  unfold Dev.stagingComplete
  split
  · exact .refl
  · split
    · exact .refl
    · extract_lets indexed1
      split
      · split
        · exact Dev.flushesDone_keeps.step rfl (Dev.failWrite_keeps.step rfl .refl)
        · exact .ite (Dev.holdIndex_keeps.step rfl .refl) (Dev.leaguePump_keeps.step rfl (Dev.flushesDone_keeps.step rfl (Dev.commit_keeps.step rfl .refl)))
      · exact .refl

theorem Dev.openWindow_keeps {d : Dev} {w : Nat} {source : Nat} {t : Nat} {before : Nat} {after : Nat} {tq : Nat} :
    Keeps [.regs, .evj, .fmm, .cap] d (Dev.openWindow d w source t before after tq) := by
  unfold Dev.openWindow
  extract_lets x1
  exact Dev.log_keeps.step rfl (Dev.raise_keeps.step rfl (Dev.putWindow_keeps.step rfl .refl))

theorem Dev.firing_keeps {d : Dev} {t : Nat} {at_ : Nat} {tq : Nat} :
    Keeps [.regs, .evj, .fmm, .cap] d (Dev.firing d t at_ tq) := by
  unfold Dev.firing
  split
  · extract_lets start1 stop2 near3 y4
    split
    · extract_lets x5
      exact Dev.log_keeps.step rfl (Dev.raise_keeps.step rfl (Dev.putWindow_keeps.step rfl .refl))
    · split
      · exact Dev.openWindow_keeps.step rfl .refl
      · exact Dev.log_keeps.step rfl (Dev.raise_keeps.step rfl (.set_cap rfl .refl))

theorem Dev.reportScan_keeps {d : Dev} {bad : List (Nat × Nat)} {locs : List Nat} :
    Keeps [.regs, .rates, .evj] d (Dev.reportScan d bad locs) :=
  Dev.reportHeaders_keeps.step rfl .refl

theorem Dev.runRelease_keeps {d : Dev} {ctx : Nat} :
    Keeps [.regs, .ports, .sess, .cqe, .cap] d (Dev.runRelease d ctx) := by
  unfold Dev.runRelease
  split
  · exact .refl
  · extract_lets w1 y2
    exact .ite (Dev.finish_keeps.step rfl .refl) (Dev.modFlight_keeps.step rfl (.set_cap rfl .refl))

theorem Dev.heldFirings_keeps {d : Dev} :
    Keeps [.regs, .evj, .fmm, .cap] d (Dev.heldFirings d) := by
  unfold Dev.heldFirings
  extract_lets l1 y2
  exact .foldl (fun _ _ => (Dev.firing_keeps.step rfl .refl)) (.set_cap rfl .refl)

theorem Dev.runPin_keeps {d : Dev} {ctx : Nat} :
    Keeps [.regs, .evj, .ports, .sess, .cqe, .fmm, .cap] d (Dev.runPin d ctx) := by
  unfold Dev.runPin
  split
  · exact .refl
  · split
    · exact Dev.finish_keeps.step rfl .refl
    · extract_lets p1 t2
      exact Dev.modFlight_keeps.step rfl (Dev.openWindow_keeps.step rfl .refl)

theorem Dev.writeDueSeals_keeps {d : Dev} :
    Keeps [.free, .regs, .sec, .evj, .nss, .vpl, .fmm, .cap] d (Dev.writeDueSeals d) := by
  unfold Dev.writeDueSeals
  refine .foldl (fun y p => ?_) .refl
  split
  · split
    · exact .refl
    split
    next r e hs =>
      have he : Keeps [.free, .regs, .sec, .evj, .nss, .vpl, .fmm, .cap] y e := (Dev.addSeal_keeps _ hs).step rfl .refl
      clear hs
      split
      next o _ =>
        extract_lets put
        have hq : Keeps [.free, .regs, .sec, .evj, .nss, .vpl, .fmm, .cap] y (if o.bind.isSome then
            match e.drawCtr with
            | (some c, d') => (put c, d')
            | (none, d') => (put 0, d')
          else (put 0, e)).2 := by
          split
          · split
            next hz => exact (Dev.drawCtr_keeps.snd hz).step rfl he
            next hz => exact (Dev.drawCtr_keeps.snd hz).step rfl he
          · exact he
        split
        next o2 f hz =>
        have hf : Keeps [.free, .regs, .sec, .evj, .nss, .vpl, .fmm, .cap] y f := Keeps.snd hq hz
        clear hz hq
        split
        next hc => exact (Dev.commitChain_keeps _ hc).step rfl hf
        · exact .refl
      · exact .refl
    · exact .refl
  · exact .refl

theorem Dev.windowCommit_keeps {d : Dev} :
    Keeps [.regs, .evj, .ports, .sess, .cqe, .fmm, .cap] d (Dev.windowCommit d) := by
  unfold Dev.windowCommit
  extract_lets d1 y2 d3
  have h4 : Keeps [.regs, .evj, .ports, .sess, .cqe, .fmm, .cap] d d1 := by
    unfold d1
    refine .foldl (fun y5 a6 => ?_) ?_
    · split
      · split
        next z7 z8 z9 z10 =>
          exact Dev.finishOk_keeps.step rfl (Dev.log_keeps.step rfl ((Dev.freeWindowPins_keeps.snd z10).step rfl .refl))
      · exact .refl
    · exact .refl
  have h11 : Keeps [.regs, .evj, .ports, .sess, .cqe, .fmm, .cap] d d3 := .set_cap rfl h4
  refine Dev.nextColl_keeps.step rfl ?_
  refine .foldl (fun y12 a13 => ?_) ?_
  · split
    · exact Dev.finishOk_keeps.step rfl .refl
    · exact .refl
  · exact h11

theorem Dev.beginScan_keeps {d : Dev} {ctx : Nat} {segs : List ReadSeg} {more : Bool} {bytes : Nat} :
    Keeps [.regs, .evj, .ports, .sess, .cqe, .vpl, .fmm] d (Dev.beginScan d ctx segs more bytes) :=
  Dev.beginRead_keeps.step rfl (Dev.chargeLate_keeps.step rfl .refl)

theorem Dev.runChainAppend_keeps {d : Dev} {ctx : Nat} :
    Keeps [.free, .regs, .sec, .evj, .ports, .sess, .cqe, .idx, .vpl, .fmm, .cap] d (Dev.runChainAppend d ctx) := by
  unfold Dev.runChainAppend
  refine Dev.withNs_keeps rfl (fun x1 x2 => ?_) ?_
  · refine Dev.unlessRefused_keeps rfl (fun x3 => ?_) ?_
    · extract_lets l4 d5 y6
      have h7 : Keeps [.free, .regs, .sec, .evj, .ports, .sess, .cqe, .idx, .vpl, .fmm, .cap] x3 d5 := .ite .refl (Dev.log_keeps.step rfl (Dev.setLedger_keeps.step rfl .refl))
      exact .ite (Dev.finish_keeps.step rfl (Dev.raise_keeps.step rfl h7)) (Dev.startWrite_keeps.step rfl .refl)
    · exact .refl
  · exact .refl

theorem Dev.runScan_keeps {d : Dev} {ctx : Nat} {bad : List (Nat × Nat)} :
    Keeps [.regs, .rates, .evj, .ports, .sess, .cqe, .vpl, .fmm] d (Dev.runScan d ctx bad) := by
  unfold Dev.runScan
  refine Dev.withNs_keeps rfl (fun x1 x2 => ?_) ?_
  · extract_lets p3 one4
    split
    · split
      · exact Dev.finish_keeps.step rfl .refl
      · extract_lets recs5 out6
        exact .ite (Dev.finish_keeps.step rfl .refl) (Dev.beginScan_keeps.step rfl (Dev.reportScan_keeps.step rfl .refl))
  · exact .refl

theorem Dev.beginSeal_keeps {d : Dev} {ctx : Nat} {f : Flight} {n : Namespace} {l : Ledger} {cause : Nat} {param : Bytes} :
    Keeps [.free, .regs, .sec, .evj, .ports, .sess, .cqe, .vpl, .fmm, .cap] d (Dev.beginSeal d ctx f n l cause param) := by
  unfold Dev.beginSeal
  extract_lets bind
  split
  · exact Dev.finish_keeps.step rfl .refl
  next r e hb =>
    rw [Option.bind_eq_some_iff] at hb
    obtain ⟨k, _, hk⟩ := hb
    exact Dev.assign_keeps.step rfl (Dev.modFlight_keeps.step rfl ((Dev.addSeal_keeps _ hk).step rfl .refl))

theorem Dev.runAppend_keeps {d : Dev} {ctx : Nat} :
    Keeps [.free, .regs, .sec, .evj, .ports, .sess, .cqe, .idx, .vpl, .fmm, .cap] d (Dev.runAppend d ctx) := by
  unfold Dev.runAppend
  refine Dev.withNs_keeps rfl (fun x1 x2 => ?_) ?_
  · extract_lets stream3 time4 last5 y6 o7
    exact .ite (Dev.finish_keeps.step rfl .refl) (Dev.beginWrite_keeps.step rfl .refl)
  · exact .refl

theorem Dev.runChainRead_keeps {d : Dev} {ctx : Nat} {bad : List (Nat × Nat)} :
    Keeps [.regs, .rates, .evj, .ports, .sess, .cqe, .vpl, .fmm] d (Dev.runChainRead d ctx bad) := by
  unfold Dev.runChainRead
  refine Dev.withNs_keeps rfl (fun x1 x2 => ?_) ?_
  · extract_lets l3 from_4 recs5 out6 loc7
    exact .ite (Dev.finish_keeps.step rfl .refl) (Dev.beginScan_keeps.step rfl (Dev.reportScan_keeps.step rfl .refl))
  · exact .refl

theorem Dev.runChainExpire_keeps {d : Dev} {ctx : Nat} :
    Keeps [.free, .regs, .sec, .evj, .ports, .sess, .cqe, .vpl, .fmm, .cap] d (Dev.runChainExpire d ctx) := by
  unfold Dev.runChainExpire
  refine Dev.withNs_keeps rfl (fun x1 x2 => ?_) ?_
  · refine Dev.unlessRefused_keeps rfl (fun x3 => ?_) ?_
    · extract_lets l4 upTo5 count6 first7 gone8 sealing9 l'10 d11 d12 param13
      have h14 : Keeps [.free, .regs, .sec, .evj, .ports, .sess, .cqe, .vpl, .fmm, .cap] x3 d11 := .foldl (fun _ _ => (Dev.invalidateValue_keeps.step rfl .refl)) (Dev.setLedger_keeps.step rfl .refl)
      have h15 : Keeps [.free, .regs, .sec, .evj, .ports, .sess, .cqe, .vpl, .fmm, .cap] x3 d12 := Dev.log_keeps.step rfl (Dev.chainLevel_keeps.step rfl h14)
      exact .ite (Dev.finishOk_keeps.step rfl .refl) (.ite (Dev.finishOk_keeps.step rfl .refl) (.ite (Dev.finish_keeps.step rfl .refl) (.ite (Dev.finish_keeps.step rfl .refl) (.ite (Dev.beginSeal_keeps.step rfl h15) (Dev.finishOk_keeps.step rfl (.ite (Dev.reportExhausted_keeps.step rfl h15) h15))))))
    · exact .refl
  · exact .refl

theorem Dev.runChainSeal_keeps {d : Dev} {ctx : Nat} :
    Keeps [.free, .regs, .sec, .evj, .ports, .sess, .cqe, .vpl, .fmm, .cap] d (Dev.runChainSeal d ctx) := by
  unfold Dev.runChainSeal
  refine Dev.withNs_keeps rfl (fun x1 x2 => ?_) ?_
  · refine Dev.unlessRefused_keeps rfl (fun x3 => ?_) ?_
    · extract_lets l4
      split
      · exact Dev.beginSeal_keeps.step rfl .refl
      · exact .ite (Dev.finishOk_keeps.step rfl .refl) (Dev.beginSeal_keeps.step rfl .refl)
      · exact Dev.beginSeal_keeps.step rfl .refl
    · exact .refl
  · exact .refl

theorem Dev.drawSalt_keeps {d : Dev} :
    Keeps [.free, .vpl] d (Dev.drawSalt d).2 := by
  unfold Dev.drawSalt
  split
  next z1 z2 z3 z4 =>
    extract_lets salts5 salt6 y7
    dsimp only
    exact .set_vpl rfl ((Dev.draw_keeps.snd z4).step rfl .refl)

theorem Dev.policyRecord_keeps {d : Dev} {id : Nat} {field : Nat} {old : Nat} {new : Nat} {session : Nat} :
    Keeps [.regs, .evj] d (Dev.policyRecord d id field old new session) :=
  .ite .refl (Dev.log_keeps.step rfl .refl)

theorem Dev.nsPolicyWrite_keeps {d : Dev} {w : Nat} {session : Nat} :
    Keeps [.regs, .evj, .nss] d (Dev.nsPolicyWrite d w session) := by
  unfold Dev.nsPolicyWrite
  extract_lets id1
  split
  · exact .refl
  · split
    · split
      · exact .refl
      · extract_lets depth2 d3
        have h4 : Keeps [.regs, .evj, .nss] d d3 := .set_nss rfl .refl
        exact Dev.policyRecord_keeps.step rfl (Dev.policyRecord_keeps.step rfl (Dev.policyRecord_keeps.step rfl (Dev.policyRecord_keeps.step rfl h4)))

theorem Dev.newNamespace_keeps {d : Dev} {e : NsEntry} :
    Keeps [.free, .regs, .evj, .vpl] d (Dev.newNamespace d e).2 := by
  unfold Dev.newNamespace
  split
  next z1 z2 z3 =>
    dsimp only
    exact (Dev.drawCtr_keeps.snd z3).step rfl .refl
  next z4 z5 z6 z7 =>
    split
    next z8 z9 z10 z11 =>
      extract_lets depth12
      dsimp only
      refine .snd ?_ z11
      split
      · exact Dev.drawSalt_keeps.step rfl ((Dev.drawCtr_keeps.snd z7).step rfl .refl)
      · dsimp only
        exact (Dev.drawCtr_keeps.snd z7).step rfl .refl

theorem Dev.dropRing_keeps {d : Dev} {ns : Nat} :
    Keeps [.regs, .evj, .fmm, .cap] d (Dev.dropRing d ns).2 := by
  unfold Dev.dropRing
  extract_lets mine1 d2 heads3 y4
  have h5 : Keeps [.regs, .evj, .fmm, .cap] d d2 := .foldl (fun _ _ => (Dev.release_keeps.step rfl .refl)) .refl
  dsimp only
  exact .set_fmm rfl h5

theorem Dev.runNsDelete_keeps {d : Dev} {ctx : Nat} :
    Keeps [.regs, .ports, .sess, .cqe] d (Dev.runNsDelete d ctx) := by
  unfold Dev.runNsDelete
  refine Dev.withNs_keeps rfl (fun x1 x2 => ?_) ?_
  · split
    · exact Dev.finish_keeps.step rfl .refl
    · exact Dev.modFlight_keeps.step rfl .refl
  · exact .refl

theorem Dev.staleSegment_keeps {r : Removal} {n : Nat} {m : Nat} {d : Dev} :
    Keeps [.regs, .rates, .evj] d (Dev.staleSegment r n m d).2 := by
  induction m generalizing r n d with
  | zero =>
    unfold Dev.staleSegment
    dsimp only
    exact .refl
  | succ n1 ih =>
    unfold Dev.staleSegment
    split
    next z1 z2 z3 z4 z5 z6 =>
      dsimp only
      exact (Dev.lookFor_keeps.snd z6).step rfl .refl
    next z7 z8 z9 =>
      exact ih.step rfl ((Dev.lookFor_keeps.snd z9).step rfl .refl)

theorem Dev.runNsCreate_keeps {d : Dev} {ctx : Nat} :
    Keeps [.regs, .evj, .ports, .sess, .cqe, .vpl] d (Dev.runNsCreate d ctx) := by
  unfold Dev.runNsCreate
  split
  · exact .refl
  · split
    · exact Dev.finish_keeps.step rfl .refl
    · split
      · exact Dev.finish_keeps.step rfl (Dev.reportRefusal_keeps.step rfl .refl)
      · extract_lets id1
        exact Dev.modFlight_keeps.step rfl .refl

theorem Dev.deleted_keeps {d : Dev} {ctx : Nat} {c : Cmd} {n : Namespace} :
    Keeps [.regs, .evj, .ports, .sess, .cqe, .nss, .idx] d (Dev.deleted d ctx c n) := by
  unfold Dev.deleted
  extract_lets order1 d2 d3
  have h4 : Keeps [.regs, .evj, .ports, .sess, .cqe, .nss, .idx] d d2 := Dev.log_keeps.step rfl .refl
  have h5 : Keeps [.regs, .evj, .ports, .sess, .cqe, .nss, .idx] d d3 := .set_nss rfl h4
  exact Dev.startSweep_keeps.step rfl (Dev.finishOk_keeps.step rfl h5)

theorem Dev.runNsQuery_keeps {d : Dev} {ctx : Nat} :
    Keeps [.regs, .ports, .sess, .cqe] d (Dev.runNsQuery d ctx) := by
  unfold Dev.runNsQuery
  split
  · exact .refl
  · split
    · exact Dev.finishOk_keeps.step rfl .refl
    · split
      · exact Dev.finishOk_keeps.step rfl .refl
      · exact Dev.finish_keeps.step rfl .refl

theorem Dev.forget_keeps {d : Dev} {ns : Nat} :
    Keeps [.regs, .evj, .nss, .idx, .fmm, .cap] d (Dev.forget d ns) := by
  unfold Dev.forget
  extract_lets d1 other2 y3 y4 d5
  have h6 : Keeps [.regs, .evj, .nss, .idx, .fmm, .cap] d d1 := .foldl (fun _ _ => (Dev.invalidateValue_keeps.step rfl .refl)) .refl
  have h7 : Keeps [.regs, .evj, .nss, .idx, .fmm, .cap] d d5 := .upd (fun p hp => by cases p <;> first | exact absurd hp (by decide) | rfl) h6
  exact Dev.chainLevel_keeps.step rfl h7

theorem Dev.created_keeps {d : Dev} {ctx : Nat} {session : Nat} {e : NsEntry} :
    Keeps [.free, .regs, .evj, .ports, .sess, .cqe, .nss, .vpl] d (Dev.created d ctx session e) := by
  unfold Dev.created
  split
  next z1 z2 z3 =>
    exact Dev.finish_keeps.step rfl ((Dev.newNamespace_keeps.snd z3).step rfl .refl)
  next z4 z5 z6 z7 =>
    extract_lets d8 size9
    have h10 : Keeps [.free, .regs, .evj, .ports, .sess, .cqe, .nss, .vpl] d d8 := .set_nss rfl ((Dev.newNamespace_keeps.snd z7).step rfl .refl)
    exact Dev.finishOk_keeps.step rfl (Dev.log_keeps.step rfl h10)

theorem Dev.nsTableCommit_keeps {d : Dev} {ctx : Nat} :
    Keeps [.free, .regs, .evj, .ports, .sess, .cqe, .nss, .idx, .vpl] d (Dev.nsTableCommit d ctx) := by
  unfold Dev.nsTableCommit
  split
  · exact .refl
  · split
    · exact .refl
    · split
      · exact Dev.created_keeps.step rfl .refl
      · split
        · exact Dev.deleted_keeps.step rfl .refl
        · exact Dev.finish_keeps.step rfl .refl
      · exact .refl

theorem Dev.segmentRemoval_keeps {d : Dev} :
    Keeps [.regs, .rates, .evj, .idx, .fmm, .cap] d (Dev.segmentRemoval d) := by
  unfold Dev.segmentRemoval
  split
  · exact .refl
  · extract_lets drop1
    split
    · exact .refl
    · split
      · exact .set_idx rfl .refl
      · split
        next z2 z3 z4 =>
          exact .set_idx rfl ((Dev.staleSegment_keeps.snd z4).step rfl .refl)
        next z5 z6 z7 z8 z9 z10 =>
          exact Dev.purgeEntry_keeps.step rfl (.set_idx rfl ((Dev.staleSegment_keeps.snd z10).step rfl .refl))

theorem Dev.purgeStep_keeps {d : Dev} :
    Keeps [.regs, .evj, .idx, .fmm, .cap] d (Dev.purgeStep d) := by
  unfold Dev.purgeStep
  split
  · exact .refl
  · exact .ite (Dev.sweepUnits_keeps.step rfl .refl) .refl

theorem Dev.purgeDone_keeps {d : Dev} :
    Keeps [.regs, .evj, .nss, .idx, .fmm, .cap] d (Dev.purgeDone d) := by
  unfold Dev.purgeDone
  split
  · exact .refl
  · extract_lets d1 began2
    have h3 : Keeps [.regs, .evj, .nss, .idx, .fmm, .cap] d d1 := Dev.sweepUnits_keeps.step rfl .refl
    split
    · exact h3
    · split
      · exact h3
      · split
        next z4 z5 z6 z7 =>
          extract_lets d8
          have h9 : Keeps [.regs, .evj, .nss, .idx, .fmm, .cap] d d8 := Dev.forget_keeps.step rfl ((Dev.dropRing_keeps.snd z7).step rfl h3)
          exact Dev.startSweep_keeps.step rfl (Dev.log_keeps.step rfl h9)

theorem Dev.rescanBegin_keeps {d : Dev} :
    Keeps [.idx] d (Dev.rescanBegin d) :=
  .ite .refl (Dev.idxBegin_keeps.step rfl .refl)

theorem Dev.foldStop_keeps {d : Dev} :
    Keeps [.fmm] d (Dev.foldStop d) := by
  unfold Dev.foldStop
  split
  · exact .refl
  · extract_lets mine1 d2 left3 y4
    have h5 : Keeps [.fmm] d d2 := .foldl (fun _ _ => (Dev.modBushel_keeps.step rfl .refl)) .refl
    exact .set_fmm rfl h5

theorem Dev.wearStep_keeps {d : Dev} :
    Keeps [.fmm] d (Dev.wearStep d) := by
  unfold Dev.wearStep
  split
  · exact .ite .refl (Dev.startColl_keeps.step rfl .refl)
  · exact .refl

theorem Dev.foldGo_keeps {d : Dev} :
    Keeps [.regs, .evj, .fmm] d (Dev.foldGo d) :=
  .ite .refl (Dev.nextColl_keeps.step rfl (.set_fmm rfl .refl))

theorem Dev.logOverruled_keeps {d : Dev} {asked : Nat} {chosen : Nat} :
    Keeps [.regs, .evj] d (Dev.logOverruled d asked chosen) :=
  Dev.log_keeps.step rfl .refl

theorem Dev.gcReq_keeps {d : Dev} {b : Nat} :
    Keeps [.regs, .evj, .fmm] d (Dev.gcReq d b) := by
  unfold Dev.gcReq
  extract_lets pick1
  clear_value pick1
  split
  · exact .refl
  · split
    · split
      · exact .ite .refl (Dev.logOverruled_keeps.step rfl .refl)
      · exact .refl
    · exact .ite .refl (Dev.startColl_keeps.step rfl .refl)

theorem Dev.patrolLost_keeps {d : Dev} {b : Nat} {set : Nat} {die : Nat} {row : Nat} {cw : Nat} :
    Keeps [.regs, .rates, .evj, .fmm] d (Dev.patrolLost d b set die row cw) := by
  unfold Dev.patrolLost
  extract_lets loc1
  exact Dev.logLimited_keeps.step rfl (Dev.raise_keeps.step rfl (Dev.health_keeps.step rfl (Dev.count_keeps.step rfl .refl)))

theorem Dev.patrolStep_keeps {d : Dev} {corr : Nat} {cws : Nat} {r : MediaRead} :
    Keeps [.regs, .rates, .evj, .fmm, .cap] d (Dev.patrolStep d corr cws r) := by
  unfold Dev.patrolStep
  split
  · exact .refl
  · split
    · exact Dev.nextColl_keeps.step rfl (Dev.patrolEnd_keeps.step rfl .refl)
    · extract_lets x1 die2 d3 d4 d5
      have h6 : Keeps [.regs, .rates, .evj, .fmm, .cap] d d3 := Dev.health_keeps.step rfl (Dev.countN_keeps.step rfl .refl)
      have h7 : Keeps [.regs, .rates, .evj, .fmm, .cap] d d4 := Dev.patrolRead_keeps.step rfl h6
      have h8 : Keeps [.regs, .rates, .evj, .fmm, .cap] d d5 := by
        unfold d5
        split
        · exact Dev.patrolLost_keeps.step rfl h7
        · exact h7
      exact Dev.nextColl_keeps.step rfl h8

theorem Dev.staleWalkDone_keeps {d : Dev} {b : Nat} :
    Keeps [.regs, .evj, .fmm, .cap] d (Dev.staleWalkDone d b) := by
  unfold Dev.staleWalkDone
  split
  · exact .refl
  · extract_lets valid1
    exact Dev.nextColl_keeps.step rfl (Dev.maybeRelease_keeps.step rfl (Dev.modBushel_keeps.step rfl .refl))

theorem Dev.runHealth_keeps {d : Dev} {ctx : Nat} :
    Keeps [.regs, .ports, .sess, .cqe] d (Dev.runHealth d ctx) := by
  unfold Dev.runHealth
  split
  · exact Dev.finishOk_keeps.step rfl .refl
  · exact .refl

theorem Dev.parkTimeout_keeps {d : Dev} {b : Nat} :
    Keeps [.free, .regs, .evj, .ports, .sess, .epochs, .mat, .lge, .fmm, .cap] d (Dev.parkTimeout d b) := by
  unfold Dev.parkTimeout
  extract_lets x1 d2
  have h3 : Keeps [.free, .regs, .evj, .ports, .sess, .epochs, .mat, .lge, .fmm, .cap] d d2 := Dev.fill_keeps.step rfl .refl
  exact .ite (Dev.leaguePump_keeps.step rfl (Dev.nextColl_keeps.step rfl (Dev.maybeRelease_keeps.step rfl (Dev.closeBushel_keeps.step rfl h3)))) .refl

theorem Dev.exhaustWaits_keeps {d : Dev} :
    Keeps [.regs, .evj, .ports, .sess, .cqe, .vpl, .fmm] d (Dev.exhaustWaits d) := by
  unfold Dev.exhaustWaits
  split
  · exact .refl
  · refine .foldl (fun y1 a2 => ?_) ?_
    · split
      · exact .ite .refl (Dev.failWrite_keeps.step rfl .refl)
      · exact .refl
    · exact .refl

theorem Dev.eraseFailed_keeps {d : Dev} {b : Nat} {die : Nat} :
    Keeps [.regs, .evj, .ports, .sess, .cqe, .vpl, .fmm] d (Dev.eraseFailed d b die) := by
  unfold Dev.eraseFailed
  extract_lets x1 d2
  have h3 : Keeps [.regs, .evj, .ports, .sess, .cqe, .vpl, .fmm] d d2 := Dev.log_keeps.step rfl (Dev.raise_keeps.step rfl (Dev.health_keeps.step rfl (Dev.count_keeps.step rfl .refl)))
  exact .ite .refl (Dev.nextColl_keeps.step rfl (Dev.exhaustWaits_keeps.step rfl (Dev.retireBlock_keeps.step rfl h3)))

theorem Dev.collectionDone_keeps {d : Dev} {b : Nat} {bad : Option Nat} :
    Keeps [.free, .pins, .regs, .rates, .sec, .evj, .ports, .sess, .epochs, .cqe, .mat, .lge, .nss, .idx, .vpl, .fmm, .cap] d (Dev.collectionDone d b bad) := by
  unfold Dev.collectionDone
  split
  · exact .refl
  · extract_lets x1 d2
    have h3 : Keeps [.free, .pins, .regs, .rates, .sec, .evj, .ports, .sess, .epochs, .cqe, .mat, .lge, .nss, .idx, .vpl, .fmm, .cap] d d2 := Dev.collect_keeps.step rfl .refl
    exact .ite .refl (.ite (Dev.holdIndex_keeps.step rfl .refl) (Dev.leaguePump_keeps.step rfl (.ite (Dev.writeDueSeals_keeps.step rfl h3) h3)))

theorem Dev.checkpointForce_keeps {d : Dev} :
    Keeps [.regs, .evj, .idx, .fmm] d (Dev.checkpointForce d) :=
  .ite .refl (Dev.cpBegin_keeps.step rfl .refl)

theorem Dev.checkpointBegin_keeps {d : Dev} :
    Keeps [.regs, .evj, .idx, .fmm] d (Dev.checkpointBegin d) :=
  .ite .refl (Dev.cpBegin_keeps.step rfl .refl)

theorem Dev.eraseDone_keeps {d : Dev} {b : Nat} :
    Keeps [.pins, .regs, .evj, .ports, .sess, .cqe, .vpl, .fmm] d (Dev.eraseDone d b) := by
  unfold Dev.eraseDone
  extract_lets x1 tlc2 pslc3 worn4 d5 d6 y7 y8
  have h9 : Keeps [.pins, .regs, .evj, .ports, .sess, .cqe, .vpl, .fmm] d d5 := Dev.setBushel_keeps.step rfl .refl
  have h10 : Keeps [.pins, .regs, .evj, .ports, .sess, .cqe, .vpl, .fmm] d d6 := .ite (Dev.exhaustWaits_keeps.step rfl (Dev.checkExhausted_keeps.step rfl (Dev.log_keeps.step rfl h9))) h9
  have h11 : Keeps [.pins, .regs, .evj, .ports, .sess, .cqe, .vpl, .fmm] d y7 := Dev.floors_keeps.step rfl h10
  exact .ite .refl (Dev.nextColl_keeps.step rfl (.set_pins rfl h11))

theorem Dev.dieLost_keeps {d : Dev} {die : Nat} :
    Keeps [.regs, .evj, .ports, .sess, .cqe, .vpl, .fmm] d (Dev.dieLost d die) := by
  unfold Dev.dieLost
  split
  · exact .refl
  · extract_lets hit1 mark2 d3 y4 d5
    have h6 : Keeps [.regs, .evj, .ports, .sess, .cqe, .vpl, .fmm] d d3 := .foldl (fun _ _ => (Dev.modBushel_keeps.step rfl .refl)) .refl
    have h7 : Keeps [.regs, .evj, .ports, .sess, .cqe, .vpl, .fmm] d d5 := .set_fmm rfl h6
    exact Dev.nextColl_keeps.step rfl (Dev.exhaustWaits_keeps.step rfl (Dev.checkExhausted_keeps.step rfl (Dev.log_keeps.step rfl h7)))

theorem Dev.stagingAge_keeps {d : Dev} {h : Nat} :
    Keeps [.free, .pins, .regs, .rates, .evj, .ports, .sess, .epochs, .cqe, .mat, .lge, .nss, .idx, .vpl, .fmm, .cap] d (Dev.stagingAge d h) := by
  unfold Dev.stagingAge
  split
  · exact .refl
  · exact .ite (Dev.leaguePump_keeps.step rfl (Dev.groupDone_keeps.step rfl .refl)) .refl

theorem Dev.checkpointCommit_keeps {d : Dev} :
    Keeps [.free, .regs, .rates, .evj, .ports, .sess, .epochs, .cqe, .mat, .lge, .nss, .idx, .vpl, .fmm, .cap] d (Dev.checkpointCommit d) := by
  unfold Dev.checkpointCommit
  split
  · exact .refl
  · refine .ite ?_ .refl
    exact Dev.leaguePump_keeps.step rfl (Dev.flushesDone_keeps.step rfl (Dev.programsDone_keeps.step rfl
      (KeepsO.getD (fun _ h => (Dev.cpCommit_keeps _ h).step rfl .refl) .refl)))

theorem Dev.rebuildDone_keeps {d : Dev} {pages : MediaReads} {blocks : MediaReads} :
    Keeps [.regs, .evj, .idx, .fmm, .cap] d (Dev.rebuildDone d pages blocks) := by
  unfold Dev.rebuildDone
  extract_lets on
  split
  · exact .refl
  split
  · exact Dev.idxRebuilt_keeps.step rfl (Dev.idxLoad_keeps.step rfl .refl)
  · refine KeepsO.getD (fun r h => ?_) .refl
    rw [Option.map_eq_some_iff] at h
    obtain ⟨e, he, rfl⟩ := h
    exact Dev.idxRebuilt_keeps.step rfl ((Dev.rescan_keeps _ he).step rfl .refl)
  · exact .refl

theorem Dev.groupCommit_keeps {d : Dev} {b : Nat} :
    Keeps [.free, .pins, .regs, .rates, .evj, .ports, .sess, .epochs, .cqe, .mat, .lge, .nss, .idx, .vpl, .fmm, .cap] d (Dev.groupCommit d b) :=
  .ite (Dev.leaguePump_keeps.step rfl (Dev.groupDone_keeps.step rfl .refl)) .refl

theorem Dev.progFailed_keeps {d : Dev} {b : Nat} {die : Nat} :
    Keeps [.free, .regs, .evj, .ports, .sess, .epochs, .cqe, .mat, .lge, .idx, .vpl, .fmm, .cap] d (Dev.progFailed d b die) := by
  unfold Dev.progFailed
  extract_lets x1 torn2
  exact .ite (Dev.holdIndex_keeps.step rfl .refl) (.ite (Dev.leaguePump_keeps.step rfl (Dev.exhaustWaits_keeps.step rfl (Dev.programFail_keeps.step rfl .refl))) .refl)

end Sys2Proof.Machine
end

