-- ==== Sys2Proof/Laws/LifeFrames.lean ====
section
/-! SUPPORT. Frame lemmas: the journal, resets, flushes and firmware: each lemma `Dev.f_keeps` names the fields of the device that `Dev.f` may
change; every other field is as before. -/

open Sys2Proof

namespace Sys2Proof.Machine

theorem Dev.findBad_keeps {d : Dev} {bad : List Nat} :
    Keeps [.evj] d (Dev.findBad d bad) :=
  .set_evj rfl .refl

theorem Dev.lostRecord_keeps {d : Dev} :
    Keeps [.regs, .evj] d (Dev.lostRecord d) := by
  unfold Dev.lostRecord
  extract_lets j1 ps2
  exact .ite .refl (Dev.raiseIf_keeps.step rfl (.set_evj rfl .refl))

theorem Dev.refuseRec_keeps {d : Dev} {rec_ : List RingPart} :
    Keeps [.regs, .evj] d (Dev.refuseRec d rec_) :=
  Dev.count_keeps.step rfl (.set_evj rfl .refl)

theorem Dev.seqEnd_keeps {d : Dev} :
    Keeps [.regs, .evj] d (Dev.seqEnd d) := by
  unfold Dev.seqEnd
  extract_lets lost1 held2 d3 p4 y5
  have h6 : Keeps [.regs, .evj] d d3 := Dev.raise_keeps.step rfl (Dev.raise_keeps.step rfl (Dev.countN_keeps.step rfl .refl))
  exact Dev.count_keeps.step rfl (.set_evj rfl h6)

theorem Dev.storeRec_keeps {d : Dev} {rec_ : List RingPart} {store : List (List (Nat × JPart))} :
    Keeps [.regs, .evj] d (Dev.storeRec d rec_ store) := by
  unfold Dev.storeRec
  extract_lets j1 store2 full3
  exact Dev.countN_keeps.step rfl (.set_evj rfl .refl)

theorem Dev.journalRd_keeps {d : Dev} :
    Keeps [.regs, .evj] d (Dev.journalRd d) := by
  unfold Dev.journalRd
  extract_lets s1 bad2 all3 parts4 d5 y6 later7 next8
  have h9 : Keeps [.regs, .evj] d d5 := Dev.countN_keeps.step rfl (Dev.setRegF_keeps.step rfl .refl)
  split
  · exact .set_evj rfl h9
  · exact Dev.setRegN_keeps.step rfl (Dev.setRegN_keeps.step rfl (.set_evj rfl h9))

theorem Dev.drain_keeps {d : Dev} :
    Keeps [.regs, .evj] d (Dev.drain d) := by
  unfold Dev.drain
  split
  · exact .refl
  · exact .ite .refl (.ite (Dev.seqEnd_keeps.step rfl .refl) (Dev.lostRecord_keeps.step rfl (Dev.count_keeps.step rfl (.set_evj rfl .refl))))

theorem Dev.jrnPolicy_keeps {d : Dev} {sev : Nat} {policy : Nat} {session : Nat} :
    Keeps [.regs, .evj] d (Dev.jrnPolicy d sev policy session) := by
  unfold Dev.jrnPolicy
  split
  · extract_lets d1 y2 d3
    have h4 : Keeps [.regs, .evj] d d1 := Dev.setRegF_keeps.step rfl (Dev.setRegF_keeps.step rfl .refl)
    have h5 : Keeps [.regs, .evj] d d3 := .ite h4 (.set_evj rfl h4)
    exact .ite h4 (Dev.log_keeps.step rfl h5)

theorem Dev.drainAll_keeps {n : Nat} {d : Dev} :
    Keeps [.regs, .evj] d (Dev.drainAll n d) := by
  induction n generalizing d with
  | zero =>
    unfold Dev.drainAll
    exact .refl
  | succ n1 ih =>
    unfold Dev.drainAll
    exact .ite .refl (ih.step rfl (Dev.drain_keeps.step rfl .refl))

theorem Dev.jrnFull_keeps {d : Dev} :
    Keeps [.regs, .evj] d (Dev.jrnFull d) :=
  Dev.log_keeps.step rfl (Dev.raise_keeps.step rfl .refl)

theorem Dev.persistRec_keeps {d : Dev} {rec_ : List RingPart} :
    Keeps [.regs, .evj] d (Dev.persistRec d rec_) := by
  unfold Dev.persistRec
  extract_lets n1 sev2 isFull3 used4 d5 y6 lower7 first8 y9
  have h10 : Keeps [.regs, .evj] d d5 := Dev.refuseRec_keeps.step rfl .refl
  split
  · exact .ite (Dev.storeRec_keeps.step rfl .refl) (.ite h10 (Dev.jrnFull_keeps.step rfl (.set_evj rfl h10)))
  · split
    · exact Dev.storeRec_keeps.step rfl .refl
    · split
      · exact Dev.refuseRec_keeps.step rfl .refl
      · split
        · extract_lets d11
          have h12 : Keeps [.regs, .evj] d d11 := Dev.countN_keeps.step rfl (Dev.storeRec_keeps.step rfl (.set_evj rfl .refl))
          exact .ite (Dev.jrnFull_keeps.step rfl h12) h12

theorem Dev.programPage_keeps {d : Dev} :
    Keeps [.pins, .regs, .evj, .fmm] d (Dev.programPage d) := by
  unfold Dev.programPage
  extract_lets page1 d2 d3 y4 y5
  have h6 : Keeps [.pins, .regs, .evj, .fmm] d d2 := by
    unfold d2
    refine .foldl (fun y7 a8 => ?_) ?_
    · exact Dev.persistRec_keeps.step rfl .refl
    · exact .refl
  have h9 : Keeps [.pins, .regs, .evj, .fmm] d d3 := .ite (Dev.count_keeps.step rfl h6) h6
  have h10 : Keeps [.pins, .regs, .evj, .fmm] d y4 := Dev.health_keeps.step rfl h9
  exact .ite .refl (.set_pins rfl h10)

theorem Dev.persistNow_keeps {d : Dev} :
    Keeps [.pins, .regs, .evj, .fmm] d (Dev.persistNow d) :=
  .ite (Dev.programPage_keeps.step rfl .refl) .refl

theorem Dev.pageProgram_keeps {d : Dev} :
    Keeps [.pins, .regs, .evj, .fmm] d (Dev.pageProgram d) := by
  unfold Dev.pageProgram
  extract_lets parts1 urgent2
  exact .ite (Dev.programPage_keeps.step rfl .refl) .refl

theorem Dev.persistAll_keeps {n : Nat} {d : Dev} :
    Keeps [.pins, .regs, .evj, .fmm] d (Dev.persistAll n d) := by
  induction n generalizing d with
  | zero =>
    unfold Dev.persistAll
    exact .refl
  | succ n1 ih =>
    unfold Dev.persistAll
    exact .ite .refl (ih.step rfl (Dev.programPage_keeps.step rfl .refl))

theorem Dev.runJournalRead_keeps {d : Dev} {ctx : Nat} :
    Keeps [.regs, .ports, .sess, .cqe] d (Dev.runJournalRead d ctx) := by
  unfold Dev.runJournalRead
  split
  · exact .refl
  · extract_lets from_1 later2 bad3 good4 recs5 parts6 next7 cut8 skipped9
    exact Dev.finishData_keeps.step rfl (Dev.chargeLate_keeps.step rfl (Dev.countN_keeps.step rfl .refl))

theorem Dev.flushJournal_keeps {d : Dev} :
    Keeps [.pins, .regs, .evj, .fmm] d (Dev.flushJournal d) :=
  Dev.persistAll_keeps.step rfl (Dev.drainAll_keeps.step rfl .refl)

theorem Dev.faultPin_keeps {d : Dev} :
    Keeps [.pins] d (Dev.faultPin d) :=
  .set_pins rfl .refl

theorem Dev.readyLow_keeps {d : Dev} :
    Keeps [.pins] d (Dev.readyLow d) :=
  .set_pins rfl .refl

theorem Dev.pfBegin_keeps {d : Dev} :
    Keeps [.fmm] d (Dev.pfBegin d) :=
  .ite (.set_fmm rfl .refl) .refl

theorem Dev.setFault_keeps {d : Dev} {i : Nat} {on : Bool} :
    Keeps [.pins, .life] d (Dev.setFault d i on) :=
  Dev.faultPin_keeps.step rfl (.set_life rfl .refl)

theorem Dev.undoWindow_keeps {d : Dev} {w : Nat} :
    Keeps [.fmm, .cap] d (Dev.undoWindow d w) := by
  unfold Dev.undoWindow
  extract_lets y1 d2 hit3
  have h4 : Keeps [.fmm, .cap] d d2 := .set_cap rfl .refl
  exact .foldl (fun _ _ => (Dev.modBushel_keeps.step rfl .refl)) h4

theorem Dev.cause_keeps {d : Dev} {i : Nat} :
    Keeps [.regs] d (Dev.cause d i) :=
  Dev.setRegF_keeps.step rfl .refl

theorem Dev.coresDown_keeps {d : Dev} :
    Keeps [.life, .cqe, .fw] d (Dev.coresDown d) := by
  unfold Dev.coresDown
  extract_lets y1 d2 y3
  have h4 : Keeps [.life, .cqe, .fw] d d2 := by
    unfold d2
    split
    · exact Dev.resumeDispatch_keeps.step rfl (.set_fw rfl .refl)
    · exact .refl
  exact .set_life rfl h4

theorem Dev.logReset_keeps {d : Dev} {kind : Nat} {source : Nat} :
    Keeps [.regs, .evj] d (Dev.logReset d kind source) :=
  Dev.log_keeps.step rfl .refl

theorem Dev.coresReset_keeps {d : Dev} {i : Iface} :
    Keeps [.life, .regs, .evj, .cqe, .fw] d (Dev.coresReset d i) :=
  .ite (Dev.coresDown_keeps.step rfl (Dev.logReset_keeps.step rfl (Dev.cause_keeps.step rfl .refl))) .refl

theorem Dev.portReset_keeps {d : Dev} {n : Nat} :
    Keeps [.regs, .evj, .ports, .lanes] d (Dev.portReset d n) := by
  unfold Dev.portReset
  extract_lets d1 ct2 y3
  have h4 : Keeps [.regs, .evj, .ports, .lanes] d d1 := Dev.portDown_keeps.step rfl .refl
  exact Dev.modPort_keeps.step rfl h4

theorem Dev.abortQueued_keeps {d : Dev} {n : Nat} {c : Cmd} :
    Keeps [.regs, .ports, .belowXoff, .cellsHeld, .sess, .cqe] d (Dev.abortQueued d n c) :=
  Dev.answerStatus_keeps.step rfl (Dev.freeCells_keeps.step rfl (.set_cqe rfl .refl))

theorem Dev.dropThrough_keeps {d : Dev} {o : WOp} :
    Keeps [.regs, .evj, .fmm, .cap] d (Dev.dropThrough d o) := by
  unfold Dev.dropThrough
  extract_lets d1 y2 d3 k4 st5 back6 y7
  have h8 : Keeps [.regs, .evj, .fmm, .cap] d d1 := Dev.invalidateValue_keeps.step rfl .refl
  have h9 : Keeps [.regs, .evj, .fmm, .cap] d d3 := .set_fmm rfl h8
  exact .ite h9 (.set_cap rfl h9)

theorem Dev.freeSessions_keeps {d : Dev} :
    Keeps [.regs, .latches, .imgWin, .evj, .ports, .belowXoff, .cellsHeld, .sess, .cqe, .mat, .lge, .vpl, .fmm] d (Dev.freeSessions d) :=
  .foldl (fun _ _ => (Dev.endSession_keeps.step rfl .refl)) .refl

theorem Dev.abortWrite_keeps {d : Dev} {ctx : Nat} {f : Flight} {w : WriteJob} :
    Keeps [.free, .regs, .rates, .sec, .evj, .ports, .sess, .cqe, .lge, .nss, .idx, .vpl, .fmm, .cap] d (Dev.abortWrite d ctx f w) := by
  unfold Dev.abortWrite
  extract_lets drop1 d2
  have h3 : Keeps [.free, .regs, .rates, .sec, .evj, .ports, .sess, .cqe, .lge, .nss, .idx, .vpl, .fmm, .cap] d d2 := Dev.commit_keeps.step rfl .refl
  split
  · exact Dev.mirrorFail_keeps.step rfl .refl
  · split
    · unfold drop1
      refine Dev.failWrite_keeps.step rfl ?_
      refine .foldl (fun y4 a5 => ?_) ?_
      · exact Dev.dropThrough_keeps.step rfl .refl
      · exact .refl
    · exact Dev.ackWrite_keeps.step rfl .refl
  · split
    · exact Dev.failWrite_keeps.step rfl .refl
    · split
      · exact h3
      · split
        · exact Dev.ackWrite_keeps.step rfl h3
        · exact Dev.mirrorFail_keeps.step rfl h3
        · exact Dev.failWrite_keeps.step rfl h3

theorem Dev.abortFlight_keeps {d : Dev} {ctx : Nat} :
    Keeps [.free, .regs, .rates, .sec, .evj, .ports, .sess, .cqe, .lge, .nss, .idx, .vpl, .fmm, .cap, .fw] d (Dev.abortFlight d ctx) := by
  unfold Dev.abortFlight
  split
  · exact .refl
  · split
    · exact Dev.abortWrite_keeps.step rfl .refl
    · exact Dev.failRead_keeps.step rfl .refl
    · exact Dev.finish_keeps.step rfl (Dev.undoWindow_keeps.step rfl .refl)
    · exact Dev.finishOk_keeps.step rfl .refl
    · exact Dev.finish_keeps.step rfl (.set_fw rfl .refl)
    · exact Dev.finish_keeps.step rfl .refl

theorem Dev.abortCommands_keeps {d : Dev} :
    Keeps [.free, .regs, .rates, .sec, .evj, .power, .ports, .belowXoff, .cellsHeld, .sess, .cqe, .lge, .nss, .idx, .vpl, .fmm, .cap, .fw] d (Dev.abortCommands d) := by
  unfold Dev.abortCommands
  extract_lets d1 d2 plain3 y4 y5 y6 y7 y8
  have h9 : Keeps [.free, .regs, .rates, .sec, .evj, .power, .ports, .belowXoff, .cellsHeld, .sess, .cqe, .lge, .nss, .idx, .vpl, .fmm, .cap, .fw] d d1 := .foldl (fun _ _ => (Dev.abortFlight_keeps.step rfl .refl)) .refl
  have h10 : Keeps [.free, .regs, .rates, .sec, .evj, .power, .ports, .belowXoff, .cellsHeld, .sess, .cqe, .lge, .nss, .idx, .vpl, .fmm, .cap, .fw] d d2 := .foldl (fun _ _ => (Dev.abortQueued_keeps.step rfl .refl)) h9
  exact .upd (fun p hp => by cases p <;> first | exact absurd hp (by decide) | rfl) h10

theorem Dev.quiesce_keeps {d : Dev} {kind : FlushKind} :
    Keeps [.free, .pins, .life, .regs, .latches, .rates, .imgWin, .sec, .evj, .power, .ports, .belowXoff, .cellsHeld, .sess, .cqe, .mat, .lge, .nss, .idx, .vpl, .fmm, .cap, .fw] d (Dev.quiesce d kind) := by
  unfold Dev.quiesce
  extract_lets d1 y2
  have h3 : Keeps [.free, .pins, .life, .regs, .latches, .rates, .imgWin, .sec, .evj, .power, .ports, .belowXoff, .cellsHeld, .sess, .cqe, .mat, .lge, .nss, .idx, .vpl, .fmm, .cap, .fw] d d1 := Dev.pfBegin_keeps.step rfl (Dev.freeSessions_keeps.step rfl (Dev.abortCommands_keeps.step rfl (Dev.readyLow_keeps.step rfl .refl)))
  exact .set_life rfl h3

theorem Dev.datapathReset_keeps {d : Dev} {i : Iface} :
    Keeps [.free, .pins, .life, .regs, .latches, .rates, .imgWin, .sec, .evj, .power, .ports, .lanes, .belowXoff, .rx, .cellsHeld, .sess, .epochs, .cqe, .mat, .rod, .lge, .nss, .idx, .vpl, .fmm, .cap, .fw] d (Dev.datapathReset d i) := by
  unfold Dev.datapathReset
  split
  · exact .refl
  extract_lets d1 d2 s l
  have h1 : Keeps [.free, .pins, .life, .regs, .latches, .rates, .imgWin, .sec, .evj, .power, .ports, .lanes, .belowXoff, .rx, .cellsHeld, .sess, .epochs, .cqe, .mat, .rod, .lge, .nss, .idx, .vpl, .fmm, .cap, .fw] d d1 := Dev.rodOff_keeps.step rfl (Dev.freeSessions_keeps.step rfl (Dev.abortCommands_keeps.step rfl
    (Dev.readyLow_keeps.step rfl (Dev.logReset_keeps.step rfl (Dev.cause_keeps.step rfl .refl)))))
  clear_value d1
  have h2 : Keeps [.free, .pins, .life, .regs, .latches, .rates, .imgWin, .sec, .evj, .power, .ports, .lanes, .belowXoff, .rx, .cellsHeld, .sess, .epochs, .cqe, .mat, .rod, .lge, .nss, .idx, .vpl, .fmm, .cap, .fw] d d2 := .foldl (fun _ _ => Dev.portReset_keeps.step rfl .refl) h1
  clear_value d2
  exact .upd (fun p hp => by cases p <;> first | exact absurd hp (by decide) | rfl) h2

theorem Dev.orderedShutdown_keeps {d : Dev} {bit : Nat} {cause : Nat} {what : Nat} :
    Keeps [.free, .pins, .life, .regs, .latches, .rates, .imgWin, .sec, .evj, .power, .ports, .belowXoff, .cellsHeld, .sess, .cqe, .mat, .lge, .nss, .idx, .vpl, .fmm, .cap, .fw] d (Dev.orderedShutdown d bit cause what) := by
  unfold Dev.orderedShutdown
  split
  · exact .refl
  · extract_lets d1 y2
    have h3 : Keeps [.free, .pins, .life, .regs, .latches, .rates, .imgWin, .sec, .evj, .power, .ports, .belowXoff, .cellsHeld, .sess, .cqe, .mat, .lge, .nss, .idx, .vpl, .fmm, .cap, .fw] d d1 := Dev.log_keeps.step rfl (Dev.cause_keeps.step rfl .refl)
    split
    · exact Dev.quiesce_keeps.step rfl h3
    · exact h3
    · exact .set_life rfl h3

theorem Dev.deviceReset_keeps {d : Dev} {i : Iface} :
    Keeps [.free, .pins, .life, .regs, .latches, .rates, .imgWin, .sec, .evj, .power, .ports, .belowXoff, .cellsHeld, .sess, .cqe, .mat, .lge, .nss, .idx, .vpl, .fmm, .cap, .fw] d (Dev.deviceReset d i) :=
  .ite (Dev.quiesce_keeps.step rfl (Dev.logReset_keeps.step rfl (Dev.cause_keeps.step rfl .refl))) .refl

theorem Dev.rstCtl_keeps {d : Dev} {w : Nat} {i : Iface} :
    Keeps [.free, .pins, .life, .regs, .latches, .rates, .imgWin, .sec, .evj, .power, .ports, .lanes, .belowXoff, .rx, .cellsHeld, .sess, .epochs, .cqe, .mat, .rod, .lge, .nss, .idx, .vpl, .fmm, .cap, .fw] d (Dev.rstCtl d w i) :=
  .ite .refl (.ite (Dev.deviceReset_keeps.step rfl .refl) (.ite (Dev.datapathReset_keeps.step rfl .refl) (.ite (Dev.coresReset_keeps.step rfl .refl) .refl)))

theorem Dev.loadData_keeps {d : Dev} {w : Nat} :
    Keeps [.fw] d (Dev.loadData d w) :=
  .ite (.set_fw rfl .refl) .refl

theorem Dev.loadAbort_keeps {d : Dev} :
    Keeps [.fw] d (Dev.loadAbort d) :=
  .set_fw rfl .refl

theorem Dev.wdogKick_keeps {d : Dev} {cluster : Nat} :
    Keeps [.fw] d (Dev.wdogKick d cluster) :=
  .set_fw rfl .refl

theorem Dev.stageBegin_keeps {d : Dev} {ctx : Option Nat} {b : Bytes} :
    Keeps [.fw] d (Dev.stageBegin d ctx b) :=
  .set_fw rfl .refl

theorem Dev.loadOpen_keeps {d : Dev} :
    Keeps [.regs, .fw] d (Dev.loadOpen d) := by
  unfold Dev.loadOpen
  extract_lets inBand1 y2
  exact .ite (Dev.setRegF_keeps.step rfl .refl) (.set_fw rfl .refl)

theorem Dev.loadDone_keeps {d : Dev} {status : Nat} :
    Keeps [.regs, .fw] d (Dev.loadDone d status) :=
  Dev.setRegF_keeps.step rfl (.set_fw rfl .refl)

theorem Dev.fwPolicy_keeps {d : Dev} {addr : Nat} {w : Nat} {session : Nat} :
    Keeps [.regs, .evj] d (Dev.fwPolicy d addr w session) := by
  unfold Dev.fwPolicy
  split
  · exact .refl
  · extract_lets old1 new2
    exact Dev.log_keeps.step rfl (Dev.setRegN_keeps.step rfl .refl)

theorem Dev.romFallback_keeps {d : Dev} {cause : Nat} :
    Keeps [.regs, .evj, .fw] d (Dev.romFallback d cause) := by
  unfold Dev.romFallback
  extract_lets v1 y2 d3
  have h4 : Keeps [.regs, .evj, .fw] d d3 := .set_fw rfl .refl
  exact Dev.raise_keeps.step rfl (Dev.log_keeps.step rfl h4)

theorem Dev.stageRefused_keeps {d : Dev} {check : Nat} {b : Bytes} :
    Keeps [.regs, .evj] d (Dev.stageRefused d check b) :=
  Dev.count_keeps.step rfl (Dev.raise_keeps.step rfl (Dev.log_keeps.step rfl .refl))

theorem Dev.runActive_keeps {d : Dev} {nv : Secure} :
    Keeps [.regs, .evj, .fw] d (Dev.runActive d nv) := by
  unfold Dev.runActive
  split
  · exact .ite (.set_fw rfl .refl) (Dev.romFallback_keeps.step rfl .refl)
  · exact Dev.romFallback_keeps.step rfl .refl

theorem Dev.fwPhase_keeps {d : Dev} {nv : Secure} {copyOk : Bool} {ms : Nat} :
    Keeps [.life, .regs, .evj, .fw] d (Dev.fwPhase d nv copyOk ms).2 := by
  unfold Dev.fwPhase
  split
  · dsimp only
    exact .set_fw rfl .refl
  · split
    · split
      · extract_lets y1 d2
        have h3 : Keeps [.life, .regs, .evj, .fw] d d2 := .set_fw rfl .refl
        dsimp only
        exact Dev.runActive_keeps.step rfl (Dev.stageRefused_keeps.step rfl h3)
      · extract_lets old4 y5 nv6 y7 d8 d9
        have h10 : Keeps [.life, .regs, .evj, .fw] d d8 := .upd (fun p hp => by cases p <;> first | exact absurd hp (by decide) | rfl) .refl
        have h11 : Keeps [.life, .regs, .evj, .fw] d d9 := Dev.count_keeps.step rfl (Dev.log_keeps.step rfl h10)
        split
        · dsimp only
          exact Dev.romFallback_keeps.step rfl (.set_fw rfl .refl)
        · dsimp only
          exact Dev.runActive_keeps.step rfl h11
    · extract_lets y12 d13
      have h14 : Keeps [.life, .regs, .evj, .fw] d d13 := .ite (.set_fw rfl .refl) .refl
      dsimp only
      exact Dev.runActive_keeps.step rfl h14

theorem Dev.loadGo_keeps {d : Dev} {nv : Secure} :
    Keeps [.regs, .evj, .fw] d (Dev.loadGo d nv) := by
  unfold Dev.loadGo
  split
  · exact .refl
  · extract_lets b1 len2 y3 d4 check5
    have h6 : Keeps [.regs, .evj, .fw] d d4 := .set_fw rfl .refl
    split
    · exact Dev.loadDone_keeps.step rfl h6
    · split
      · exact Dev.loadDone_keeps.step rfl (Dev.count_keeps.step rfl (Dev.raise_keeps.step rfl h6))
      · clear_value check5
        split
        · exact Dev.loadDone_keeps.step rfl (Dev.stageRefused_keeps.step rfl h6)
        · exact Dev.stageBegin_keeps.step rfl h6

theorem Dev.loadCtl_keeps {d : Dev} {nv : Secure} {w : Nat} :
    Keeps [.regs, .evj, .fw] d (Dev.loadCtl d nv w) := by
  unfold Dev.loadCtl
  extract_lets d1 d2
  have h3 : Keeps [.regs, .evj, .fw] d d1 := .ite (Dev.loadOpen_keeps.step rfl .refl) .refl
  have h4 : Keeps [.regs, .evj, .fw] d d2 := .ite (Dev.loadGo_keeps.step rfl h3) h3
  exact .ite (Dev.loadAbort_keeps.step rfl h4) h4

theorem Dev.activate_keeps {d : Dev} {nv : Secure} {ctx : Nat} :
    Keeps [.regs, .ports, .sess, .cqe, .fw] d (Dev.activate d nv ctx) := by
  unfold Dev.activate
  split
  · split
    · exact Dev.finish_keeps.step rfl (.set_fw rfl .refl)
    · extract_lets act1 y2
      exact Dev.pauseDispatch_keeps.step rfl (Dev.modFlight_keeps.step rfl (.set_fw rfl .refl))
  · exact Dev.finish_keeps.step rfl .refl

theorem Dev.runFwStage_keeps {d : Dev} {nv : Secure} {ctx : Nat} :
    Keeps [.regs, .evj, .ports, .sess, .cqe, .fw] d (Dev.runFwStage d nv ctx) := by
  unfold Dev.runFwStage
  split
  · exact .refl
  · split
    · split
      · exact Dev.finish_keeps.step rfl (Dev.stageRefused_keeps.step rfl .refl)
    · exact Dev.modFlight_keeps.step rfl (Dev.stageBegin_keeps.step rfl .refl)

theorem Dev.runFwActivate_keeps {d : Dev} {nv : Secure} {ctx : Nat} :
    Keeps [.regs, .ports, .sess, .cqe, .fw] d (Dev.runFwActivate d nv ctx) := by
  unfold Dev.runFwActivate
  split
  · exact .refl
  · exact .ite (Dev.finish_keeps.step rfl .refl) (Dev.activate_keeps.step rfl .refl)

theorem Dev.stageDone_keeps {d : Dev} {ok : Bool} :
    Keeps [.regs, .evj, .ports, .sess, .cqe, .fw] d (Dev.stageDone d ok) := by
  unfold Dev.stageDone
  split
  · exact .refl
  · split
    · exact .refl
    · extract_lets iface1 y2 d3 d4
      have h5 : Keeps [.regs, .evj, .ports, .sess, .cqe, .fw] d d3 := .set_fw rfl .refl
      have h6 : Keeps [.regs, .evj, .ports, .sess, .cqe, .fw] d d4 := .ite (Dev.count_keeps.step rfl (Dev.raise_keeps.step rfl (Dev.log_keeps.step rfl h5))) (Dev.count_keeps.step rfl (.set_fw rfl .refl))
      split
      · exact Dev.loadDone_keeps.step rfl h6
      · exact .ite (Dev.finishOk_keeps.step rfl h6) (Dev.finishInternal_keeps.step rfl h6)

theorem Dev.coresResetDone_keeps {d : Dev} {nv : Secure} :
    Keeps [.life, .regs, .ports, .sess, .cqe, .fw] d (Dev.coresResetDone d nv) := by
  unfold Dev.coresResetDone
  split
  · exact .refl
  · extract_lets y1 d2 y3
    have h4 : Keeps [.life, .regs, .ports, .sess, .cqe, .fw] d d2 := .set_life rfl .refl
    split
    · exact h4
    · exact Dev.activate_keeps.step rfl (.set_fw rfl h4)

theorem Dev.fwReady_keeps {d : Dev} :
    Keeps [.regs, .evj, .ports, .sess, .cqe, .fw] d (Dev.fwReady d) := by
  unfold Dev.fwReady
  split
  · exact .refl
  · split
    · exact .refl
    · extract_lets us1 new2 old3 y4 d5 d6 d7
      have h8 : Keeps [.regs, .evj, .ports, .sess, .cqe, .fw] d d5 := .set_fw rfl .refl
      have h9 : Keeps [.regs, .evj, .ports, .sess, .cqe, .fw] d d6 := Dev.resumeDispatch_keeps.step rfl (Dev.setRegN_keeps.step rfl h8)
      have h10 : Keeps [.regs, .evj, .ports, .sess, .cqe, .fw] d d7 := Dev.raise_keeps.step rfl (Dev.log_keeps.step rfl h9)
      exact Dev.finishOk_keeps.step rfl (Dev.count_keeps.step rfl h10)

theorem Dev.fwReadyTimeout_keeps {d : Dev} :
    Keeps [.regs, .evj, .ports, .sess, .cqe, .fw] d (Dev.fwReadyTimeout d) := by
  unfold Dev.fwReadyTimeout
  split
  · exact .refl
  · extract_lets v1 y2 d3 d4 d5
    have h6 : Keeps [.regs, .evj, .ports, .sess, .cqe, .fw] d d3 := .set_fw rfl .refl
    have h7 : Keeps [.regs, .evj, .ports, .sess, .cqe, .fw] d d4 := Dev.resumeDispatch_keeps.step rfl h6
    have h8 : Keeps [.regs, .evj, .ports, .sess, .cqe, .fw] d d5 := Dev.raise_keeps.step rfl (Dev.log_keeps.step rfl h7)
    exact Dev.finishInternal_keeps.step rfl (Dev.count_keeps.step rfl h8)

theorem Dev.wdogFallback_keeps {d : Dev} :
    Keeps [.free, .pins, .life, .regs, .latches, .rates, .imgWin, .sec, .evj, .power, .ports, .belowXoff, .cellsHeld, .sess, .cqe, .mat, .lge, .nss, .idx, .vpl, .fmm, .cap, .fw] d (Dev.wdogFallback d) := by
  unfold Dev.wdogFallback
  split
  · extract_lets v1 y2 d3 d4 y5
    have h6 : Keeps [.free, .pins, .life, .regs, .latches, .rates, .imgWin, .sec, .evj, .power, .ports, .belowXoff, .cellsHeld, .sess, .cqe, .mat, .lge, .nss, .idx, .vpl, .fmm, .cap, .fw] d d3 := .set_fw rfl .refl
    have h7 : Keeps [.free, .pins, .life, .regs, .latches, .rates, .imgWin, .sec, .evj, .power, .ports, .belowXoff, .cellsHeld, .sess, .cqe, .mat, .lge, .nss, .idx, .vpl, .fmm, .cap, .fw] d d4 := Dev.count_keeps.step rfl (Dev.raise_keeps.step rfl (Dev.log_keeps.step rfl h6))
    exact .ite (.set_fw rfl h7) (Dev.romFallback_keeps.step rfl h7)
  · exact Dev.romFallback_keeps.step rfl .refl
  · exact Dev.orderedShutdown_keeps.step rfl (.set_fw rfl .refl)
  · exact .refl

theorem Dev.wdogExpiry_keeps {d : Dev} {cluster : Nat} :
    Keeps [.free, .pins, .life, .regs, .latches, .rates, .imgWin, .sec, .evj, .power, .ports, .belowXoff, .cellsHeld, .sess, .cqe, .mat, .lge, .nss, .idx, .vpl, .fmm, .cap, .fw] d (Dev.wdogExpiry d cluster) := by
  unfold Dev.wdogExpiry
  split
  · exact .refl
  · extract_lets times1 y2 d3 d4
    have h5 : Keeps [.free, .pins, .life, .regs, .latches, .rates, .imgWin, .sec, .evj, .power, .ports, .belowXoff, .cellsHeld, .sess, .cqe, .mat, .lge, .nss, .idx, .vpl, .fmm, .cap, .fw] d d3 := Dev.coresDown_keeps.step rfl (Dev.cause_keeps.step rfl (.set_fw rfl .refl))
    have h6 : Keeps [.free, .pins, .life, .regs, .latches, .rates, .imgWin, .sec, .evj, .power, .ports, .belowXoff, .cellsHeld, .sess, .cqe, .mat, .lge, .nss, .idx, .vpl, .fmm, .cap, .fw] d d4 := Dev.count_keeps.step rfl (Dev.log_keeps.step rfl h5)
    exact .ite (Dev.wdogFallback_keeps.step rfl h6) h6

end Sys2Proof.Machine
end

