-- ==== Sys2Proof/Laws/SupervisionFrames.lean ====
section
/-! SUPPORT. Frame lemmas: keys and time, power domains, supervision and triggers: each lemma `Dev.f_keeps` names the fields of the device that `Dev.f` may
change; every other field is as before. -/

open Sys2Proof

namespace Sys2Proof.Machine

theorem Dev.unstore_keeps {d : Dev} {slot : Nat} :
    Keeps [.keyStore] d (Dev.unstore d slot) := by
  unfold Dev.unstore
  extract_lets f1
  exact .set_keyStore rfl .refl

theorem Dev.ppsOut_keeps {d : Dev} {high : Bool} :
    Keeps [.pins] d (Dev.ppsOut d high) :=
  .set_pins rfl .refl

theorem Dev.storeSlots_keeps {d : Dev} {nv : Secure} {slots : Tab KeySlot} :
    Keeps [.keyStore] d (Dev.storeSlots d nv slots) :=
  .set_keyStore rfl .refl

theorem Dev.modTime_keeps {d : Dev} {f : DevTime → DevTime} :
    Keeps [.sec] d (Dev.modTime d f) :=
  .set_sec rfl .refl

theorem Dev.cryptoErased_keeps {d : Dev} {nv : Secure} :
    Keeps [.keyStore] d (Dev.cryptoErased d nv) :=
  .ite (.set_keyStore rfl .refl) .refl

theorem Dev.unlockBlockEnd_keeps {d : Dev} :
    Keeps [.sec] d (Dev.unlockBlockEnd d) :=
  .set_sec rfl .refl

theorem Dev.deriveHse_keeps {d : Dev} {nv : Secure} :
    Keeps [.sec] d (Dev.deriveHse d nv) :=
  .ite (.set_sec rfl .refl) .refl

theorem Dev.saErr_keeps {d : Dev} {e : Nat} :
    Keeps [.sec] d (Dev.saErr d e) :=
  .set_sec rfl .refl

theorem Dev.beginLoad_keeps {d : Dev} {slot : Nat} {policy : Nat} {priv : Nat} {g : KeyGen} {ctx : Option Nat} {iface : Iface} :
    Keeps [.sec] d (Dev.beginLoad d slot policy priv g ctx iface) :=
  .set_sec rfl .refl

theorem Dev.kloadData_keeps {d : Dev} {w : Nat} :
    Keeps [.sec] d (Dev.kloadData d w) :=
  .set_sec rfl .refl

theorem Dev.clearMarks_keeps {d : Dev} {nv : Secure} :
    Keeps [.keyStore] d (Dev.clearMarks d nv).2 := by
  unfold Dev.clearMarks
  dsimp only
  exact .foldl (fun _ _ => (Dev.unstore_keeps.step rfl .refl)) .refl

theorem Dev.saInstall_keeps {d : Dev} {nv : Secure} :
    Keeps [.sec] d (Dev.saInstall d nv).2 := by
  unfold Dev.saInstall
  extract_lets i1 rx2 n3 slot4 xpn5 pn6 next7 salt8 scis9 y10
  split
  · dsimp only
    exact Dev.saErr_keeps.step rfl .refl
  · split
    · dsimp only
      exact Dev.saErr_keeps.step rfl .refl
    · split
      · dsimp only
        exact Dev.saErr_keeps.step rfl .refl
      · split
        · dsimp only
          exact Dev.saErr_keeps.step rfl .refl
        · split
          · dsimp only
            exact .refl
          · extract_lets s11 nv12
            dsimp only
            exact .set_sec rfl .refl

theorem Dev.todArm_keeps {d : Dev} {w : Nat} :
    Keeps [.regs, .sec] d (Dev.todArm d w) := by
  unfold Dev.todArm
  extract_lets d1
  have h2 : Keeps [.regs, .sec] d d1 := Dev.setRegN_keeps.step rfl .refl
  exact Dev.modTime_keeps.step rfl h2

theorem Dev.timeState_keeps {d : Dev} {s : TimeState} :
    Keeps [.regs, .sec] d (Dev.timeState d s) :=
  .ite .refl (Dev.raise_keeps.step rfl (Dev.modTime_keeps.step rfl .refl))

theorem Dev.kloadDone_keeps {d : Dev} {status : Nat} :
    Keeps [.regs] d (Dev.kloadDone d status) :=
  Dev.raise_keeps.step rfl (Dev.setRegN_keeps.step rfl .refl)

theorem Dev.kloadCtl_keeps {d : Dev} {nv : Secure} {w : Nat} :
    Keeps [.regs, .sec] d (Dev.kloadCtl d nv w) := by
  unfold Dev.kloadCtl
  extract_lets d1 y2 d3
  have h4 : Keeps [.regs, .sec] d d1 := Dev.setRegN_keeps.step rfl .refl
  have h5 : Keeps [.regs, .sec] d d3 := .set_sec rfl h4
  split
  · exact h4
  · split
    · extract_lets r6
      clear_value r6
      split
      · exact Dev.kloadDone_keeps.step rfl (Dev.count_keeps.step rfl h5)
      · exact Dev.beginLoad_keeps.step rfl h5

theorem Dev.saDrop_keeps {d : Dev} {i : Nat} :
    Keeps [.regs, .sec, .evj, .ports] d (Dev.saDrop d i) := by
  unfold Dev.saDrop
  split
  · exact .refl
  · extract_lets n1 y2 d3 mine4 d5
    have h6 : Keeps [.regs, .sec, .evj, .ports] d d3 := .set_sec rfl .refl
    have h7 : Keeps [.regs, .sec, .evj, .ports] d d5 := .ite (Dev.stomp_keeps.step rfl h6) h6
    exact .ite h7 (Dev.log_keeps.step rfl (Dev.raise_keeps.step rfl h7))

theorem Dev.logAlarm_keeps {d : Dev} {nv : Secure} {src : Nat} {hard : Bool} :
    Keeps [.regs, .evj] d (Dev.logAlarm d nv src hard) :=
  Dev.log_keeps.step rfl .refl

theorem Dev.holdover_keeps {d : Dev} {cause : Nat} :
    Keeps [.regs, .sec, .evj] d (Dev.holdover d cause) :=
  .ite (Dev.log_keeps.step rfl (Dev.timeState_keeps.step rfl (Dev.modTime_keeps.step rfl .refl))) .refl

theorem Dev.saClear_keeps {d : Dev} :
    Keeps [.regs, .sec, .evj, .ports] d (Dev.saClear d) :=
  Dev.saDrop_keeps.step rfl .refl

theorem Dev.untrust_keeps {d : Dev} :
    Keeps [.regs, .sec, .evj] d (Dev.untrust d) :=
  .ite (Dev.log_keeps.step rfl (Dev.timeState_keeps.step rfl .refl)) .refl

theorem Dev.timeSync_keeps {d : Dev} {off : Int} :
    Keeps [.regs, .sec, .evj] d (Dev.timeSync d off) := by
  unfold Dev.timeSync
  split
  · exact .refl
  · split
    · exact Dev.timeState_keeps.step rfl .refl
    · exact .refl
    · exact Dev.log_keeps.step rfl (Dev.timeState_keeps.step rfl .refl)

theorem Dev.unwrapStore_keeps {d : Dev} {nv : Secure} {badA : Bool} {badB : Bool} :
    Keeps [.regs, .sec, .evj, .keyStore] d (Dev.unwrapStore d nv badA badB) := by
  unfold Dev.unwrapStore
  split
  · exact .refl
  · split
    · extract_lets held1 y2
      exact Dev.storeSlots_keeps.step rfl (.set_sec rfl .refl)
    · exact Dev.log_keeps.step rfl (Dev.storeSlots_keeps.step rfl .refl)

theorem Dev.unlockFail_keeps {d : Dev} {nv : Secure} {cause : Nat} :
    Keeps [.free, .regs, .sec, .evj] d (Dev.unlockFail d nv cause).2 := by
  unfold Dev.unlockFail
  split
  next z1 z2 z3 z4 =>
    extract_lets y5 d6
    have h7 : Keeps [.free, .regs, .sec, .evj] d d6 := .set_sec rfl ((Dev.draw_keeps.snd z4).step rfl .refl)
    dsimp only
    exact Dev.log_keeps.step rfl (Dev.raise_keeps.step rfl h7)

theorem Dev.saRelieve_keeps {d : Dev} {i : Nat} :
    Keeps [.regs, .sec, .evj] d (Dev.saRelieve d i) := by
  unfold Dev.saRelieve
  split
  · exact .refl
  · exact Dev.log_keeps.step rfl (.set_sec rfl .refl)

theorem Dev.todCtl_keeps {d : Dev} {w : Nat} :
    Keeps [.regs, .sec, .evj] d (Dev.todCtl d w) := by
  unfold Dev.todCtl
  extract_lets limit1 d2 d3
  have h4 : Keeps [.regs, .sec, .evj] d d2 := .ite (Dev.setRegF_keeps.step rfl .refl) .refl
  have h5 : Keeps [.regs, .sec, .evj] d d3 := Dev.modTime_keeps.step rfl (Dev.setRegF_keeps.step rfl h4)
  exact .ite (Dev.holdover_keeps.step rfl h5) h5

theorem Dev.saActivate_keeps {d : Dev} :
    Keeps [.regs, .sec, .evj] d (Dev.saActivate d) := by
  unfold Dev.saActivate
  extract_lets i1 d2
  have h3 : Keeps [.regs, .sec, .evj] d d2 := by
    unfold d2
    split
    · exact Dev.modSa_keeps.step rfl .refl
    · exact .refl
  split
  · exact Dev.saErr_keeps.step rfl .refl
  · split
    · exact .ite (Dev.saErr_keeps.step rfl .refl) (Dev.saRelieve_keeps.step rfl (Dev.modSa_keeps.step rfl h3))
    · exact Dev.saErr_keeps.step rfl .refl

theorem Dev.unlock_keeps {d : Dev} {nv : Secure} :
    Keeps [.free, .pins, .life, .regs, .sec, .evj, .keyStore] d (Dev.unlock d nv).2 := by
  unfold Dev.unlock
  split
  · dsimp only
    exact .refl
  · split
    · exact Dev.unlockFail_keeps.step rfl .refl
    · split
      · exact Dev.unlockFail_keeps.step rfl .refl
      · split
        · exact Dev.unlockFail_keeps.step rfl .refl
        · extract_lets nv1 y2 d3 d4
          have h5 : Keeps [.free, .pins, .life, .regs, .sec, .evj, .keyStore] d d3 := .set_sec rfl .refl
          have h6 : Keeps [.free, .pins, .life, .regs, .sec, .evj, .keyStore] d d4 := Dev.setFault_keeps.step rfl (Dev.unwrapStore_keeps.step rfl (Dev.deriveHse_keeps.step rfl h5))
          dsimp only
          exact Dev.log_keeps.step rfl (Dev.raise_keeps.step rfl h6)

theorem Dev.ppsEdge_keeps {d : Dev} :
    Keeps [.regs, .sec, .evj] d (Dev.ppsEdge d) := by
  unfold Dev.ppsEdge
  extract_lets t1 off2 d3 d4
  have h5 : Keeps [.regs, .sec, .evj] d d3 := Dev.modTime_keeps.step rfl .refl
  have h6 : Keeps [.regs, .sec, .evj] d d4 := .ite (Dev.modTime_keeps.step rfl .refl) (Dev.log_keeps.step rfl (Dev.count_keeps.step rfl h5))
  exact .ite (Dev.count_keeps.step rfl .refl) (Dev.timeSync_keeps.step rfl h6)

theorem Dev.saCtl_keeps {d : Dev} {nv : Secure} {w : Nat} :
    Keeps [.regs, .sec, .evj, .ports] d (Dev.saCtl d nv w).2 := by
  unfold Dev.saCtl
  extract_lets i1 d2 d3
  have h4 : Keeps [.regs, .sec, .evj, .ports] d d2 := Dev.saErr_keeps.step rfl (Dev.setRegN_keeps.step rfl .refl)
  have h5 : Keeps [.regs, .sec, .evj, .ports] d d3 := .ite h4 (Dev.modSa_keeps.step rfl h4)
  split
  · dsimp only
    exact Dev.saErr_keeps.step rfl .refl
  · split
    next z6 z7 z8 z9 =>
      extract_lets d10
      have h11 : Keeps [.regs, .sec, .evj, .ports] d d10 := by
        unfold d10
        split
        · refine Dev.saClear_keeps.step rfl ?_
          refine .snd ?_ z9
          split
          · exact Dev.saInstall_keeps.step rfl h5
          · dsimp only
            exact h5
        · refine .snd ?_ z9
          split
          · exact Dev.saInstall_keeps.step rfl h5
          · dsimp only
            exact h5
      dsimp only
      exact .ite (Dev.saActivate_keeps.step rfl h11) h11

theorem Dev.runKeyLoad_keeps {d : Dev} {nv : Secure} {ctx : Nat} :
    Keeps [.regs, .sec, .ports, .sess, .cqe] d (Dev.runKeyLoad d nv ctx) := by
  unfold Dev.runKeyLoad
  split
  · exact .refl
  · extract_lets p1
    split
    · split
      · exact Dev.finish_keeps.step rfl (Dev.count_keeps.step rfl .refl)
      · exact Dev.modFlight_keeps.step rfl (Dev.beginLoad_keeps.step rfl .refl)

theorem Dev.keyEraseCommit_keeps {d : Dev} {nv : Secure} :
    Keeps [.regs, .sec, .evj, .ports, .sess, .cqe, .keyStore] d (Dev.keyEraseCommit d nv).2 := by
  unfold Dev.keyEraseCommit
  split
  · dsimp only
    exact .refl
  · extract_lets y1 d2 d3
    have h4 : Keeps [.regs, .sec, .evj, .ports, .sess, .cqe, .keyStore] d d2 := Dev.count_keeps.step rfl (Dev.unstore_keeps.step rfl (.set_sec rfl .refl))
    have h5 : Keeps [.regs, .sec, .evj, .ports, .sess, .cqe, .keyStore] d d3 := Dev.log_keeps.step rfl h4
    dsimp only
    split
    · exact Dev.finishOk_keeps.step rfl h5
    · exact h5

theorem Dev.keystoreCommit_keeps {d : Dev} {nv : Secure} :
    Keeps [.regs, .sec, .evj, .ports, .sess, .cqe, .keyStore] d (Dev.keystoreCommit d nv).2 := by
  unfold Dev.keystoreCommit
  split
  · dsimp only
    exact .refl
  · split
    · dsimp only
      exact .refl
    · extract_lets gens1 keep2 y3 slots4 nv5 y6 d7 d8 d9
      have h10 : Keeps [.regs, .sec, .evj, .ports, .sess, .cqe, .keyStore] d d7 := Dev.count_keeps.step rfl (Dev.storeSlots_keeps.step rfl (.set_sec rfl .refl))
      have h11 : Keeps [.regs, .sec, .evj, .ports, .sess, .cqe, .keyStore] d d8 := by
        unfold d8
        split
        · exact Dev.log_keeps.step rfl h10
        · exact h10
      have h12 : Keeps [.regs, .sec, .evj, .ports, .sess, .cqe, .keyStore] d d9 := Dev.log_keeps.step rfl h11
      split
      · dsimp only
        exact Dev.kloadDone_keeps.step rfl h12
      · dsimp only
        exact Dev.finishOk_keeps.step rfl h12

theorem Dev.loseFlight_keeps {hit : Nat → Bool} {ctx : Nat} {x : Nat × Dev} :
    Keeps [.regs, .evj, .ports, .sess, .cqe, .vpl, .fmm, .cap] x.2 (Dev.loseFlight hit ctx x).2 := by
  unfold Dev.loseFlight
  split
  next n d hx =>
  split
  · exact .refl
  next f hf =>
  split
  next w hw =>
    split
    · exact .refl
    next i slot hl =>
      split
      · extract_lets e
        refine Dev.mergeFailed_keeps.step rfl ?_
        unfold e
        exact .ite .refl (.foldl (fun _ _ => Dev.dropThrough_keeps.step rfl .refl) .refl)
      · exact .refl
  · split
    · exact .refl
    · extract_lets cut
      exact Dev.releaseRead_keeps.step rfl (Dev.modFlight_keeps.step rfl .refl)
  · exact .refl

theorem Dev.loseOpen_keeps {hit : Nat → Bool} {sid : Nat} {x : Nat × Dev} :
    Keeps [.regs, .latches, .imgWin, .evj, .ports, .belowXoff, .cellsHeld, .sess, .cqe, .mat, .lge, .vpl, .fmm] x.2 (Dev.loseOpen hit sid x).2 := by
  unfold Dev.loseOpen
  split
  next z1 z2 z3 =>
    dsimp only
    split
    · split
      · dsimp only
        exact .ite (Dev.endSession_keeps.step rfl .refl) (Dev.refuseProof_keeps.step rfl .refl)
      · dsimp only
        exact .refl
    · dsimp only
      exact .refl

theorem Dev.loseKeys_keeps {d : Dev} {hit : Nat → Bool} :
    Keeps [.regs, .latches, .imgWin, .sec, .evj, .ports, .belowXoff, .cellsHeld, .sess, .cqe, .mat, .lge, .vpl, .fmm, .cap] d (Dev.loseKeys d hit).2 := by
  unfold Dev.loseKeys
  extract_lets x1 x2
  have h1 : Keeps [.regs, .latches, .imgWin, .sec, .evj, .ports, .belowXoff, .cellsHeld, .sess, .cqe, .mat, .lge, .vpl, .fmm, .cap] d x1.2 := foldl_inv (P := fun (x : Nat × Dev) => Keeps [.regs, .latches, .imgWin, .sec, .evj, .ports, .belowXoff, .cellsHeld, .sess, .cqe, .mat, .lge, .vpl, .fmm, .cap] d x.2)
    (fun _ _ h => Dev.loseFlight_keeps.step rfl h) .refl
  have h2 : Keeps [.regs, .latches, .imgWin, .sec, .evj, .ports, .belowXoff, .cellsHeld, .sess, .cqe, .mat, .lge, .vpl, .fmm, .cap] d x2.2 := foldl_inv (P := fun (x : Nat × Dev) => Keeps [.regs, .latches, .imgWin, .sec, .evj, .ports, .belowXoff, .cellsHeld, .sess, .cqe, .mat, .lge, .vpl, .fmm, .cap] d x.2)
    (fun _ _ h => Dev.loseOpen_keeps.step rfl h) h1
  refine foldl_inv (P := fun (x : Nat × Dev) => Keeps [.regs, .latches, .imgWin, .sec, .evj, .ports, .belowXoff, .cellsHeld, .sess, .cqe, .mat, .lge, .vpl, .fmm, .cap] d x.2) (fun x p h => ?_) h2
  split
  · exact Dev.saDrop_keeps.step rfl h
  · exact h

theorem Dev.runKeyErase_keeps {d : Dev} {ctx : Nat} :
    Keeps [.regs, .latches, .imgWin, .sec, .evj, .ports, .belowXoff, .cellsHeld, .sess, .cqe, .mat, .lge, .vpl, .fmm, .cap] d (Dev.runKeyErase d ctx) := by
  unfold Dev.runKeyErase
  split
  · exact .refl
  · extract_lets slot1 y2 d3
    have h4 : Keeps [.regs, .latches, .imgWin, .sec, .evj, .ports, .belowXoff, .cellsHeld, .sess, .cqe, .mat, .lge, .vpl, .fmm, .cap] d d3 := .set_sec rfl .refl
    split
    · exact .refl
    · split
      · exact Dev.finish_keeps.step rfl .refl
      · split
        next z5 z6 z7 z8 =>
          exact Dev.modFlight_keeps.step rfl (.set_sec rfl ((Dev.loseKeys_keeps.snd z8).step rfl h4))

theorem Dev.zeroize_keeps {d : Dev} :
    Keeps [.regs, .latches, .imgWin, .sec, .evj, .ports, .belowXoff, .cellsHeld, .sess, .cqe, .mat, .lge, .vpl, .fmm, .cap] d (Dev.zeroize d) := by
  unfold Dev.zeroize
  extract_lets loads1 y2 d3 d4
  have h5 : Keeps [.regs, .latches, .imgWin, .sec, .evj, .ports, .belowXoff, .cellsHeld, .sess, .cqe, .mat, .lge, .vpl, .fmm, .cap] d d3 := .set_sec rfl .refl
  have h6 : Keeps [.regs, .latches, .imgWin, .sec, .evj, .ports, .belowXoff, .cellsHeld, .sess, .cqe, .mat, .lge, .vpl, .fmm, .cap] d d4 := by
    unfold d4
    refine .foldl (fun y7 a8 => ?_) ?_
    · split
      · exact Dev.finish_keeps.step rfl .refl
      · exact Dev.kloadDone_keeps.step rfl (Dev.count_keeps.step rfl .refl)
    · exact h5
  exact Dev.loseKeys_keeps.step rfl h6

theorem Dev.alarm_keeps {d : Dev} {nv : Secure} {src : Nat} {active : Nat} :
    Keeps [.free, .pins, .life, .regs, .latches, .imgWin, .sec, .evj, .ports, .belowXoff, .cellsHeld, .sess, .cqe, .mat, .lge, .vpl, .fmm, .cap] d (Dev.alarm d nv src active).2 := by
  unfold Dev.alarm
  extract_lets src1 y2 d3 hard4 nv5 nv6 d7
  have h8 : Keeps [.free, .pins, .life, .regs, .latches, .imgWin, .sec, .evj, .ports, .belowXoff, .cellsHeld, .sess, .cqe, .mat, .lge, .vpl, .fmm, .cap] d d3 := .set_sec rfl .refl
  have h9 : Keeps [.free, .pins, .life, .regs, .latches, .imgWin, .sec, .evj, .ports, .belowXoff, .cellsHeld, .sess, .cqe, .mat, .lge, .vpl, .fmm, .cap] d d7 := Dev.zeroize_keeps.step rfl h8
  split
  · dsimp only
    exact h8
  · split
    next z10 z11 z12 z13 =>
      extract_lets y14 d15 d16
      have h17 : Keeps [.free, .pins, .life, .regs, .latches, .imgWin, .sec, .evj, .ports, .belowXoff, .cellsHeld, .sess, .cqe, .mat, .lge, .vpl, .fmm, .cap] d d15 := .set_sec rfl ((Dev.draw_keeps.snd z13).step rfl h9)
      have h18 : Keeps [.free, .pins, .life, .regs, .latches, .imgWin, .sec, .evj, .ports, .belowXoff, .cellsHeld, .sess, .cqe, .mat, .lge, .vpl, .fmm, .cap] d d16 := Dev.raise_keeps.step rfl (Dev.setFault_keeps.step rfl h17)
      split
      · exact Dev.logAlarm_keeps.step rfl h18
      · exact h18

theorem Dev.domAllOff_keeps {d : Dev} :
    Keeps [.power] d (Dev.domAllOff d) :=
  .set_power rfl .refl

theorem Dev.domLoses_keeps {d : Dev} {n : Nat} :
    Keeps [.regs, .sec, .ports] d (Dev.domLoses d n) := by
  unfold Dev.domLoses
  split
  · extract_lets p1
    dsimp only
    exact .set_sec rfl (Dev.modPort_keeps.step rfl .refl)
  · exact .ite (.foldl (fun _ _ => (.set_regs rfl .refl)) .refl) (.ite (.set_sec rfl .refl) .refl)

theorem Dev.domFreeze_keeps {d : Dev} :
    Keeps [.power] d (Dev.domFreeze d) :=
  .set_power rfl .refl

theorem Dev.pwrResult_keeps {d : Dev} {n : Nat} {code : Nat} {prev : Nat} {state : Nat} :
    Keeps [.power] d (Dev.pwrResult d n code prev state) :=
  .set_power rfl .refl

theorem Dev.modDom_keeps {d : Dev} {n : Nat} {f : Domain → Domain} :
    Keeps [.power] d (Dev.modDom d n f) :=
  .ite (.set_power rfl .refl) .refl

theorem Dev.domDrained_keeps {d : Dev} {n : Nat} :
    Keeps [.power] d (Dev.domDrained d n) :=
  .ite .refl (Dev.modDom_keeps.step rfl .refl)

theorem Dev.domRefused_keeps {d : Dev} {n : Nat} {state : Nat} {code : Nat} :
    Keeps [.regs, .evj] d (Dev.domRefused d n state code) :=
  Dev.log_keeps.step rfl (Dev.count_keeps.step rfl (Dev.raise_keeps.step rfl .refl))

theorem Dev.clkBack_keeps {d : Dev} {c : Nat} :
    Keeps [.regs, .evj, .clocks, .rod] d (Dev.clkBack d c) := by
  unfold Dev.clkBack
  split
  · exact .refl
  · extract_lets since1 d2 d3
    have h4 : Keeps [.regs, .evj, .clocks, .rod] d d2 := .set_clocks rfl .refl
    have h5 : Keeps [.regs, .evj, .clocks, .rod] d d3 := .ite (Dev.modRod_keeps.step rfl h4) h4
    exact .ite (Dev.log_keeps.step rfl h5) h5

theorem Dev.domReplaced_keeps {d : Dev} {n : Nat} {r : DomReq} :
    Keeps [.regs, .power, .ports, .sess, .cqe] d (Dev.domReplaced d n r) := by
  unfold Dev.domReplaced
  split
  · exact Dev.finish_keeps.step rfl .refl
  · exact Dev.raise_keeps.step rfl (Dev.pwrResult_keeps.step rfl .refl)

theorem Dev.domAnswer_keeps {d : Dev} {n : Nat} {r : DomReq} {prev : DomState} :
    Keeps [.regs, .power, .ports, .sess, .cqe] d (Dev.domAnswer d n r prev) := by
  unfold Dev.domAnswer
  split
  · exact Dev.finishOk_keeps.step rfl .refl
  · exact Dev.raise_keeps.step rfl (Dev.pwrResult_keeps.step rfl .refl)

theorem Dev.domWakes_keeps {d : Dev} {nv : Secure} {n : Nat} {from_ : DomState} :
    Keeps [.life, .regs, .latches, .imgWin, .sec, .evj, .ports, .belowXoff, .rx, .cellsHeld, .sess, .cqe, .mat, .rod, .lge, .idx, .vpl, .fmm] d (Dev.domWakes d nv n from_) := by
  unfold Dev.domWakes
  split
  · exact Dev.assign_keeps.step rfl .refl
  · split
    · exact .ite (Dev.idxBegin_keeps.step rfl .refl) .refl
    · split
      · extract_lets d1
        have h2 : Keeps [.life, .regs, .latches, .imgWin, .sec, .evj, .ports, .belowXoff, .rx, .cellsHeld, .sess, .cqe, .mat, .rod, .lge, .idx, .vpl, .fmm] d d1 := Dev.freeSessions_keeps.step rfl .refl
        exact .ite (Dev.freeCells_keeps.step rfl (.set_rx rfl h2)) h2
      · exact .ite (.set_life rfl .refl) (.ite (Dev.nextColl_keeps.step rfl .refl) (.ite (Dev.rodStart_keeps.step rfl .refl) (.ite (Dev.deriveHse_keeps.step rfl .refl) .refl)))

theorem Dev.domLeaves_keeps {d : Dev} {n : Nat} {target : DomState} :
    Keeps [.free, .life, .regs, .evj, .ports, .lanes, .sess, .epochs, .cqe, .mat, .rod, .lge, .idx, .vpl, .fmm, .fw] d (Dev.domLeaves d n target) :=
  .ite (Dev.portDown_keeps.step rfl .refl) (.ite (.foldl (fun _ _ => (.ite .refl (Dev.portDown_keeps.step rfl .refl))) .refl) (.ite (Dev.assign_keeps.step rfl .refl) (.ite (.set_idx rfl .refl) (.ite (.ite (.set_life rfl .refl) (Dev.coresDown_keeps.step rfl .refl)) (.ite (Dev.rodOff_keeps.step rfl .refl) .refl)))))

theorem Dev.domBegin_keeps {d : Dev} {n : Nat} {r : DomReq} :
    Keeps [.free, .life, .regs, .evj, .power, .ports, .lanes, .sess, .epochs, .cqe, .mat, .rod, .lge, .idx, .vpl, .fmm, .fw] d (Dev.domBegin d n r) := by
  unfold Dev.domBegin
  extract_lets was1 d2 d3
  have h4 : Keeps [.free, .life, .regs, .evj, .power, .ports, .lanes, .sess, .epochs, .cqe, .mat, .rod, .lge, .idx, .vpl, .fmm, .fw] d d2 := Dev.modDom_keeps.step rfl .refl
  have h5 : Keeps [.free, .life, .regs, .evj, .power, .ports, .lanes, .sess, .epochs, .cqe, .mat, .rod, .lge, .idx, .vpl, .fmm, .fw] d d3 := by
    unfold d3
    split
    · exact Dev.modFlight_keeps.step rfl h4
    · exact h4
  exact .ite (Dev.domLeaves_keeps.step rfl h5) h5

theorem Dev.domCourse_keeps {d : Dev} {n : Nat} {r : DomReq} :
    Keeps [.free, .life, .regs, .evj, .power, .ports, .lanes, .sess, .epochs, .cqe, .mat, .rod, .lge, .idx, .vpl, .fmm, .fw] d (Dev.domCourse d n r) := by
  unfold Dev.domCourse
  extract_lets x1 d2
  have h3 : Keeps [.free, .life, .regs, .evj, .power, .ports, .lanes, .sess, .epochs, .cqe, .mat, .rod, .lge, .idx, .vpl, .fmm, .fw] d d2 := by
    unfold d2
    split
    · exact Dev.domReplaced_keeps.step rfl .refl
    · exact .refl
  exact .ite (Dev.count_keeps.step rfl (Dev.modDom_keeps.step rfl h3)) (.ite (Dev.domAnswer_keeps.step rfl .refl) (Dev.domBegin_keeps.step rfl .refl))

theorem Dev.domDone_keeps {d : Dev} {nv : Secure} {n : Nat} :
    Keeps [.free, .life, .regs, .latches, .imgWin, .sec, .evj, .power, .ports, .lanes, .belowXoff, .rx, .cellsHeld, .sess, .epochs, .cqe, .mat, .rod, .lge, .idx, .vpl, .fmm, .fw] d (Dev.domDone d nv n) := by
  unfold Dev.domDone
  extract_lets x1
  split
  · exact .refl
  · split
    · exact .refl
    · extract_lets d2 d3 d4 d5
      have h6 : Keeps [.free, .life, .regs, .latches, .imgWin, .sec, .evj, .power, .ports, .lanes, .belowXoff, .rx, .cellsHeld, .sess, .epochs, .cqe, .mat, .rod, .lge, .idx, .vpl, .fmm, .fw] d d2 := Dev.count_keeps.step rfl (Dev.modDom_keeps.step rfl .refl)
      have h7 : Keeps [.free, .life, .regs, .latches, .imgWin, .sec, .evj, .power, .ports, .lanes, .belowXoff, .rx, .cellsHeld, .sess, .epochs, .cqe, .mat, .rod, .lge, .idx, .vpl, .fmm, .fw] d d3 := Dev.log_keeps.step rfl h6
      have h8 : Keeps [.free, .life, .regs, .latches, .imgWin, .sec, .evj, .power, .ports, .lanes, .belowXoff, .rx, .cellsHeld, .sess, .epochs, .cqe, .mat, .rod, .lge, .idx, .vpl, .fmm, .fw] d d4 := .ite (Dev.domLoses_keeps.step rfl h7) (.ite (Dev.domWakes_keeps.step rfl h7) h7)
      have h9 : Keeps [.free, .life, .regs, .latches, .imgWin, .sec, .evj, .power, .ports, .lanes, .belowXoff, .rx, .cellsHeld, .sess, .epochs, .cqe, .mat, .rod, .lge, .idx, .vpl, .fmm, .fw] d d5 := Dev.domAnswer_keeps.step rfl h8
      split
      · exact Dev.domCourse_keeps.step rfl h9
      · exact h9

theorem Dev.runPowerSet_keeps {d : Dev} {ctx : Nat} :
    Keeps [.free, .life, .regs, .evj, .power, .ports, .lanes, .sess, .epochs, .cqe, .mat, .rod, .lge, .idx, .vpl, .fmm, .fw] d (Dev.runPowerSet d ctx) := by
  unfold Dev.runPowerSet
  split
  · exact .refl
  · split
    · extract_lets iface1
      split
      · exact Dev.finish_keeps.step rfl .refl
      · split
        · exact Dev.finish_keeps.step rfl (Dev.domRefused_keeps.step rfl .refl)
        · exact Dev.domCourse_keeps.step rfl (Dev.modFlight_keeps.step rfl .refl)

theorem Dev.pwrReq_keeps {d : Dev} {w : Nat} {i : Iface} :
    Keeps [.free, .life, .regs, .evj, .power, .ports, .lanes, .sess, .epochs, .cqe, .mat, .rod, .lge, .idx, .vpl, .fmm, .fw] d (Dev.pwrReq d w i) := by
  unfold Dev.pwrReq
  extract_lets d1
  have h2 : Keeps [.free, .life, .regs, .evj, .power, .ports, .lanes, .sess, .epochs, .cqe, .mat, .rod, .lge, .idx, .vpl, .fmm, .fw] d d1 := Dev.setRegN_keeps.step rfl .refl
  split
  · split
    · exact h2
    · extract_lets now3
      split
      · exact Dev.pwrResult_keeps.step rfl (Dev.domRefused_keeps.step rfl h2)
      · split
        · exact Dev.pwrResult_keeps.step rfl (Dev.domRefused_keeps.step rfl h2)
        · exact Dev.domCourse_keeps.step rfl h2

theorem Dev.clkLost_keeps {d : Dev} {c : Nat} :
    Keeps [.free, .pins, .life, .regs, .latches, .rates, .imgWin, .sec, .evj, .power, .clocks, .ports, .lanes, .belowXoff, .cellsHeld, .sess, .epochs, .cqe, .mat, .rod, .lge, .nss, .idx, .vpl, .fmm, .cap, .fw] d (Dev.clkLost d c) := by
  unfold Dev.clkLost
  split
  · exact .refl
  · extract_lets d1 d2 d3
    have h4 : Keeps [.free, .pins, .life, .regs, .latches, .rates, .imgWin, .sec, .evj, .power, .clocks, .ports, .lanes, .belowXoff, .cellsHeld, .sess, .epochs, .cqe, .mat, .rod, .lge, .nss, .idx, .vpl, .fmm, .cap, .fw] d d1 := .set_clocks rfl .refl
    have h5 : Keeps [.free, .pins, .life, .regs, .latches, .rates, .imgWin, .sec, .evj, .power, .clocks, .ports, .lanes, .belowXoff, .cellsHeld, .sess, .epochs, .cqe, .mat, .rod, .lge, .nss, .idx, .vpl, .fmm, .cap, .fw] d d2 := Dev.raise_keeps.step rfl h4
    have h6 : Keeps [.free, .pins, .life, .regs, .latches, .rates, .imgWin, .sec, .evj, .power, .clocks, .ports, .lanes, .belowXoff, .cellsHeld, .sess, .epochs, .cqe, .mat, .rod, .lge, .nss, .idx, .vpl, .fmm, .cap, .fw] d d3 := .foldl (fun _ _ => (.ite .refl (Dev.portDown_keeps.step rfl .refl))) h5
    split
    · exact h5
    · exact Dev.orderedShutdown_keeps.step rfl (Dev.log_keeps.step rfl h5)
    · exact Dev.orderedShutdown_keeps.step rfl (Dev.log_keeps.step rfl h5)
    · exact h5
    · exact Dev.log_keeps.step rfl h6
    · exact Dev.rodClkLost_keeps.step rfl h5
    · exact Dev.log_keeps.step rfl h5

theorem Dev.actTimeout_keeps {d : Dev} {n : Nat} :
    Keeps [.pins] d (Dev.actTimeout d n) :=
  .ite (.set_pins rfl .refl) (.set_pins rfl .refl)

theorem Dev.modTrig_keeps {d : Dev} {t : Nat} {f : Trigger → Trigger} :
    Keeps [.sup] d (Dev.modTrig d t f) :=
  .ite (.set_sup rfl .refl) .refl

theorem Dev.healthMs_keeps {d : Dev} :
    Keeps [.fmm] d (Dev.healthMs d) := by
  unfold Dev.healthMs
  extract_lets t1 live2 y3 d4 b5 top6 y7
  have h8 : Keeps [.fmm] d d4 := .ite (.set_fmm rfl .refl) .refl
  exact .ite h8 (.set_fmm rfl h8)

theorem Dev.modSite_keeps {d : Dev} {i : Nat} {f : Site → Site} :
    Keeps [.sup] d (Dev.modSite d i f) :=
  .ite (.set_sup rfl .refl) .refl

theorem Dev.pfHigh_keeps {d : Dev} :
    Keeps [.pins, .life, .sup] d (Dev.pfHigh d) :=
  Dev.setFault_keeps.step rfl (.upd (fun p hp => by cases p <;> first | exact absurd hp (by decide) | rfl) .refl)

theorem Dev.trigSample_keeps {d : Dev} {t : Nat} {mv : Nat} :
    Keeps [.sup] d (Dev.trigSample d t mv) := by
  unfold Dev.trigSample
  extract_lets now1 n2
  exact Dev.modTrig_keeps.step rfl .refl

theorem Dev.thermPin_keeps {d : Dev} :
    Keeps [.pins, .regs, .evj] d (Dev.thermPin d) := by
  unfold Dev.thermPin
  extract_lets live1 y2 d3
  have h4 : Keeps [.pins, .regs, .evj] d d3 := Dev.count_keeps.step rfl (Dev.raise_keeps.step rfl (.set_pins rfl .refl))
  split
  · exact .ite (.set_pins rfl .refl) .refl
  · split
    · exact Dev.log_keeps.step rfl h4
    · exact .refl

theorem Dev.pfStuckNow_keeps {d : Dev} :
    Keeps [.pins, .life, .regs, .evj, .sup] d (Dev.pfStuckNow d) := by
  unfold Dev.pfStuckNow
  extract_lets waits1 y2 d3
  have h4 : Keeps [.pins, .life, .regs, .evj, .sup] d d3 := Dev.setFault_keeps.step rfl (Dev.raise_keeps.step rfl (.set_sup rfl .refl))
  exact .ite (Dev.log_keeps.step rfl h4) .refl

theorem Dev.trigClear_keeps {d : Dev} {t : Nat} :
    Keeps [.regs, .evj, .sup] d (Dev.trigClear d t) := by
  unfold Dev.trigClear
  extract_lets x1 d2
  have h3 : Keeps [.regs, .evj, .sup] d d2 := Dev.modTrig_keeps.step rfl .refl
  exact .ite (.ite (Dev.log_keeps.step rfl h3) h3) .refl

theorem Dev.trigFault_keeps {d : Dev} {t : Nat} :
    Keeps [.regs, .evj, .sup] d (Dev.trigFault d t) := by
  unfold Dev.trigFault
  extract_lets x1 d2
  have h3 : Keeps [.regs, .evj, .sup] d d2 := Dev.raise_keeps.step rfl (Dev.modTrig_keeps.step rfl .refl)
  exact .ite (Dev.log_keeps.step rfl (Dev.count_keeps.step rfl h3)) .refl

theorem Dev.suspension_keeps {d : Dev} :
    Keeps [.regs, .evj, .fmm] d (Dev.suspension d) := by
  unfold Dev.suspension
  split
  · extract_lets y1 d2
    have h3 : Keeps [.regs, .evj, .fmm] d d2 := .set_fmm rfl .refl
    exact Dev.log_keeps.step rfl (Dev.health_keeps.step rfl (Dev.raise_keeps.step rfl h3))
  · split
    · extract_lets d4 y5 d6 i7
      have h8 : Keeps [.regs, .evj, .fmm] d d4 := Dev.health_keeps.step rfl .refl
      have h9 : Keeps [.regs, .evj, .fmm] d d6 := .set_fmm rfl h8
      exact Dev.nextColl_keeps.step rfl (Dev.log_keeps.step rfl (Dev.raise_keeps.step rfl h9))
    · exact .refl
  · exact .refl

theorem Dev.fireAt_keeps {d : Dev} {nv : Secure} {t : Nat} {at_ : Nat} {tq : Nat} :
    Keeps [.regs, .evj, .fmm, .cap] d (Dev.fireAt d nv t at_ tq).2 := by
  unfold Dev.fireAt
  split
  · dsimp only
    exact .refl
  · split
    · dsimp only
      exact Dev.firing_keeps.step rfl .refl
    · dsimp only
      exact .set_cap rfl .refl

theorem Dev.trigFire_keeps {d : Dev} {nv : Secure} {t : Nat} :
    Keeps [.regs, .evj, .sup, .fmm, .cap] d (Dev.trigFire d nv t).2 := by
  unfold Dev.trigFire
  extract_lets x1
  split
  · exact Dev.fireAt_keeps.step rfl (Dev.modTrig_keeps.step rfl .refl)
  · dsimp only
    exact .refl

theorem Dev.railTrip_keeps {d : Dev} {rail : Nat} {beyond : Bool} :
    Keeps [.free, .pins, .life, .regs, .latches, .rates, .imgWin, .sec, .evj, .power, .sup, .ports, .belowXoff, .cellsHeld, .sess, .cqe, .mat, .lge, .nss, .idx, .vpl, .fmm, .cap, .fw] d (Dev.railTrip d rail beyond) := by
  unfold Dev.railTrip
  split
  · exact .refl
  · extract_lets y1 d2
    have h3 : Keeps [.free, .pins, .life, .regs, .latches, .rates, .imgWin, .sec, .evj, .power, .sup, .ports, .belowXoff, .cellsHeld, .sess, .cqe, .mat, .lge, .nss, .idx, .vpl, .fmm, .cap, .fw] d d2 := .set_sup rfl .refl
    exact Dev.orderedShutdown_keeps.step rfl h3

theorem Dev.siteFailed_keeps {d : Dev} {i : Nat} {cause : Nat} :
    Keeps [.free, .pins, .life, .regs, .latches, .rates, .imgWin, .sec, .evj, .power, .sup, .ports, .belowXoff, .cellsHeld, .sess, .cqe, .mat, .lge, .nss, .idx, .vpl, .fmm, .cap, .fw] d (Dev.siteFailed d i cause) := by
  unfold Dev.siteFailed
  split
  · exact .refl
  · extract_lets d1 d2
    have h3 : Keeps [.free, .pins, .life, .regs, .latches, .rates, .imgWin, .sec, .evj, .power, .sup, .ports, .belowXoff, .cellsHeld, .sess, .cqe, .mat, .lge, .nss, .idx, .vpl, .fmm, .cap, .fw] d d1 := Dev.raise_keeps.step rfl (Dev.modSite_keeps.step rfl .refl)
    have h4 : Keeps [.free, .pins, .life, .regs, .latches, .rates, .imgWin, .sec, .evj, .power, .sup, .ports, .belowXoff, .cellsHeld, .sess, .cqe, .mat, .lge, .nss, .idx, .vpl, .fmm, .cap, .fw] d d2 := Dev.log_keeps.step rfl (Dev.count_keeps.step rfl h3)
    exact .ite (Dev.orderedShutdown_keeps.step rfl h4) h4

theorem Dev.siteSample_keeps {d : Dev} {i : Nat} {t : Int} :
    Keeps [.free, .pins, .life, .regs, .latches, .rates, .imgWin, .sec, .evj, .power, .sup, .ports, .belowXoff, .cellsHeld, .sess, .cqe, .mat, .lge, .nss, .idx, .vpl, .fmm, .cap, .fw] d (Dev.siteSample d i t) :=
  .ite (Dev.siteFailed_keeps.step rfl (Dev.modSite_keeps.step rfl .refl)) (Dev.modSite_keeps.step rfl .refl)

theorem Dev.thermalSample_keeps {d : Dev} {temps : List (Option Int)} :
    Keeps [.free, .pins, .life, .regs, .latches, .rates, .imgWin, .sec, .evj, .power, .sup, .ports, .belowXoff, .cellsHeld, .sess, .cqe, .mat, .lge, .nss, .idx, .vpl, .fmm, .cap, .fw] d (Dev.thermalSample d temps) := by
  unfold Dev.thermalSample
  extract_lets d1 d2 y3
  have h4 : Keeps [.free, .pins, .life, .regs, .latches, .rates, .imgWin, .sec, .evj, .power, .sup, .ports, .belowXoff, .cellsHeld, .sess, .cqe, .mat, .lge, .nss, .idx, .vpl, .fmm, .cap, .fw] d d1 := by
    unfold d1
    refine .foldl (fun y5 a6 => ?_) ?_
    · split
      · exact Dev.siteSample_keeps.step rfl .refl
      · exact .refl
    · exact .refl
  have h7 : Keeps [.free, .pins, .life, .regs, .latches, .rates, .imgWin, .sec, .evj, .power, .sup, .ports, .belowXoff, .cellsHeld, .sess, .cqe, .mat, .lge, .nss, .idx, .vpl, .fmm, .cap, .fw] d d2 := Dev.thermPin_keeps.step rfl (Dev.suspension_keeps.step rfl (Dev.healthMs_keeps.step rfl h4))
  split
  · exact .ite h7 (Dev.orderedShutdown_keeps.step rfl (.set_sup rfl h7))
  · exact h7

end Sys2Proof.Machine
end

