-- ==== Sys2Proof/Laws/StartFrames.lean ====
section
/-! SUPPORT. Frame lemmas: images and the phases of a start: each lemma `Dev.f_keeps` names the fields of the device that `Dev.f` may
change; every other field is as before. -/

open Sys2Proof

namespace Sys2Proof.Machine

theorem Dev.imgStop_keeps {d : Dev} :
    Keeps [.free, .imgWin, .copyA, .copyB] d (Dev.imgStop d) := by
  unfold Dev.imgStop
  extract_lets x1 d2
  have h3 : Keeps [.free, .imgWin, .copyA, .copyB] d d2 := by
    unfold d2
    split
    · split
      next z4 z5 z6 z7 =>
        extract_lets n8 torn9
        exact .ite (.set_copyA rfl ((Dev.draw_keeps.snd z7).step rfl .refl)) (.set_copyB rfl ((Dev.draw_keeps.snd z7).step rfl .refl))
    · exact .refl
  exact .set_imgWin rfl h3

theorem Dev.weighCopies_keeps {d : Dev} {nv : Secure} :
    Keeps [.imgWin] d (Dev.weighCopies d nv) := by
  unfold Dev.weighCopies
  split
  · extract_lets inactiveA1 y2
    exact .set_imgWin rfl .refl

theorem Dev.imgCheck_keeps {d : Dev} {task : Nat} {a : Bool} :
    Keeps [.imgWin] d (Dev.imgCheck d task a) := by
  unfold Dev.imgCheck
  extract_lets spi1 y2
  exact .set_imgWin rfl .refl

theorem Dev.setWidths_keeps {d : Dev} {widths : List Nat} :
    Keeps [.mat] d (Dev.setWidths d widths) := by
  unfold Dev.setWidths
  extract_lets same1 y2
  exact .set_mat rfl .refl

theorem Dev.applyPower_keeps {d : Dev} {states : List Nat} :
    Keeps [.regs, .sec, .power, .ports] d (Dev.applyPower d states) := by
  unfold Dev.applyPower
  extract_lets y1 d2
  have h3 : Keeps [.regs, .sec, .power, .ports] d d2 := .set_power rfl .refl
  exact .foldl (fun _ _ => (.ite (Dev.domLoses_keeps.step rfl .refl) .refl)) h3

theorem Dev.imgDone_keeps {d : Dev} :
    Keeps [.regs, .imgWin] d (Dev.imgDone d) :=
  Dev.setReg_keeps.step rfl (.set_imgWin rfl .refl)

theorem Dev.imgConflict_keeps {d : Dev} :
    Keeps [.regs] d (Dev.imgConflict d) :=
  Dev.setReg_keeps.step rfl .refl

theorem Dev.applyPart_keeps {d : Dev} {p : PartSection} :
    Keeps [.regs, .cqe] d (Dev.applyPart d p) := by
  unfold Dev.applyPart
  extract_lets d1 d2 d3 d4 y5
  have h6 : Keeps [.regs, .cqe] d d1 := Dev.setRegF_keeps.step rfl (Dev.setRegF_keeps.step rfl .refl)
  have h7 : Keeps [.regs, .cqe] d d2 := .foldl (fun _ _ => (Dev.setRegF_keeps.step rfl .refl)) h6
  have h8 : Keeps [.regs, .cqe] d d3 := .foldl (fun _ _ => (Dev.setRegF_keeps.step rfl .refl)) h7
  have h9 : Keeps [.regs, .cqe] d d4 := Dev.setRegF_keeps.step rfl (Dev.setRegF_keeps.step rfl h8)
  exact .set_cqe rfl h9

theorem Dev.imgData_keeps {d : Dev} {w : Nat} {i : Iface} :
    Keeps [.regs, .imgWin] d (Dev.imgData d w i) := by
  unfold Dev.imgData
  extract_lets x1
  exact .ite (Dev.imgConflict_keeps.step rfl .refl) (.ite .refl (.ite (.set_imgWin rfl .refl) (.set_imgWin rfl .refl)))

theorem Dev.applyRegs_keeps {d : Dev} {im : Image} :
    Keeps [.regs] d (Dev.applyRegs d im) := by
  unfold Dev.applyRegs
  extract_lets d1 d2 d3 l4 d5 d6 d7 p8 d9 d10 d11
  have h12 : Keeps [.regs] d d1 := Dev.setRegF_keeps.step rfl (Dev.setRegF_keeps.step rfl .refl)
  have h13 : Keeps [.regs] d d2 := Dev.setRegF_keeps.step rfl (Dev.setRegF_keeps.step rfl h12)
  have h14 : Keeps [.regs] d d3 := Dev.setRegF_keeps.step rfl (Dev.setRegF_keeps.step rfl h13)
  have h15 : Keeps [.regs] d d5 := Dev.setRegF_keeps.step rfl (Dev.setRegF_keeps.step rfl h14)
  have h16 : Keeps [.regs] d d6 := Dev.setRegF_keeps.step rfl (Dev.setRegF_keeps.step rfl h15)
  have h17 : Keeps [.regs] d d7 := Dev.setRegF_keeps.step rfl h16
  have h18 : Keeps [.regs] d d9 := Dev.setRegN_keeps.step rfl (Dev.setRegN_keeps.step rfl h17)
  have h19 : Keeps [.regs] d d10 := Dev.setRegN_keeps.step rfl (Dev.setRegN_keeps.step rfl h18)
  have h20 : Keeps [.regs] d d11 := Dev.setRegN_keeps.step rfl (Dev.setRegF_keeps.step rfl h19)
  refine .foldl (fun y21 a22 => ?_) ?_
  · split
    · exact .refl
    · extract_lets d23
      have h24 : Keeps [.regs] y21 d23 := Dev.setRegF_keeps.step rfl (Dev.setRegF_keeps.step rfl .refl)
      exact Dev.setRegF_keeps.step rfl (Dev.setRegF_keeps.step rfl h24)
  · exact h20

theorem Dev.imgApply_keeps {d : Dev} {i : Iface} :
    Keeps [.regs, .imgWin] d (Dev.imgApply d i) := by
  unfold Dev.imgApply
  extract_lets x1
  exact .ite (Dev.imgConflict_keeps.step rfl .refl) (.ite .refl (.ite (Dev.imgFail_keeps.step rfl .refl) (.ite (Dev.imgFail_keeps.step rfl .refl) (Dev.imgCheck_keeps.step rfl .refl))))

theorem Dev.imgStore_keeps {d : Dev} {i : Iface} :
    Keeps [.regs, .imgWin] d (Dev.imgStore d i) := by
  unfold Dev.imgStore
  extract_lets x1 t2
  exact .ite (Dev.imgConflict_keeps.step rfl .refl) (.ite .refl (.ite (Dev.imgFail_keeps.step rfl .refl) (.ite (Dev.imgFail_keeps.step rfl .refl) (Dev.imgCheck_keeps.step rfl .refl))))

theorem Dev.imgOpen_keeps {d : Dev} {i : Iface} :
    Keeps [.regs, .imgWin] d (Dev.imgOpen d i) := by
  unfold Dev.imgOpen
  extract_lets len1 y2
  exact .ite (.ite .refl (Dev.imgConflict_keeps.step rfl .refl)) (.ite (Dev.imgFail_keeps.step rfl .refl) (.set_imgWin rfl .refl))

theorem Dev.applyPorts_keeps {d : Dev} {p : PortSection} :
    Keeps [.regs, .ports] d (Dev.applyPorts d p) := by
  unfold Dev.applyPorts
  extract_lets one1 d2 d3 d4 d5
  have h6 : Keeps [.regs, .ports] d d2 := by
    unfold d2
    refine .foldl (fun y7 a8 => ?_) ?_
    · unfold one1
      split
      · exact .refl
      · extract_lets d9 d10
        have h11 : Keeps [.regs, .ports] y7 d9 := Dev.setRegF_keeps.step rfl (Dev.setRegF_keeps.step rfl .refl)
        have h12 : Keeps [.regs, .ports] y7 d10 := Dev.setRegF_keeps.step rfl (Dev.setRegF_keeps.step rfl h11)
        exact Dev.setRegN_keeps.step rfl (Dev.setRegN_keeps.step rfl h12)
    · exact .refl
  have h13 : Keeps [.regs, .ports] d d3 := Dev.setRegF_keeps.step rfl (Dev.setRegF_keeps.step rfl h6)
  have h14 : Keeps [.regs, .ports] d d4 := Dev.modPort_keeps.step rfl h13
  have h15 : Keeps [.regs, .ports] d d5 := Dev.setRegF_keeps.step rfl (Dev.setRegF_keeps.step rfl h14)
  exact Dev.setRegF_keeps.step rfl h15

theorem Dev.imgAbort_keeps {d : Dev} {i : Iface} :
    Keeps [.regs, .imgWin] d (Dev.imgAbort d i) :=
  .ite (Dev.imgConflict_keeps.step rfl .refl) (.ite (Dev.imgFail_keeps.step rfl .refl) .refl)

theorem Dev.imgCtl_keeps {d : Dev} {w : Nat} {i : Iface} :
    Keeps [.regs, .imgWin] d (Dev.imgCtl d w i) := by
  unfold Dev.imgCtl
  extract_lets d1 d2 d3 d4
  have h5 : Keeps [.regs, .imgWin] d d1 := .ite (Dev.setRegF_keeps.step rfl .refl) .refl
  have h6 : Keeps [.regs, .imgWin] d d2 := .ite (Dev.imgOpen_keeps.step rfl h5) h5
  have h7 : Keeps [.regs, .imgWin] d d3 := .ite (Dev.imgApply_keeps.step rfl h6) h6
  have h8 : Keeps [.regs, .imgWin] d d4 := .ite (Dev.imgStore_keeps.step rfl h7) h7
  exact .ite (Dev.imgAbort_keeps.step rfl h8) h8

theorem Dev.applyMati_keeps {d : Dev} {im : Image} :
    Keeps [.regs, .mat, .lge] d (Dev.applyMati d im) := by
  unfold Dev.applyMati
  extract_lets d1 d2 y3
  have h4 : Keeps [.regs, .mat, .lge] d d1 := Dev.setWidths_keeps.step rfl .refl
  have h5 : Keeps [.regs, .mat, .lge] d d2 := .foldl (fun _ _ => (Dev.entryPut_keeps.step rfl .refl)) h4
  exact .set_lge rfl h5

theorem Dev.imgStored_keeps {d : Dev} :
    Keeps [.regs, .imgWin, .copyA, .copyB, .evj] d (Dev.imgStored d) := by
  unfold Dev.imgStored
  extract_lets x1 d2
  have h3 : Keeps [.regs, .imgWin, .copyA, .copyB, .evj] d d2 := .ite (.set_copyA rfl .refl) (.set_copyB rfl .refl)
  split
  · exact Dev.imgDone_keeps.step rfl (Dev.log_keeps.step rfl h3)
  · exact .refl

theorem Dev.enrol_keeps {d : Dev} {nv : Secure} {b : Bytes} :
    Keeps [.free, .regs, .evj, .ident] d (Dev.enrol d nv b).2 := by
  unfold Dev.enrol
  split
  · dsimp only
    exact .refl
  · extract_lets h1
    split
    next z2 z3 z4 z5 =>
      extract_lets y6
      refine Dev.log_keeps.step rfl ?_
      refine .set_ident rfl ?_
      refine .snd ?_ z5
      split
      · dsimp only
        exact .refl
      · exact Dev.draw_keeps.step rfl .refl

theorem Dev.imgRejected_keeps {d : Dev} {e : ImgErr} :
    Keeps [.pins, .life, .regs, .imgWin, .evj] d (Dev.imgRejected d e) := by
  unfold Dev.imgRejected
  extract_lets spi1 d2 x3
  have h4 : Keeps [.pins, .life, .regs, .imgWin, .evj] d d2 := Dev.imgFail_keeps.step rfl .refl
  exact .ite (Dev.log_keeps.step rfl (Dev.setFault_keeps.step rfl h4)) h4

theorem Dev.copyBad_keeps {d : Dev} {b : Bytes} {copy : Nat} {gen : Nat} {e : ImgErr} :
    Keeps [.regs, .imgWin, .evj] d (Dev.copyBad d b copy gen e) := by
  unfold Dev.copyBad
  extract_lets g1 y2 d3 y4
  have h5 : Keeps [.regs, .imgWin, .evj] d d3 := .set_imgWin rfl .refl
  exact .ite (Dev.log_keeps.step rfl (.set_imgWin rfl h5)) (Dev.log_keeps.step rfl h5)

theorem Dev.applyNs_keeps {d : Dev} {e : NsEntry} :
    Keeps [.free, .regs, .evj, .nss, .vpl] d (Dev.applyNs d e) := by
  unfold Dev.applyNs
  split
  · exact Dev.log_keeps.step rfl .refl
  · split
    next z1 z2 z3 =>
      exact Dev.log_keeps.step rfl ((Dev.newNamespace_keeps.snd z3).step rfl .refl)
    next z4 z5 z6 z7 =>
      exact .set_nss rfl ((Dev.newNamespace_keeps.snd z7).step rfl .refl)

theorem Dev.applyImage_keeps {d : Dev} {nv : Secure} {im : Image} {src : Nat} :
    Keeps [.free, .pins, .life, .regs, .imgWin, .image, .sec, .evj, .power, .ports, .cqe, .mat, .lge, .nss, .vpl] d (Dev.applyImage d nv im src).2 := by
  unfold Dev.applyImage
  extract_lets nv1 d2 d3 d4 w d5
  have h2 : Keeps [.free, .pins, .life, .regs, .imgWin, .image, .sec, .evj, .power, .ports, .cqe, .mat, .lge, .nss, .vpl] d d2 :=
    Dev.applyRegs_keeps.step rfl (Dev.applyMati_keeps.step rfl (Dev.applyPart_keeps.step rfl (Dev.applyPorts_keeps.step rfl .refl)))
  have h3 : Keeps [.free, .pins, .life, .regs, .imgWin, .image, .sec, .evj, .power, .ports, .cqe, .mat, .lge, .nss, .vpl] d d3 := .foldl (fun _ _ => Dev.applyNs_keeps.step rfl .refl) h2
  have h4 : Keeps [.free, .pins, .life, .regs, .imgWin, .image, .sec, .evj, .power, .ports, .cqe, .mat, .lge, .nss, .vpl] d d4 := Dev.applyPower_keeps.step rfl h3
  clear_value d4
  have h5 : Keeps [.free, .pins, .life, .regs, .imgWin, .image, .sec, .evj, .power, .ports, .cqe, .mat, .lge, .nss, .vpl] d4 d5 := ⟨fun p hp => by cases p <;> first | rfl | exact absurd hp (by decide)⟩
  clear_value d5
  exact Dev.log_keeps.step rfl (Dev.setFault_keeps.step rfl (h5.step rfl h4))

theorem Dev.applyCopy_keeps {d : Dev} {nv : Secure} {im : Image} {a : Bool} {other : Option ImgErr} :
    Keeps [.free, .pins, .life, .regs, .imgWin, .image, .copyA, .copyB, .sec, .evj, .power, .ports, .cqe, .mat, .lge, .nss, .vpl] d (Dev.applyCopy d nv im a other).2 := by
  unfold Dev.applyCopy
  extract_lets mine1 d2 d3 y4 d5
  have h6 : Keeps [.free, .pins, .life, .regs, .imgWin, .image, .copyA, .copyB, .sec, .evj, .power, .ports, .cqe, .mat, .lge, .nss, .vpl] d d2 := by
    unfold d2
    split
    · exact Dev.copyBad_keeps.step rfl .refl
    · exact .refl
  have h7 : Keeps [.free, .pins, .life, .regs, .imgWin, .image, .copyA, .copyB, .sec, .evj, .power, .ports, .cqe, .mat, .lge, .nss, .vpl] d d3 := by
    unfold d3
    split
    · exact .ite (.set_copyB rfl h6) (.set_copyA rfl h6)
    · exact .refl
  have h8 : Keeps [.free, .pins, .life, .regs, .imgWin, .image, .copyA, .copyB, .sec, .evj, .power, .ports, .cqe, .mat, .lge, .nss, .vpl] d d5 := .set_imgWin rfl h7
  exact Dev.applyImage_keeps.step rfl h8

theorem Dev.imagePhase_keeps {d : Dev} {nv : Secure} :
    Keeps [.free, .pins, .life, .regs, .imgWin, .image, .copyA, .copyB, .sec, .evj, .power, .ports, .cqe, .mat, .lge, .nss, .vpl] d (Dev.imagePhase d nv).2.1 := by
  unfold Dev.imagePhase
  split
  · extract_lets d1 y2
    have h3 : Keeps [.free, .pins, .life, .regs, .imgWin, .image, .copyA, .copyB, .sec, .evj, .power, .ports, .cqe, .mat, .lge, .nss, .vpl] d d1 := Dev.weighCopies_keeps.step rfl .refl
    split
    · extract_lets r4
      have h5 : Keeps [.free, .pins, .life, .regs, .imgWin, .image, .copyA, .copyB, .sec, .evj, .power, .ports, .cqe, .mat, .lge, .nss, .vpl] d r4.2 := by
        unfold r4
        split
        · exact Dev.applyCopy_keeps.step rfl h3
        · exact Dev.applyCopy_keeps.step rfl h3
      dsimp only
      exact h5
    · extract_lets r6
      have h7 : Keeps [.free, .pins, .life, .regs, .imgWin, .image, .copyA, .copyB, .sec, .evj, .power, .ports, .cqe, .mat, .lge, .nss, .vpl] d r6.2 := by
        unfold r6
        exact Dev.applyCopy_keeps.step rfl h3
      dsimp only
      exact h7
    · extract_lets r8
      have h9 : Keeps [.free, .pins, .life, .regs, .imgWin, .image, .copyA, .copyB, .sec, .evj, .power, .ports, .cqe, .mat, .lge, .nss, .vpl] d r8.2 := by
        unfold r8
        exact Dev.applyCopy_keeps.step rfl h3
      dsimp only
      exact h9
    · extract_lets d10
      have h11 : Keeps [.free, .pins, .life, .regs, .imgWin, .image, .copyA, .copyB, .sec, .evj, .power, .ports, .cqe, .mat, .lge, .nss, .vpl] d d10 := .set_imgWin rfl h3
      dsimp only
      exact Dev.log_keeps.step rfl (Dev.setFault_keeps.step rfl h11)

theorem Dev.imgChecked_keeps {d : Dev} {nv : Secure} :
    Keeps [.free, .pins, .life, .regs, .imgWin, .image, .copyA, .copyB, .sec, .evj, .power, .ports, .cqe, .mat, .lge, .ident, .nss, .idx, .vpl] d (Dev.imgChecked d nv).2 := by
  unfold Dev.imgChecked
  extract_lets x1
  split
  · dsimp only
    exact .refl
  · split
    · dsimp only
      exact Dev.imgRejected_keeps.step rfl .refl
    · split
      next z2 z3 z4 z5 =>
        split
        · dsimp only
          exact .set_imgWin rfl ((Dev.enrol_keeps.snd z5).step rfl .refl)
        · split
          next z6 z7 z8 z9 =>
            extract_lets d10 d11 y12 y13
            have h14 : Keeps [.free, .pins, .life, .regs, .imgWin, .image, .copyA, .copyB, .sec, .evj, .power, .ports, .cqe, .mat, .lge, .ident, .nss, .idx, .vpl] d d10 := .ite (.upd (fun p hp => by cases p <;> first | exact absurd hp (by decide) | rfl) ((Dev.applyImage_keeps.snd z9).step rfl ((Dev.enrol_keeps.snd z5).step rfl .refl))) ((Dev.applyImage_keeps.snd z9).step rfl ((Dev.enrol_keeps.snd z5).step rfl .refl))
            have h15 : Keeps [.free, .pins, .life, .regs, .imgWin, .image, .copyA, .copyB, .sec, .evj, .power, .ports, .cqe, .mat, .lge, .ident, .nss, .idx, .vpl] d d11 := Dev.imgDone_keeps.step rfl h14
            split
            · dsimp only
              exact .upd (fun p hp => by cases p <;> first | exact absurd hp (by decide) | rfl) h15
            · dsimp only
              exact h15

theorem Dev.flushStaging_keeps {d : Dev} :
    Keeps [.fmm] d (Dev.flushStaging d) :=
  .ite (.set_fmm rfl .refl) .refl

theorem Dev.toStep_keeps {d : Dev} {n : Nat} :
    Keeps [.life] d (Dev.toStep d n) :=
  .set_life rfl .refl

theorem Dev.flushWritten_keeps {d : Dev} {retries : Nat} :
    Keeps [.life, .fmm] d (Dev.flushWritten d retries) := by
  unfold Dev.flushWritten
  split
  · extract_lets y1 y2
    have h3 : Keeps [.life, .fmm] d y1 := Dev.toStep_keeps.step rfl (Dev.flushStaging_keeps.step rfl .refl)
    exact .set_life rfl h3
  · exact .refl

theorem Dev.flushDies_keeps {d : Dev} :
    Keeps [.life] d (Dev.flushDies d) :=
  .ite (Dev.toStep_keeps.step rfl .refl) .refl

theorem Dev.flushMeta_keeps {d : Dev} :
    Keeps [.idx, .cap] d (Dev.flushMeta d) :=
  .ite (.upd (fun p hp => by cases p <;> first | exact absurd hp (by decide) | rfl) .refl) .refl

theorem Dev.reload_keeps {d : Dev} {nv : Secure} :
    Keeps ([.free, .pins, .life, .regs, .latches, .readData, .rates, .imgWin, .image, .copyA, .copyB, .sec, .evj, .power, .sup, .spi, .spiErrs, .ports, .lanes, .poolLow] ++ [.belowXoff, .rx, .rxNext, .cellsHeld, .sess, .epochs, .cqe, .mat, .rod, .lge, .ident, .nss, .idx, .vpl, .fmm, .cap, .fw]) d (Dev.reload d nv) := by
  unfold Dev.reload
  extract_lets e x y
  have he : Keeps ([.free, .pins, .life, .regs, .latches, .readData, .rates, .imgWin, .image, .copyA, .copyB, .sec, .evj, .power, .sup, .spi, .spiErrs, .ports, .lanes, .poolLow] ++ [.belowXoff, .rx, .rxNext, .cellsHeld, .sess, .epochs, .cqe, .mat, .rod, .lge, .ident, .nss, .idx, .vpl, .fmm, .cap, .fw]) d e := Dev.imgStop_keeps.step rfl .refl
  refine .upd (x := e) (fun p hp => ?_) he
  cases p <;> first | rfl | exact absurd hp (by decide)

theorem Dev.powerOn_keeps {d : Dev} :
    Keeps [.pins, .life] d (Dev.powerOn d) :=
  .ite .refl (.upd (fun p hp => by cases p <;> first | exact absurd hp (by decide) | rfl) .refl)

theorem Dev.closeTorn_keeps {d : Dev} :
    Keeps [.fmm] d (Dev.closeTorn d) := by
  unfold Dev.closeTorn
  extract_lets close1 y2
  exact .set_fmm rfl .refl

theorem Dev.toPhase_keeps {d : Dev} {p : Phase} :
    Keeps [.life] d (Dev.toPhase d p) :=
  .set_life rfl .refl

theorem Dev.startAon_keeps {d : Dev} :
    Keeps [.life] d (Dev.startAon d) :=
  .set_life rfl .refl

theorem Dev.flushMarker_keeps {d : Dev} :
    Keeps [.life, .fmm] d (Dev.flushMarker d) := by
  unfold Dev.flushMarker
  extract_lets status1 y2 y3
  exact .ite (.upd (fun p hp => by cases p <;> first | exact absurd hp (by decide) | rfl) .refl) .refl

theorem Dev.toIndex_keeps {d : Dev} :
    Keeps [.life, .idx] d (Dev.toIndex d) :=
  Dev.toPhase_keeps.step rfl (.set_idx rfl .refl)

theorem Dev.pfIgnore_keeps {d : Dev} :
    Keeps [.life, .sup] d (Dev.pfIgnore d) := by
  unfold Dev.pfIgnore
  extract_lets y1 d2 y3
  have h4 : Keeps [.life, .sup] d d2 := .set_sup rfl .refl
  exact .ite (Dev.toPhase_keeps.step rfl (.set_life rfl h4)) h4

theorem Dev.markStale_keeps {d : Dev} :
    Keeps [.fmm] d (Dev.markStale d) := by
  unfold Dev.markStale
  extract_lets olds1
  exact .foldl (fun _ _ => (.ite (Dev.modBushel_keeps.step rfl .refl) .refl)) .refl

theorem Dev.railsLost_keeps {d : Dev} {nv : Secure} {k : Nat} :
    Keeps ([.free, .pins, .life, .regs, .latches, .readData, .rates, .imgWin, .image, .copyA, .copyB, .sec, .evj, .power, .sup, .spi, .spiErrs, .ports, .lanes, .poolLow] ++ [.belowXoff, .rx, .rxNext, .cellsHeld, .sess, .epochs, .cqe, .mat, .rod, .lge, .ident, .nss, .idx, .vpl, .fmm, .cap, .fw]) d (Dev.railsLost d nv k) := by
  unfold Dev.railsLost
  split
  · exact .refl
  · extract_lets warned1 run2 y3 d4 d5 y6 y7 y8 d9
    have h10 : Keeps ([.free, .pins, .life, .regs, .latches, .readData, .rates, .imgWin, .image, .copyA, .copyB, .sec, .evj, .power, .sup, .spi, .spiErrs, .ports, .lanes, .poolLow] ++ [.belowXoff, .rx, .rxNext, .cellsHeld, .sess, .epochs, .cqe, .mat, .rod, .lge, .ident, .nss, .idx, .vpl, .fmm, .cap, .fw]) d d4 := .ite .refl (.set_fmm rfl .refl)
    have h11 : Keeps ([.free, .pins, .life, .regs, .latches, .readData, .rates, .imgWin, .image, .copyA, .copyB, .sec, .evj, .power, .sup, .spi, .spiErrs, .ports, .lanes, .poolLow] ++ [.belowXoff, .rx, .rxNext, .cellsHeld, .sess, .epochs, .cqe, .mat, .rod, .lge, .ident, .nss, .idx, .vpl, .fmm, .cap, .fw]) d d5 := Dev.reload_keeps.step rfl h10
    have h12 : Keeps ([.free, .pins, .life, .regs, .latches, .readData, .rates, .imgWin, .image, .copyA, .copyB, .sec, .evj, .power, .sup, .spi, .spiErrs, .ports, .lanes, .poolLow] ++ [.belowXoff, .rx, .rxNext, .cellsHeld, .sess, .epochs, .cqe, .mat, .rod, .lge, .ident, .nss, .idx, .vpl, .fmm, .cap, .fw]) d d9 := .upd (fun p hp => by cases p <;> first | exact absurd hp (by decide) | rfl) h11
    exact Dev.setRegN_keeps.step rfl h12

theorem Dev.pfWaitDone_keeps {d : Dev} :
    Keeps [.pins, .life, .sup] d (Dev.pfWaitDone d) := by
  unfold Dev.pfWaitDone
  split
  · extract_lets d1 y2
    have h3 : Keeps [.pins, .life, .sup] d d1 := Dev.pfHigh_keeps.step rfl .refl
    exact .ite (.set_life rfl h3) (Dev.toPhase_keeps.step rfl (.set_life rfl h3))
  · exact .refl

theorem Dev.romPhase_keeps {d : Dev} {nv : Secure} :
    Keeps [.pins, .life, .regs, .ident] d (Dev.romPhase d nv) :=
  .ite .refl (.ite (Dev.raise_keeps.step rfl (Dev.setFault_keeps.step rfl (Dev.toPhase_keeps.step rfl .refl))) (Dev.toPhase_keeps.step rfl (.set_ident rfl .refl)))

theorem Dev.startNow_keeps {d : Dev} :
    Keeps [.life] d (Dev.startNow d) :=
  Dev.startAon_keeps.step rfl (.set_life rfl .refl)

theorem Dev.aonPhase_keeps {d : Dev} {nv : Secure} {pfHigh : Bool} :
    Keeps [.pins, .life, .sup, .ident] d (Dev.aonPhase d nv pfHigh) := by
  unfold Dev.aonPhase
  split
  · exact .refl
  · extract_lets y1 d2 y3 y4
    have h5 : Keeps [.pins, .life, .sup, .ident] d d2 := .set_ident rfl .refl
    exact .ite (Dev.toPhase_keeps.step rfl (Dev.pfHigh_keeps.step rfl h5)) (.ite (Dev.toPhase_keeps.step rfl h5) (.upd (fun p hp => by cases p <;> first | exact absurd hp (by decide) | rfl) h5))

theorem Dev.memPhase_keeps {d : Dev} :
    Keeps [.life] d (Dev.memPhase d) :=
  .ite (Dev.toPhase_keeps.step rfl .refl) .refl

theorem Dev.flushMetadata_keeps {d : Dev} {nv : Secure} :
    Keeps [.life, .idx, .cap] d (Dev.flushMetadata d nv).2 := by
  unfold Dev.flushMetadata
  split
  · dsimp only
    exact Dev.toStep_keeps.step rfl (Dev.flushMeta_keeps.step rfl .refl)
  · dsimp only
    exact .refl

theorem Dev.enterHalt_keeps {d : Dev} :
    Keeps [.pins, .life, .regs] d (Dev.enterHalt d) :=
  Dev.raise_keeps.step rfl (.upd (fun p hp => by cases p <;> first | exact absurd hp (by decide) | rfl) .refl)

theorem Dev.recount_keeps {d : Dev} :
    Keeps [.fmm] d (Dev.recount d) :=
  .foldl (fun _ _ => (.ite (Dev.modBushel_keeps.step rfl .refl) .refl)) .refl

theorem Dev.restream_keeps {d : Dev} {recovered : List Staged} :
    Keeps [.fmm, .cap] d (Dev.restream d recovered) := by
  unfold Dev.restream
  extract_lets y1 d2 recs3 d4
  have h5 : Keeps [.fmm, .cap] d d2 := .set_cap rfl .refl
  have h6 : Keeps [.fmm, .cap] d d4 := .foldl (fun _ _ => (Dev.noteExtent_keeps.step rfl .refl)) h5
  refine .foldl (fun y7 a8 => ?_) ?_
  · split
    · exact .ite (.set_cap rfl .refl) .refl
    · exact .refl
  · exact h6

theorem Dev.haltExit_keeps {d : Dev} {nv : Secure} {straps : Nat} :
    Keeps ([.free, .pins, .life, .regs, .latches, .readData, .rates, .imgWin, .image, .copyA, .copyB, .sec, .evj, .power, .sup, .spi, .spiErrs, .ports, .lanes, .poolLow] ++ [.belowXoff, .rx, .rxNext, .cellsHeld, .sess, .epochs, .cqe, .mat, .rod, .lge, .ident, .nss, .idx, .vpl, .fmm, .cap, .fw]) d (Dev.haltExit d nv straps) := by
  unfold Dev.haltExit
  split
  · extract_lets d1 y2
    have h3 : Keeps ([.free, .pins, .life, .regs, .latches, .readData, .rates, .imgWin, .image, .copyA, .copyB, .sec, .evj, .power, .sup, .spi, .spiErrs, .ports, .lanes, .poolLow] ++ [.belowXoff, .rx, .rxNext, .cellsHeld, .sess, .epochs, .cqe, .mat, .rod, .lge, .ident, .nss, .idx, .vpl, .fmm, .cap, .fw]) d d1 := Dev.pfHigh_keeps.step rfl .refl
    exact Dev.startNow_keeps.step rfl (Dev.reload_keeps.step rfl (.set_pins rfl h3))
  · exact .refl

theorem Dev.leaveReset_keeps {d : Dev} :
    Keeps [.life] d (Dev.leaveReset d) :=
  .ite (Dev.startAon_keeps.step rfl .refl) .refl

theorem Dev.enterReset_keeps {d : Dev} {nv : Secure} :
    Keeps ([.free, .pins, .life, .regs, .latches, .readData, .rates, .imgWin, .image, .copyA, .copyB, .sec, .evj, .power, .sup, .spi, .spiErrs, .ports, .lanes, .poolLow] ++ [.belowXoff, .rx, .rxNext, .cellsHeld, .sess, .epochs, .cqe, .mat, .rod, .lge, .ident, .nss, .idx, .vpl, .fmm, .cap, .fw]) d (Dev.enterReset d nv) :=
  Dev.leaveReset_keeps.step rfl (Dev.reload_keeps.step rfl .refl)

theorem Dev.recover_keeps {d : Dev} :
    Keeps [.life, .idx, .fmm, .cap] d (Dev.recover d) := by
  unfold Dev.recover
  extract_lets run1 inArea2 lives3 values4 stands5 deltas6 top7 lost8 d9 y10 y11 y12 y13 d14
  have h15 : Keeps [.life, .idx, .fmm, .cap] d d9 := Dev.closeTorn_keeps.step rfl .refl
  have h16 : Keeps [.life, .idx, .fmm, .cap] d d14 := .upd (fun p hp => by cases p <;> first | exact absurd hp (by decide) | rfl) h15
  exact Dev.restream_keeps.step rfl h16

theorem Dev.toWait_keeps {d : Dev} :
    Keeps [.life, .regs] d (Dev.toWait d) :=
  Dev.raise_keeps.step rfl (Dev.toPhase_keeps.step rfl .refl)

theorem Dev.resetRise_keeps {d : Dev} {straps : Nat} {uv : Nat} {ov : Nat} :
    Keeps [.pins, .life, .sup] d (Dev.resetRise d straps uv ov) :=
  .ite .refl (Dev.leaveReset_keeps.step rfl (.upd (fun p hp => by cases p <;> first | exact absurd hp (by decide) | rfl) .refl))

theorem Dev.railsInRange_keeps {d : Dev} :
    Keeps [.life, .sup] d (Dev.railsInRange d) :=
  Dev.leaveReset_keeps.step rfl (.set_sup rfl .refl)

theorem Dev.portsPhase_keeps {d : Dev} :
    Keeps [.life, .rod] d (Dev.portsPhase d) :=
  .ite (Dev.toPhase_keeps.step rfl (Dev.rodStart_keeps.step rfl .refl)) .refl

theorem Dev.restoreDir_keeps {d : Dev} :
    Keeps [.regs, .mat, .lge] d (Dev.restoreDir d) := by
  unfold Dev.restoreDir
  extract_lets l1 rules2 y3 y4 others5 mine6
  have h7 : Keeps [.regs, .mat, .lge] d others5 := .set_mat rfl .refl
  exact .ite (.set_lge rfl .refl) (.ite (.foldl (fun _ _ => (Dev.entryPut_keeps.step rfl .refl)) h7) .refl)

theorem Dev.repin_keeps {d : Dev} :
    Keeps [.fmm, .cap] d (Dev.repin d) := by
  unfold Dev.repin
  extract_lets y1 y2 d3
  have h4 : Keeps [.fmm, .cap] d d3 := .upd (fun p hp => by cases p <;> first | exact absurd hp (by decide) | rfl) .refl
  exact .foldl (fun _ _ => (Dev.pinWindow_keeps.step rfl .refl)) h4

theorem Dev.secPhase_keeps {d : Dev} {nv : Secure} {badA : Bool} {badB : Bool} :
    Keeps [.free, .pins, .life, .regs, .sec, .evj, .keyStore] d (Dev.secPhase d nv badA badB).2 := by
  unfold Dev.secPhase
  split
  next z1 z2 z3 z4 =>
    split
    · split
      next z5 z6 z7 z8 =>
        extract_lets y9 d10
        have h11 : Keeps [.free, .pins, .life, .regs, .sec, .evj, .keyStore] d d10 := Dev.setFault_keeps.step rfl (.set_sec rfl ((Dev.draw_keeps.snd z8).step rfl ((Dev.clearMarks_keeps.snd z4).step rfl .refl)))
        split
        · dsimp only
          exact Dev.logAlarm_keeps.step rfl h11
        · dsimp only
          exact h11
    · extract_lets y12 d13
      have h14 : Keeps [.free, .pins, .life, .regs, .sec, .evj, .keyStore] d d13 := .set_sec rfl ((Dev.clearMarks_keeps.snd z4).step rfl .refl)
      dsimp only
      exact Dev.unwrapStore_keeps.step rfl (Dev.deriveHse_keeps.step rfl h14)

theorem Dev.flushLong_keeps {d : Dev} :
    Keeps [.life, .regs, .evj] d (Dev.flushLong d) :=
  .ite (Dev.log_keeps.step rfl (.set_life rfl .refl)) .refl

theorem Dev.pfGlitch_keeps {d : Dev} :
    Keeps [.life, .regs, .evj] d (Dev.pfGlitch d) := by
  unfold Dev.pfGlitch
  split
  · exact .refl
  · extract_lets n1 y2
    exact Dev.log_keeps.step rfl (.set_life rfl .refl)

theorem Dev.mediaPhase_keeps {d : Dev} {nv : Secure} {badA : Bool} {badB : Bool} :
    Keeps [.free, .pins, .life, .regs, .imgWin, .sec, .evj, .keyStore, .idx, .fmm, .cap] d (Dev.mediaPhase d nv badA badB).2 := by
  unfold Dev.mediaPhase
  split
  · dsimp only
    exact .refl
  · split
    next z1 z2 z3 z4 =>
      extract_lets found5 clean6 y7 d8 d9
      have h10 : Keeps [.free, .pins, .life, .regs, .imgWin, .sec, .evj, .keyStore, .idx, .fmm, .cap] d d8 := .set_life rfl ((Dev.secPhase_keeps.snd z4).step rfl .refl)
      have h11 : Keeps [.free, .pins, .life, .regs, .imgWin, .sec, .evj, .keyStore, .idx, .fmm, .cap] d d9 := .ite h10 (Dev.recover_keeps.step rfl h10)
      split
      · dsimp only
        exact Dev.raise_keeps.step rfl (Dev.toPhase_keeps.step rfl (Dev.weighCopies_keeps.step rfl h11))
      · dsimp only
        exact Dev.toPhase_keeps.step rfl h11

theorem Dev.runPhase_keeps {d : Dev} :
    Keeps [.pins, .life, .regs, .evj, .fmm] d (Dev.runPhase d) := by
  unfold Dev.runPhase
  split
  · exact .refl
  · extract_lets ms1 y2 y3 d4 l5 d6 d7
    have h8 : Keeps [.pins, .life, .regs, .evj, .fmm] d d4 := .upd (fun p hp => by cases p <;> first | exact absurd hp (by decide) | rfl) .refl
    have h9 : Keeps [.pins, .life, .regs, .evj, .fmm] d d6 := .ite (Dev.log_keeps.step rfl h8) (Dev.log_keeps.step rfl h8)
    have h10 : Keeps [.pins, .life, .regs, .evj, .fmm] d d7 := .ite (Dev.log_keeps.step rfl h9) h9
    exact Dev.raise_keeps.step rfl (Dev.nextColl_keeps.step rfl h10)

theorem Dev.indexPhase_keeps {d : Dev} {pages : MediaReads} {blocks : MediaReads} :
    Keeps [.life, .regs, .evj, .idx, .fmm] d (Dev.indexPhase d pages blocks) := by
  unfold Dev.indexPhase
  split
  · exact .refl
  · extract_lets ms1 d2 d3 y4
    have h5 : Keeps [.life, .regs, .evj, .idx, .fmm] d d2 := Dev.markStale_keeps.step rfl (Dev.idxStart_keeps.step rfl .refl)
    have h6 : Keeps [.life, .regs, .evj, .idx, .fmm] d d3 := .ite (Dev.recount_keeps.step rfl h5) h5
    exact Dev.toPhase_keeps.step rfl (Dev.keysLatch_keeps.step rfl (.set_life rfl h6))

theorem Dev.datapathDone_keeps {d : Dev} :
    Keeps [.pins, .life, .regs, .evj, .cqe, .rod, .vpl, .fmm] d (Dev.datapathDone d) := by
  unfold Dev.datapathDone
  split
  · exact .refl
  · extract_lets y1 y2 y3 y4 d5
    have h6 : Keeps [.pins, .life, .regs, .evj, .cqe, .rod, .vpl, .fmm] d d5 := .upd (fun p hp => by cases p <;> first | exact absurd hp (by decide) | rfl) .refl
    exact .ite (Dev.nextColl_keeps.step rfl (Dev.rodStart_keeps.step rfl h6)) h6

theorem Dev.fwDone_keeps {d : Dev} {nv : Secure} {copyOk : Bool} {ms : Nat} :
    Keeps [.life, .regs, .evj, .fw] d (Dev.fwDone d nv copyOk ms).2 := by
  unfold Dev.fwDone
  split
  · dsimp only
    exact .refl
  · split
    next z1 z2 z3 z4 =>
      dsimp only
      exact Dev.toPhase_keeps.step rfl ((Dev.fwPhase_keeps.snd z4).step rfl .refl)

theorem Dev.lateTrigger_keeps {d : Dev} {x : Nat × Nat × Nat} :
    Keeps [.regs, .evj, .fmm, .cap] d (Dev.lateTrigger d x) :=
  Dev.firing_keeps.step rfl (Dev.log_keeps.step rfl .refl)

theorem Dev.flushAdmission_keeps {d : Dev} :
    Keeps [.life, .regs, .evj, .ports, .lanes] d (Dev.flushAdmission d) :=
  .ite (Dev.toStep_keeps.step rfl (.foldl (fun _ _ => (Dev.portDown_keeps.step rfl .refl)) .refl)) .refl

theorem Dev.flushRecords_keeps {d : Dev} :
    Keeps [.pins, .life, .regs, .evj, .fmm] d (Dev.flushRecords d) := by
  unfold Dev.flushRecords
  split
  · exact .refl
  · extract_lets l1
    exact Dev.toStep_keeps.step rfl (Dev.flushJournal_keeps.step rfl (Dev.log_keeps.step rfl .refl))

theorem Dev.flushComplete_keeps {d : Dev} {nv : Secure} :
    Keeps ([.free, .pins, .life, .regs, .latches, .readData, .rates, .imgWin, .image, .copyA, .copyB, .sec, .evj, .power, .sup, .spi, .spiErrs, .ports, .lanes, .poolLow] ++ [.belowXoff, .rx, .rxNext, .cellsHeld, .sess, .epochs, .cqe, .mat, .rod, .lge, .ident, .nss, .idx, .vpl, .fmm, .cap, .fw]) d (Dev.flushComplete d nv) := by
  unfold Dev.flushComplete
  split
  · exact .refl
  · extract_lets d1
    have h2 : Keeps ([.free, .pins, .life, .regs, .latches, .readData, .rates, .imgWin, .image, .copyA, .copyB, .sec, .evj, .power, .sup, .spi, .spiErrs, .ports, .lanes, .poolLow] ++ [.belowXoff, .rx, .rxNext, .cellsHeld, .sess, .epochs, .cqe, .mat, .rod, .lge, .ident, .nss, .idx, .vpl, .fmm, .cap, .fw]) d d1 := Dev.enterHalt_keeps.step rfl (Dev.toStep_keeps.step rfl (Dev.flushMarker_keeps.step rfl (Dev.flushJournal_keeps.step rfl .refl)))
    exact .ite (Dev.enterReset_keeps.step rfl h2) h2

theorem Dev.imageDone_keeps {d : Dev} {nv : Secure} :
    Keeps [.free, .pins, .life, .regs, .imgWin, .image, .copyA, .copyB, .sec, .evj, .power, .ports, .cqe, .mat, .lge, .nss, .idx, .vpl] d (Dev.imageDone d nv).2 := by
  unfold Dev.imageDone
  split
  · exact .refl
  split
  · exact Dev.toIndex_keeps.step rfl (Dev.weighCopies_keeps.step rfl .refl)
  split
  · exact Dev.toWait_keeps.step rfl (Dev.weighCopies_keeps.step rfl .refl)
  split
  next nv1 e a hz =>
  have he : Keeps [.free, .pins, .life, .regs, .imgWin, .image, .copyA, .copyB, .sec, .evj, .power, .ports, .cqe, .mat, .lge, .nss, .idx, .vpl] d e := by
    have := Dev.imagePhase_keeps (d := d) (nv := nv)
    rw [hz] at this
    exact this.step rfl .refl
  dsimp only
  exact .ite (Dev.toIndex_keeps.step rfl he) (Dev.toWait_keeps.step rfl he)

theorem Dev.startHalted_keeps {d : Dev} :
    Keeps [.free, .pins, .life, .regs, .imgWin, .copyA, .copyB, .evj, .fmm] d (Dev.startHalted d) := by
  unfold Dev.startHalted
  extract_lets d1 d2 y3
  have h4 : Keeps [.free, .pins, .life, .regs, .imgWin, .copyA, .copyB, .evj, .fmm] d d1 := Dev.log_keeps.step rfl (Dev.imgStop_keeps.step rfl .refl)
  have h5 : Keeps [.free, .pins, .life, .regs, .imgWin, .copyA, .copyB, .evj, .fmm] d d2 := .ite (Dev.flushJournal_keeps.step rfl h4) h4
  exact Dev.enterHalt_keeps.step rfl (.set_life rfl h5)

theorem Dev.shutdownDone_keeps {d : Dev} {nv : Secure} :
    Keeps ([.free, .pins, .life, .regs, .latches, .readData, .rates, .imgWin, .image, .copyA, .copyB, .sec, .evj, .power, .sup, .spi, .spiErrs, .ports, .lanes, .poolLow] ++ [.belowXoff, .rx, .rxNext, .cellsHeld, .sess, .epochs, .cqe, .mat, .rod, .lge, .ident, .nss, .idx, .vpl, .fmm, .cap, .fw]) d (Dev.shutdownDone d nv).2 := by
  unfold Dev.shutdownDone
  split
  · dsimp only
    exact .refl
  · extract_lets kind1 nv2 y3 d4 d5 d6
    have h7 : Keeps ([.free, .pins, .life, .regs, .latches, .readData, .rates, .imgWin, .image, .copyA, .copyB, .sec, .evj, .power, .sup, .spi, .spiErrs, .ports, .lanes, .poolLow] ++ [.belowXoff, .rx, .rxNext, .cellsHeld, .sess, .epochs, .cqe, .mat, .rod, .lge, .ident, .nss, .idx, .vpl, .fmm, .cap, .fw]) d d4 := .set_life rfl .refl
    have h8 : Keeps ([.free, .pins, .life, .regs, .latches, .readData, .rates, .imgWin, .image, .copyA, .copyB, .sec, .evj, .power, .sup, .spi, .spiErrs, .ports, .lanes, .poolLow] ++ [.belowXoff, .rx, .rxNext, .cellsHeld, .sess, .epochs, .cqe, .mat, .rod, .lge, .ident, .nss, .idx, .vpl, .fmm, .cap, .fw]) d d5 := Dev.flushMarker_keeps.step rfl (.ite (Dev.flushJournal_keeps.step rfl (Dev.flushMeta_keeps.step rfl (Dev.flushStaging_keeps.step rfl h7))) h7)
    have h9 : Keeps ([.free, .pins, .life, .regs, .latches, .readData, .rates, .imgWin, .image, .copyA, .copyB, .sec, .evj, .power, .sup, .spi, .spiErrs, .ports, .lanes, .poolLow] ++ [.belowXoff, .rx, .rxNext, .cellsHeld, .sess, .epochs, .cqe, .mat, .rod, .lge, .ident, .nss, .idx, .vpl, .fmm, .cap, .fw]) d d6 := Dev.domAllOff_keeps.step rfl (Dev.setFault_keeps.step rfl (Dev.enterHalt_keeps.step rfl h8))
    clear_value kind1
    split
    · dsimp only
      exact .ite (Dev.enterReset_keeps.step rfl h9) h9
    · dsimp only
      exact Dev.startNow_keeps.step rfl (Dev.reload_keeps.step rfl h8)
    · dsimp only
      exact Dev.enterReset_keeps.step rfl h8

theorem Dev.pointRecovered_keeps {d : Dev} {s : Staged} :
    Keeps [.regs, .rates, .evj, .idx, .fmm, .cap] d (Dev.pointRecovered d s) := by
  unfold Dev.pointRecovered
  split
  · exact .refl
  · extract_lets seg1 newer2
    split
    · exact .refl
    · split
      next z3 z4 z5 =>
        exact (Dev.point_keeps _ z5).step rfl .refl
      · exact .refl

theorem Dev.closeAborted_keeps {d : Dev} {b : Nat} :
    Keeps [.regs, .evj, .cqe, .idx, .fmm, .cap] d (Dev.closeAborted d b) := by
  unfold Dev.closeAborted
  extract_lets x1 heads2 d3 d4 torn5 y6 d7 d8
  have h9 : Keeps [.regs, .evj, .cqe, .idx, .fmm, .cap] d d3 := .ite (Dev.closeBushel_keeps.step rfl .refl) .refl
  have h10 : Keeps [.regs, .evj, .cqe, .idx, .fmm, .cap] d d4 := by
    unfold d4
    refine .foldl (fun y11 a12 => ?_) ?_
    · refine Dev.replaceBlocks_keeps.step rfl ?_
      refine Dev.replace_keeps rfl (fun x13 => ?_) ?_
      · exact fun _ h => (Dev.openAny_keeps _ h).step rfl .refl
      · exact .refl
    · exact h9
  have h14 : Keeps [.regs, .evj, .cqe, .idx, .fmm, .cap] d d7 := .set_fmm rfl h10
  have h15 : Keeps [.regs, .evj, .cqe, .idx, .fmm, .cap] d d8 := Dev.modBushel_keeps.step rfl h14
  exact Dev.maybeRelease_keeps.step rfl (Dev.modBushel_keeps.step rfl h15)

theorem Dev.placeRecovered_keeps {d : Dev} :
    Keeps [.regs, .rates, .evj, .cqe, .idx, .fmm, .cap] d (Dev.placeRecovered d) := by
  unfold Dev.placeRecovered
  extract_lets run1 d2 olds3 d4 stale5 y6 d7 d8
  have h9 : Keeps [.regs, .rates, .evj, .cqe, .idx, .fmm, .cap] d d2 := by
    unfold d2
    refine .foldl (fun y10 a11 => ?_) ?_
    · exact Dev.pointRecovered_keeps.step rfl .refl
    · exact .refl
  have h12 : Keeps [.regs, .rates, .evj, .cqe, .idx, .fmm, .cap] d d4 := by
    unfold d4
    refine .foldl (fun y13 a14 => ?_) ?_
    · refine Dev.replaceBlocks_keeps.step rfl ?_
      refine Dev.replace_keeps rfl (fun x15 => ?_) ?_
      · exact fun _ h => (Dev.openAny_keeps _ h).step rfl .refl
      · exact .refl
    · exact h9
  have h16 : Keeps [.regs, .rates, .evj, .cqe, .idx, .fmm, .cap] d d7 := .set_fmm rfl h12
  have h17 : Keeps [.regs, .rates, .evj, .cqe, .idx, .fmm, .cap] d d8 := Dev.recount_keeps.step rfl h16
  exact .foldl (fun _ _ => (Dev.maybeRelease_keeps.step rfl .refl)) h17

theorem Dev.readBack_keeps {d : Dev} :
    Keeps [.regs, .rates, .evj, .cqe, .idx, .fmm, .cap] d (Dev.readBack d) := by
  unfold Dev.readBack
  split
  · exact Dev.placeRecovered_keeps.step rfl .refl
  · extract_lets area1 y2 d3
    have h4 : Keeps [.regs, .rates, .evj, .cqe, .idx, .fmm, .cap] d d3 := .set_fmm rfl .refl
    refine .foldl (fun y5 a6 => ?_) ?_
    · exact Dev.closeAborted_keeps.step rfl .refl
    · exact h4

theorem Dev.metaPhase_keeps {d : Dev} {nv : Secure} :
    Keeps [.life, .regs, .rates, .evj, .cqe, .mat, .lge, .nss, .idx, .fmm, .cap] d (Dev.metaPhase d nv).2 := by
  unfold Dev.metaPhase
  split
  · dsimp only
    exact .refl
  · extract_lets d1 d2 d3 y4 d5
    have h6 : Keeps [.life, .regs, .rates, .evj, .cqe, .mat, .lge, .nss, .idx, .fmm, .cap] d d1 := Dev.readBack_keeps.step rfl (Dev.repin_keeps.step rfl .refl)
    have h7 : Keeps [.life, .regs, .rates, .evj, .cqe, .mat, .lge, .nss, .idx, .fmm, .cap] d d2 := by
      unfold d2
      refine .foldl (fun y8 a9 => ?_) ?_
      · exact Dev.lateTrigger_keeps.step rfl .refl
      · exact h6
    have h10 : Keeps [.life, .regs, .rates, .evj, .cqe, .mat, .lge, .nss, .idx, .fmm, .cap] d d3 := Dev.restoreDir_keeps.step rfl (Dev.heldFirings_keeps.step rfl h7)
    have h11 : Keeps [.life, .regs, .rates, .evj, .cqe, .mat, .lge, .nss, .idx, .fmm, .cap] d d5 := .upd (fun p hp => by cases p <;> first | exact absurd hp (by decide) | rfl) h10
    dsimp only
    exact Dev.toPhase_keeps.step rfl (Dev.floors_keeps.step rfl (Dev.chainLevel_keeps.step rfl (Dev.startSweep_keeps.step rfl h11)))

theorem Dev.pwrFail_keeps {d : Dev} :
    Keeps [.free, .pins, .life, .regs, .imgWin, .copyA, .copyB, .evj, .power, .ports, .lanes, .sess, .epochs, .cqe, .mat, .rod, .lge, .fmm] d (Dev.pwrFail d) := by
  unfold Dev.pwrFail
  split
  · exact .refl
  · extract_lets y1 d2 y3 d4 d5 d6 y7
    have h8 : Keeps [.free, .pins, .life, .regs, .imgWin, .copyA, .copyB, .evj, .power, .ports, .lanes, .sess, .epochs, .cqe, .mat, .rod, .lge, .fmm] d d2 := .set_pins rfl .refl
    have h9 : Keeps [.free, .pins, .life, .regs, .imgWin, .copyA, .copyB, .evj, .power, .ports, .lanes, .sess, .epochs, .cqe, .mat, .rod, .lge, .fmm] d d4 := Dev.rodOff_keeps.step rfl (Dev.cause_keeps.step rfl h8)
    have h10 : Keeps [.free, .pins, .life, .regs, .imgWin, .copyA, .copyB, .evj, .power, .ports, .lanes, .sess, .epochs, .cqe, .mat, .rod, .lge, .fmm] d d5 := .ite h9 (Dev.log_keeps.step rfl h9)
    have h11 : Keeps [.free, .pins, .life, .regs, .imgWin, .copyA, .copyB, .evj, .power, .ports, .lanes, .sess, .epochs, .cqe, .mat, .rod, .lge, .fmm] d d6 := Dev.domFreeze_keeps.step rfl (Dev.imgStop_keeps.step rfl (Dev.pfBegin_keeps.step rfl (Dev.readyLow_keeps.step rfl h10)))
    exact .ite h8 (.ite (.ite (.set_life rfl h8) h8) (.ite (.set_life rfl h8) (.ite (.foldl (fun _ _ => (Dev.portDown_keeps.step rfl .refl)) h9) (.ite (Dev.startHalted_keeps.step rfl h9) (.set_life rfl h11)))))

theorem Dev.flushCutoff_keeps {d : Dev} :
    Keeps [.free, .life, .regs, .rates, .sec, .evj, .ports, .sess, .cqe, .lge, .nss, .idx, .vpl, .fmm, .cap, .fw] d (Dev.flushCutoff d) := by
  unfold Dev.flushCutoff
  split
  · exact .refl
  · extract_lets dropped1 aborted2 y3 d4 y5 d6 d7 y8 y9 y10 d11 y12
    have h13 : Keeps [.free, .life, .regs, .rates, .sec, .evj, .ports, .sess, .cqe, .lge, .nss, .idx, .vpl, .fmm, .cap, .fw] d d4 := .set_fmm rfl .refl
    have h14 : Keeps [.free, .life, .regs, .rates, .sec, .evj, .ports, .sess, .cqe, .lge, .nss, .idx, .vpl, .fmm, .cap, .fw] d d6 := .set_cqe rfl h13
    have h15 : Keeps [.free, .life, .regs, .rates, .sec, .evj, .ports, .sess, .cqe, .lge, .nss, .idx, .vpl, .fmm, .cap, .fw] d d7 := .foldl (fun _ _ => (Dev.abortFlight_keeps.step rfl .refl)) h14
    have h16 : Keeps [.free, .life, .regs, .rates, .sec, .evj, .ports, .sess, .cqe, .lge, .nss, .idx, .vpl, .fmm, .cap, .fw] d d11 := .upd (fun p hp => by cases p <;> first | exact absurd hp (by decide) | rfl) h15
    exact Dev.toStep_keeps.step rfl (.set_life rfl h16)

theorem Dev.pinReset_keeps {d : Dev} {nv : Secure} :
    Keeps ([.free, .pins, .life, .regs, .latches, .readData, .rates, .imgWin, .image, .copyA, .copyB, .sec, .evj, .power, .sup, .spi, .spiErrs, .ports, .lanes, .poolLow] ++ [.belowXoff, .rx, .rxNext, .cellsHeld, .sess, .epochs, .cqe, .mat, .rod, .lge, .ident, .nss, .idx, .vpl, .fmm, .cap, .fw]) d (Dev.pinReset d nv) := by
  unfold Dev.pinReset
  split
  · exact .refl
  · extract_lets y1 d2 y3
    have h4 : Keeps ([.free, .pins, .life, .regs, .latches, .readData, .rates, .imgWin, .image, .copyA, .copyB, .sec, .evj, .power, .sup, .spi, .spiErrs, .ports, .lanes, .poolLow] ++ [.belowXoff, .rx, .rxNext, .cellsHeld, .sess, .epochs, .cqe, .mat, .rod, .lge, .ident, .nss, .idx, .vpl, .fmm, .cap, .fw]) d d2 := Dev.logReset_keeps.step rfl (Dev.cause_keeps.step rfl (.set_pins rfl .refl))
    split
    · exact h4
    · exact Dev.reload_keeps.step rfl h4
    · exact Dev.quiesce_keeps.step rfl h4
    · exact .set_life rfl h4
    · exact h4
    · exact .set_life rfl h4

end Sys2Proof.Machine
end

