-- ==== Sys2Proof/Laws/RegisterFrames.lean ====
section
/-! SUPPORT. Frame lemmas: reading and writing registers, by each interface and each command that does so: each lemma `Dev.f_keeps` names the fields of the device that `Dev.f` may
change; every other field is as before. -/

open Sys2Proof

namespace Sys2Proof.Machine

theorem Dev.clearRc_keeps {d : Dev} {a : Nat} :
    Keeps [.life, .regs, .sup, .lanes, .poolLow, .cap] d (Dev.clearRc d a) := by
  unfold Dev.clearRc
  split
  · exact .set_life rfl .refl
  · exact Dev.modSite_keeps.step rfl .refl
  · exact .set_poolLow rfl .refl
  · exact Dev.modLane_keeps.step rfl .refl
  · exact Dev.modLane_keeps.step rfl .refl
  · exact Dev.modLane_keeps.step rfl .refl
  · exact Dev.modLane_keeps.step rfl .refl
  · exact .set_cap rfl .refl
  · split
    · exact Dev.setRegN_keeps.step rfl .refl
    · exact .refl

theorem Dev.offAccess_keeps {d : Dev} {a : Nat} :
    Keeps [.regs] d (Dev.offAccess d a) := by
  unfold Dev.offAccess
  extract_lets d1
  have h2 : Keeps [.regs] d d1 := .ite .refl (Dev.setRegN_keeps.step rfl .refl)
  exact Dev.count_keeps.step rfl h2

theorem Dev.regRead_keeps {d : Dev} {nv : Secure} {i : Iface} {a : Nat} :
    Keeps [.life, .regs, .latches, .sup, .lanes, .poolLow, .cap] d (Dev.regRead d nv i a).2 := by
  unfold Dev.regRead
  split
  · dsimp only
    exact .refl
  · split
    · dsimp only
      exact Dev.offAccess_keeps.step rfl .refl
    · split
      · dsimp only
        exact .set_latches rfl .refl
      · extract_lets d1
        have h2 : Keeps [.life, .regs, .latches, .sup, .lanes, .poolLow, .cap] d d1 := .ite (.set_latches rfl .refl) .refl
        dsimp only
        exact Dev.clearRc_keeps.step rfl h2

theorem Dev.writeFields_keeps {d : Dev} {a : Nat} {w : Nat} :
    Keeps [.regs] d (Dev.writeFields d a w) := by
  unfold Dev.writeFields
  split
  · exact .refl
  · extract_lets keep1 v2
    exact Dev.setRegN_keeps.step rfl .refl

theorem Dev.writeSup_keeps {d : Dev} {a : Nat} {w : Nat} :
    Keeps [.life, .regs, .sup] d (Dev.writeSup d a w) := by
  unfold Dev.writeSup
  split
  · exact Dev.writeFields_keeps.step rfl .refl
  · split
    · exact Dev.writeFields_keeps.step rfl .refl
    · split
      · exact Dev.writeFields_keeps.step rfl .refl
      · split
        · exact .refl
        · extract_lets d1 y2
          have h3 : Keeps [.life, .regs, .sup] d d1 := Dev.writeFields_keeps.step rfl .refl
          exact .ite (Dev.pfIgnore_keeps.step rfl h3) (.set_sup rfl h3)
      · exact Dev.writeFields_keeps.step rfl .refl

theorem Dev.writeEp_keeps {d : Dev} {n : Nat} {a : Nat} {w : Nat} :
    Keeps [.regs, .ports] d (Dev.writeEp d n a w) := by
  unfold Dev.writeEp
  extract_lets clear1 d2
  have h3 : Keeps [.regs, .ports] d d2 := Dev.writeFields_keeps.step rfl .refl
  split
  · exact .ite (Dev.ctRestore_keeps.step rfl h3) h3
  · exact Dev.writeFields_keeps.step rfl .refl
  · exact .ite (Dev.statClear_keeps.step rfl .refl) .refl
  · exact Dev.modPort_keeps.step rfl .refl
  · exact Dev.modPort_keeps.step rfl .refl
  · exact Dev.writeFields_keeps.step rfl .refl

theorem Dev.writeWidths_keeps {d : Dev} {a : Nat} {w : Nat} {b0 : Nat} :
    Keeps [.regs, .mat] d (Dev.writeWidths d a w b0) := by
  unfold Dev.writeWidths
  extract_lets ws1
  exact .ite .refl (Dev.setWidths_keeps.step rfl (Dev.writeFields_keeps.step rfl .refl))

theorem Dev.writeMat_keeps {d : Dev} {a : Nat} {w : Nat} :
    Keeps [.regs, .mat, .lge] d (Dev.writeMat d a w) := by
  unfold Dev.writeMat
  split
  · exact Dev.writeWidths_keeps.step rfl .refl
  · exact Dev.writeWidths_keeps.step rfl .refl
  · exact Dev.entCtl_keeps.step rfl .refl
  · extract_lets d1
    have h2 : Keeps [.regs, .mat, .lge] d d1 := Dev.writeFields_keeps.step rfl .refl
    exact .ite (Dev.diagSearch_keeps.step rfl h2) h2
  · exact Dev.writeFields_keeps.step rfl .refl

theorem Dev.readWords_keeps {nv : Secure} {i : Iface} {a : Nat} {n : Nat} {d : Dev} :
    Keeps [.life, .regs, .latches, .readData, .sup, .lanes, .poolLow, .cap] d (Dev.readWords nv i a n d).2 := by
  induction n generalizing nv i a d with
  | zero =>
    unfold Dev.readWords
    dsimp only
    exact .refl
  | succ n1 ih =>
    unfold Dev.readWords
    split
    next z1 z2 z3 z4 =>
      split
      next z5 z6 z7 z8 =>
        dsimp only
        exact .set_readData rfl ((Dev.regRead_keeps.snd z8).step rfl ((ih.snd z4).step rfl .refl))

theorem Dev.cqePolicy_keeps {d : Dev} {i : Iface} {a : Nat} {w : Nat} :
    Keeps [.regs, .evj] d (Dev.cqePolicy d i a w) := by
  unfold Dev.cqePolicy
  extract_lets old1 d2
  have h3 : Keeps [.regs, .evj] d d2 := Dev.writeFields_keeps.step rfl .refl
  exact .ite h3 (Dev.log_keeps.step rfl h3)

theorem Dev.writeCqe_keeps {d : Dev} {i : Iface} {a : Nat} {w : Nat} :
    Keeps [.regs, .evj] d (Dev.writeCqe d i a w) := by
  unfold Dev.writeCqe
  split
  · exact .ite .refl (Dev.cqePolicy_keeps.step rfl .refl)
  · exact Dev.cqePolicy_keeps.step rfl .refl
  · exact Dev.writeFields_keeps.step rfl .refl

theorem Dev.spiError_keeps {d : Dev} {status : Nat} {k : Nat} {addr : Nat} :
    Keeps [.regs, .rates, .evj, .spi, .spiErrs] d (Dev.spiError d status k addr) := by
  unfold Dev.spiError
  split
  · extract_lets errs1 d2 d3 y4
    have h5 : Keeps [.regs, .rates, .evj, .spi, .spiErrs] d d2 := Dev.raise_keeps.step rfl (Dev.count_keeps.step rfl .refl)
    have h6 : Keeps [.regs, .rates, .evj, .spi, .spiErrs] d d3 := .upd (fun p hp => by cases p <;> first | exact absurd hp (by decide) | rfl) h5
    have h7 : Keeps [.regs, .rates, .evj, .spi, .spiErrs] d y4 := Dev.logLimited_keeps.step rfl h6
    exact .ite (.set_spiErrs rfl h7) h6

theorem Dev.writeFmm_keeps {d : Dev} {a : Nat} {w : Nat} :
    Keeps [.regs, .evj, .fmm] d (Dev.writeFmm d a w) := by
  unfold Dev.writeFmm
  split
  · extract_lets d1 d2
    have h3 : Keeps [.regs, .evj, .fmm] d d1 := Dev.writeFields_keeps.step rfl .refl
    have h4 : Keeps [.regs, .evj, .fmm] d d2 := .ite (Dev.foldGo_keeps.step rfl h3) h3
    exact .ite (Dev.foldStop_keeps.step rfl h4) h4
  · extract_lets d5
    have h6 : Keeps [.regs, .evj, .fmm] d d5 := Dev.writeFields_keeps.step rfl .refl
    exact .ite (Dev.gcReq_keeps.step rfl h6) h6
  · exact Dev.writeFields_keeps.step rfl .refl

theorem Dev.writeEvj_keeps {d : Dev} {i : Iface} {a : Nat} {w : Nat} :
    Keeps [.pins, .regs, .evj, .fmm] d (Dev.writeEvj d i a w) := by
  unfold Dev.writeEvj
  split
  · extract_lets d1
    have h2 : Keeps [.pins, .regs, .evj, .fmm] d d1 := Dev.jrnPolicy_keeps.step rfl .refl
    exact .ite (Dev.persistNow_keeps.step rfl h2) h2
  · extract_lets d3
    have h4 : Keeps [.pins, .regs, .evj, .fmm] d d3 := Dev.writeFields_keeps.step rfl .refl
    exact .ite (Dev.journalRd_keeps.step rfl h4) h4
  · exact Dev.writeFields_keeps.step rfl .refl

theorem Dev.refuse_keeps {d : Dev} {i : Iface} {cause : Nat} {a : Nat} :
    Keeps [.regs, .rates, .evj] d (Dev.refuse d i cause a) := by
  unfold Dev.refuse
  extract_lets d1 d2
  have h3 : Keeps [.regs, .rates, .evj] d d1 := .ite .refl (Dev.setRegN_keeps.step rfl .refl)
  have h4 : Keeps [.regs, .rates, .evj] d d2 := .ite (Dev.count_keeps.step rfl h3) h3
  exact Dev.logLimited_keeps.step rfl (Dev.count_keeps.step rfl h4)

theorem Dev.writeFwc_keeps {d : Dev} {nv : Secure} {i : Iface} {a : Nat} {w : Nat} :
    Keeps [.regs, .evj, .fw] d (Dev.writeFwc d nv i a w) := by
  unfold Dev.writeFwc
  split
  · exact Dev.writeFields_keeps.step rfl (.ite (Dev.wdogKick_keeps.step rfl .refl) .refl)
  · exact Dev.fwPolicy_keeps.step rfl .refl
  · exact Dev.fwPolicy_keeps.step rfl .refl
  · exact Dev.fwPolicy_keeps.step rfl .refl
  · exact Dev.fwPolicy_keeps.step rfl .refl
  · exact Dev.loadCtl_keeps.step rfl .refl
  · exact Dev.loadData_keeps.step rfl .refl
  · exact Dev.writeFields_keeps.step rfl .refl

theorem Dev.writeSec_keeps {d : Dev} {nv : Secure} {a : Nat} {w : Nat} :
    Keeps [.free, .pins, .life, .regs, .sec, .evj, .ports, .keyStore] d (Dev.writeSec d nv a w).2 := by
  unfold Dev.writeSec
  extract_lets pn1 y2
  split
  · dsimp only
    exact .set_sec rfl .refl
  · split
    · split
      · exact Dev.unlock_keeps.step rfl .refl
      · dsimp only
        exact .refl
    · dsimp only
      exact Dev.kloadCtl_keeps.step rfl .refl
    · dsimp only
      exact Dev.kloadData_keeps.step rfl .refl
    · dsimp only
      exact Dev.todArm_keeps.step rfl .refl
    · dsimp only
      exact Dev.todCtl_keeps.step rfl .refl
    · exact Dev.saCtl_keeps.step rfl .refl
    · dsimp only
      exact .ite (Dev.modSa_keeps.step rfl (Dev.writeFields_keeps.step rfl .refl)) .refl
    · dsimp only
      exact .ite (Dev.modSa_keeps.step rfl (Dev.writeFields_keeps.step rfl .refl)) .refl
    · dsimp only
      exact Dev.writeFields_keeps.step rfl .refl

theorem Dev.runRegRead_keeps {d : Dev} {nv : Secure} {ctx : Nat} :
    Keeps [.life, .regs, .latches, .readData, .sup, .ports, .lanes, .poolLow, .sess, .cqe, .cap] d (Dev.runRegRead d nv ctx) := by
  unfold Dev.runRegRead
  split
  · exact .refl
  · split
    · split
      · exact Dev.finish_keeps.step rfl .refl
      · split
        next z1 z2 z3 z4 =>
          exact Dev.finishOk_keeps.step rfl ((Dev.readWords_keeps.snd z4).step rfl .refl)

theorem Dev.writeIdx_keeps {d : Dev} {a : Nat} {w : Nat} :
    Keeps [.regs, .evj, .idx, .fmm] d (Dev.writeIdx d a w) := by
  unfold Dev.writeIdx
  split
  · exact .ite (Dev.rescanBegin_keeps.step rfl .refl) .refl
  · exact .ite (Dev.checkpointForce_keeps.step rfl .refl) .refl
  · exact Dev.writeFields_keeps.step rfl .refl

theorem Dev.writeDkt_keeps {d : Dev} {a : Nat} {w : Nat} :
    Keeps [.regs, .latches, .imgWin, .evj, .ports, .belowXoff, .cellsHeld, .sess, .cqe, .mat, .lge, .vpl, .fmm] d (Dev.writeDkt d a w) := by
  unfold Dev.writeDkt
  split
  · exact Dev.writeFields_keeps.step rfl .refl
  · exact Dev.writeFields_keeps.step rfl .refl
  · exact Dev.writeFields_keeps.step rfl .refl
  · exact .ite (Dev.killSession_keeps.step rfl .refl) .refl
  · exact Dev.writeFields_keeps.step rfl .refl

theorem Dev.writeRod_keeps {d : Dev} {i : Iface} {a : Nat} {w : Nat} :
    Keeps [.free, .regs, .evj, .ports, .sess, .epochs, .cqe, .mat, .rod, .lge] d (Dev.writeRod d i a w) := by
  unfold Dev.writeRod
  split
  · extract_lets d1
    have h2 : Keeps [.free, .regs, .evj, .ports, .sess, .epochs, .cqe, .mat, .rod, .lge] d d1 := Dev.writeFields_keeps.step rfl .refl
    exact .ite (Dev.rodCheck_keeps.step rfl h2) h2
  · extract_lets d3
    have h4 : Keeps [.free, .regs, .evj, .ports, .sess, .epochs, .cqe, .mat, .rod, .lge] d d3 := Dev.writeFields_keeps.step rfl .refl
    split
    · exact .ite (Dev.dirChange_keeps.step rfl h4) (.ite (Dev.dirChange_keeps.step rfl h4) h4)
  · exact Dev.writeFields_keeps.step rfl .refl

theorem Dev.writeLow_keeps {d : Dev} {i : Iface} {a : Nat} {w : Nat} :
    Keeps [.free, .pins, .life, .regs, .latches, .rates, .imgWin, .sec, .evj, .power, .ports, .lanes, .belowXoff, .rx, .cellsHeld, .sess, .epochs, .cqe, .mat, .rod, .lge, .nss, .idx, .vpl, .fmm, .cap, .fw] d (Dev.writeLow d i a w) := by
  unfold Dev.writeLow
  split
  · exact .ite .refl (Dev.rstCtl_keeps.step rfl .refl)
  · exact Dev.pwrReq_keeps.step rfl .refl
  · exact Dev.imgCtl_keeps.step rfl .refl
  · exact Dev.imgData_keeps.step rfl .refl
  · exact Dev.writeFields_keeps.step rfl .refl

theorem Dev.writeReg_keeps {d : Dev} {nv : Secure} {i : Iface} {a : Nat} {w : Nat} :
    Keeps [.free, .pins, .life, .regs, .latches, .rates, .imgWin, .sec, .evj, .power, .sup, .ports, .lanes, .belowXoff, .rx, .cellsHeld, .sess, .epochs, .cqe, .mat, .rod, .lge, .keyStore, .nss, .idx, .vpl, .fmm, .cap, .fw] d (Dev.writeReg d nv i a w).2 := by
  unfold Dev.writeReg
  rw [apply_ite Prod.snd]
  refine .ite (Dev.writeSec_keeps.step rfl .refl) (.ite (Dev.writeSup_keeps.step rfl .refl) ?_)
  refine .ite (Dev.writeLow_keeps.step rfl .refl) (.ite (Dev.writeEp_keeps.step rfl .refl) ?_)
  refine .ite (.ite .refl (Dev.writeFields_keeps.step rfl .refl)) (.ite (Dev.writeDkt_keeps.step rfl .refl) ?_)
  refine .ite (Dev.writeCqe_keeps.step rfl .refl) (.ite (Dev.writeIdx_keeps.step rfl .refl) ?_)
  refine .ite (Dev.nsPolicyWrite_keeps.step rfl .refl) (.ite (Dev.writeFields_keeps.step rfl .refl) ?_)
  refine .ite (Dev.writeFmm_keeps.step rfl .refl) (.ite (Dev.writeMat_keeps.step rfl .refl) ?_)
  exact .ite (Dev.writeRod_keeps.step rfl .refl) (.ite (Dev.writeEvj_keeps.step rfl .refl) (Dev.writeFwc_keeps.step rfl .refl))

theorem Dev.regWrite_keeps {d : Dev} {nv : Secure} {i : Iface} {a : Nat} {w : Nat} :
    Keeps [.free, .pins, .life, .regs, .latches, .rates, .imgWin, .sec, .evj, .power, .sup, .ports, .lanes, .belowXoff, .rx, .cellsHeld, .sess, .epochs, .cqe, .mat, .rod, .lge, .keyStore, .nss, .idx, .vpl, .fmm, .cap, .fw] d (Dev.regWrite d nv i a w).2.2 := by
  unfold Dev.regWrite
  split
  · dsimp only
    exact Dev.refuse_keeps.step rfl .refl
  · split
    · dsimp only
      exact .refl
    · split
      · dsimp only
        exact Dev.offAccess_keeps.step rfl .refl
      · split
        · dsimp only
          exact Dev.refuse_keeps.step rfl .refl
        · extract_lets spoils1 d2 busy3
          have h4 : Keeps [.free, .pins, .life, .regs, .latches, .rates, .imgWin, .sec, .evj, .power, .sup, .ports, .lanes, .belowXoff, .rx, .cellsHeld, .sess, .epochs, .cqe, .mat, .rod, .lge, .keyStore, .nss, .idx, .vpl, .fmm, .cap, .fw] d d2 := .ite (Dev.refuse_keeps.step rfl .refl) .refl
          split
          next z5 z6 z7 z8 =>
            dsimp only
            exact (Dev.writeReg_keeps.snd z8).step rfl h4

theorem Dev.writeWords_keeps {i : Iface} {n : List Bytes} {m : Nat} {l : Bool} {a : Secure × Dev} :
    Keeps [.free, .pins, .life, .regs, .latches, .rates, .imgWin, .sec, .evj, .power, .sup, .ports, .lanes, .belowXoff, .rx, .cellsHeld, .sess, .epochs, .cqe, .mat, .rod, .lge, .keyStore, .nss, .idx, .vpl, .fmm, .cap, .fw] a.2 (Dev.writeWords i n m l a).2.2 := by
  induction n generalizing m l a with
  | nil => exact .refl
  | cons w n ih =>
    obtain ⟨nv, d⟩ := a
    unfold Dev.writeWords
    have hw := Dev.regWrite_keeps (d := d) (nv := nv) (i := i) (a := m) (w := num w 0 4)
    split
    next r nv2 e hz =>
    rw [hz] at hw
    exact ih.step rfl hw

theorem Dev.spiFrame_keeps {d : Dev} {nv : Secure} {clocks : Nat} {mosi : Bytes} :
    Keeps ([.free, .pins, .life, .regs, .latches, .readData, .rates, .imgWin, .sec, .evj, .power, .sup, .spi, .spiErrs, .ports, .lanes, .poolLow, .belowXoff, .rx, .cellsHeld] ++ [.sess, .epochs, .cqe, .mat, .rod, .lge, .keyStore, .nss, .idx, .vpl, .fmm, .cap, .fw]) d (Dev.spiFrame d nv clocks mosi).2 := by
  unfold Dev.spiFrame
  split
  · exact .refl
  extract_lets a w off
  split
  · exact Dev.spiError_keeps.step rfl .refl
  split
  · have hr := Dev.regRead_keeps (d := d) (nv := nv) (i := .spi) (a := a)
    split
    next v f hz =>
    rw [hz] at hr
    exact .upd (x := f.count (spiCnt 0)) (fun p hp => by cases p <;> first | rfl | exact absurd hp (by decide))
      (Dev.count_keeps.step rfl (hr.step rfl .refl))
  · have hw := Dev.regWrite_keeps (d := d.count (spiCnt 0)) (nv := nv) (i := .spi) (a := a) (w := w)
    split
    next r nv2 f hz =>
    rw [hz] at hw
    exact .set_spi rfl (hw.step rfl (Dev.count_keeps.step rfl .refl))
  · exact .set_spi rfl (Dev.count_keeps.step rfl .refl)

theorem Dev.runRegWrite_keeps {d : Dev} {nv : Secure} {ctx : Nat} :
    Keeps [.free, .pins, .life, .regs, .latches, .rates, .imgWin, .sec, .evj, .power, .sup, .ports, .lanes, .belowXoff, .rx, .cellsHeld, .sess, .epochs, .cqe, .mat, .rod, .lge, .keyStore, .nss, .idx, .vpl, .fmm, .cap, .fw] d (Dev.runRegWrite d nv ctx).2 := by
  unfold Dev.runRegWrite
  split
  · exact .refl
  extract_lets a ws i
  split
  · exact Dev.finish_keeps.step rfl .refl
  split
  · exact Dev.finish_keeps.step rfl (Dev.refuse_keeps.step rfl .refl)
  have hw := Dev.writeWords_keeps (i := i) (n := ws) (m := a) (l := false) (a := (nv, d))
  split
  next busy nv2 e hz =>
  rw [hz] at hw
  have he : Keeps [.free, .pins, .life, .regs, .latches, .rates, .imgWin, .sec, .evj, .power, .sup, .ports, .lanes, .belowXoff, .rx, .cellsHeld, .sess, .epochs, .cqe, .mat, .rod, .lge, .keyStore, .nss, .idx, .vpl, .fmm, .cap, .fw] d e := hw.step rfl .refl
  have hf : Keeps [.free, .pins, .life, .regs, .latches, .rates, .imgWin, .sec, .evj, .power, .sup, .ports, .lanes, .belowXoff, .rx, .cellsHeld, .sess, .epochs, .cqe, .mat, .rod, .lge, .keyStore, .nss, .idx, .vpl, .fmm, .cap, .fw] d (if busy then e.finish ctx stBusy 0 5 else e.finishOk ctx 0 [] []) :=
    .ite (Dev.finish_keeps.step rfl he) (Dev.finishOk_keeps.step rfl he)
  extract_lets f
  split
  · exact Dev.rstCtl_keeps.step rfl hf
  · exact hf

theorem Dev.regLook_keeps {d : Dev} {nv : Secure} {i : Iface} {a : Nat} :
    Keeps [.life, .regs, .latches, .readData, .sup, .lanes, .poolLow, .cap] d (Dev.regLook d nv i a) := by
  unfold Dev.regLook
  split
  · exact .refl
  · split
    next z1 z2 z3 z4 =>
      exact .set_readData rfl ((Dev.regRead_keeps.snd z4).step rfl .refl)

theorem Dev.cycle_keeps {d : Dev} :
    Keeps [.cycles, .regs, .sec, .evj, .cqe] d (Dev.cycle d) := by
  unfold Dev.cycle
  extract_lets d1 y2
  have h3 : Keeps [.cycles, .regs, .sec, .evj, .cqe] d d1 := Dev.ctxEnd_keeps.step rfl (Dev.reportStops_keeps.step rfl .refl)
  exact .upd (fun p hp => by cases p <;> first | exact absurd hp (by decide) | rfl) h3

theorem Dev.regAct_keeps {d : Dev} {nv : Secure} {i : Iface} {a : Nat} {w : Nat} :
    Keeps [.free, .pins, .life, .regs, .latches, .rates, .imgWin, .sec, .evj, .power, .sup, .ports, .lanes, .belowXoff, .rx, .cellsHeld, .sess, .epochs, .cqe, .mat, .rod, .lge, .keyStore, .nss, .idx, .vpl, .fmm, .cap, .fw] d (Dev.regAct d nv i a w).2 := by
  unfold Dev.regAct
  split
  · exact .refl
  have hw := Dev.regWrite_keeps (d := d) (nv := nv) (i := i) (a := a) (w := w)
  split
  next r nv2 e hz =>
  rw [hz] at hw
  have he : Keeps [.free, .pins, .life, .regs, .latches, .rates, .imgWin, .sec, .evj, .power, .sup, .ports, .lanes, .belowXoff, .rx, .cellsHeld, .sess, .epochs, .cqe, .mat, .rod, .lge, .keyStore, .nss, .idx, .vpl, .fmm, .cap, .fw] d e := hw.step rfl .refl
  split
  · exact .ite (Dev.rstCtl_keeps.step rfl he) he
  · exact he

theorem Dev.regSet_keeps {d : Dev} {nv : Secure} {i : Iface} {a : Nat} {w : Nat} :
    Keeps [.free, .pins, .life, .regs, .latches, .rates, .imgWin, .sec, .evj, .power, .sup, .ports, .lanes, .belowXoff, .rx, .cellsHeld, .sess, .epochs, .cqe, .mat, .rod, .lge, .keyStore, .nss, .idx, .vpl, .fmm, .cap, .fw] d (Dev.regSet d nv i a w).2 :=
  Dev.regAct_keeps.step rfl .refl

theorem Dev.onSession_keeps {m : List Part} {d0 d : Dev} {pid type : Nat} {keep : Bool} {f : Dev → Nat → RxPkt → Dev}
    (c : covers m [.regs, .ports, .belowXoff, .rx, .cellsHeld] = true) (hf : ∀ y n k, Keeps m y (f y n k)) (h : Keeps m d0 d) :
    Keeps m d0 (d.onSession pid type keep f) := by
  unfold Dev.onSession
  split
  · exact h
  split
  · exact h
  next k e z =>
    have hz := (Dev.takePkt_keeps _ z).step (covers_trans c rfl) h
    split
    · exact (hf e _ k).step (covers_self m) hz
    · exact Dev.count_keeps.step (covers_trans c rfl) (.ite (Dev.freeCells_keeps.step (covers_trans c rfl) hz) hz)

theorem Dev.onPacket_keeps {m : List Part} {d0 d : Dev} {pid type : Nat} {f : Dev → RxPkt → Dev}
    (c : covers m [.ports, .belowXoff, .rx, .cellsHeld] = true) (hf : ∀ y k, Keeps m y (f y k)) (h : Keeps m d0 d) :
    Keeps m d0 (d.onPacket pid type f) := by
  unfold Dev.onPacket
  split
  · exact h
  split
  next k e z => exact (hf e k).step (covers_self m) ((Dev.takePkt_keeps _ z).step c h)
  · exact h

theorem Dev.loseClock_keeps {d : Dev} {nv : Secure} {c : Nat} :
    Keeps [.free, .pins, .life, .regs, .latches, .rates, .imgWin, .sec, .evj, .power, .clocks, .ports, .lanes, .belowXoff, .cellsHeld, .sess, .epochs, .cqe, .mat, .rod, .lge, .nss, .idx, .vpl, .fmm, .cap, .fw] d (Dev.loseClock d nv c).2 := by
  unfold Dev.loseClock
  split
  · dsimp only
    exact .refl
  · extract_lets was1 d2
    have h3 : Keeps [.free, .pins, .life, .regs, .latches, .rates, .imgWin, .sec, .evj, .power, .clocks, .ports, .lanes, .belowXoff, .cellsHeld, .sess, .epochs, .cqe, .mat, .rod, .lge, .nss, .idx, .vpl, .fmm, .cap, .fw] d d2 := Dev.clkLost_keeps.step rfl .refl
    split
    · exact Dev.alarm_keeps.step rfl h3
    · dsimp only
      exact h3

theorem Dev.onRequest_keeps {m : List Part} {d0 d : Dev} {ctx op : Nat} {f : Dev → Nat → Cmd → Dev}
    (hf : ∀ y n x, Keeps m y (f y n x)) (h : Keeps m d0 d) : Keeps m d0 (d.onRequest ctx op f) := by
  unfold Dev.onRequest
  split
  · exact (hf _ _ _).step (covers_self m) h
  · exact h

theorem Dev.replicaAnswer_keeps {d : Dev} {sid : Nat} {tag : Nat} :
    Keeps [.free, .regs, .evj, .ports, .sess, .epochs, .cqe, .mat, .lge, .fmm] d (Dev.replicaAnswer d sid tag) := by
  unfold Dev.replicaAnswer
  split
  next z1 z2 z3 z4 z5 z6 =>
    exact Dev.leaguePump_keeps.step rfl (Dev.replicaAnswered_keeps.step rfl ((Dev.takeAnswer_keeps _ z6).step rfl .refl))
  · exact .refl

theorem Dev.relayAnswer_keeps {d : Dev} {sid : Nat} {tag : Nat} :
    Keeps [.free, .regs, .latches, .imgWin, .evj, .ports, .belowXoff, .cellsHeld, .sess, .epochs, .cqe, .mat, .lge, .vpl, .fmm] d (Dev.relayAnswer d sid tag) := by
  unfold Dev.relayAnswer
  split
  next z1 z2 z3 z4 z5 z6 =>
    exact Dev.leaguePump_keeps.step rfl (Dev.relayAnswered_keeps.step rfl ((Dev.takeAnswer_keeps _ z6).step rfl .refl))
  · exact .refl

theorem Dev.onWrapped_keeps {d : Dev} {pid : Nat} {op : Nat} :
    Keeps [.free, .regs, .latches, .rates, .imgWin, .sec, .evj, .ports, .belowXoff, .rx, .cellsHeld, .sess, .epochs, .cqe, .mat, .lge, .vpl, .fmm, .cap] d (Dev.onWrapped d pid op) := by
  unfold Dev.onWrapped
  split
  · split
    · refine Dev.onSession_keeps rfl (fun x1 x2 x3 => ?_) ?_
      · exact Dev.seqPkt_keeps.step rfl .refl
      · exact .refl
    · exact .refl
  · exact .refl

end Sys2Proof.Machine
end

