-- ==== Sys2Proof/Laws/State.lean ====
section
/-! SUPPORT. What each way of ending a command makes of the state: one lemma per field, and the frame it passes on. -/

open Sys2Proof

namespace Sys2Proof.Machine

/-! ## The next state of each form of meaning -/

@[simp] theorem State.run_next (s : State) (f : Dev → Secure → Secure × Dev) :
    s.run f = .next { s with nv := (f s.dev s.nv).1.follow s.dev (f s.dev s.nv).2, dev := (f s.dev s.nv).2 } := rfl

@[simp] theorem State.act_next (s : State) (f : Dev → Dev) :
    s.act f = .next { s with nv := s.nv.follow s.dev (f s.dev), dev := f s.dev } := rfl

@[simp] theorem State.actIf_next (s : State) (c : Dev → Bool) (f : Dev → Dev) :
    s.actIf c f = .next { s with nv := s.nv.follow s.dev (s.dev.when (c s.dev) f), dev := s.dev.when (c s.dev) f } := rfl

theorem State.runIf_next (s : State) (c : Dev → Bool) (f : Dev → Secure → Secure × Dev) :
    s.runIf c f = s.run fun d nv => if c d then f d nv else (nv, d) := rfl

/-! ## The step -/

@[simp] theorem step_cons (s : State) (c : Instr) (r : List Instr) (h : s.pending = c :: r) :
    step s = exec c { s with pending := r } := by unfold step; rw [h]

@[simp] theorem step_nil (s : State) (h : s.pending = []) : step s = .next { s with dev := s.dev.cycle } := by
  unfold step; rw [h]

/-! ## What SEC's store takes in beside a command's effect -/

/-- Where no block of a counter is reserved and no reset or shutdown begins, SEC's store takes in nothing. -/
theorem Secure.follow_same {nv : Secure} {d e : Dev} (hv : e.vpl.reserved = d.vpl.reserved)
    (hc : e.cap.sctrReserved = d.cap.sctrReserved) (hd : e.life.datapathDown = d.life.datapathDown)
    (hf : e.life.flush = d.life.flush) : nv.follow d e = nv := by
  unfold Secure.follow
  rw [hv, hc, hd, hf]
  cases d.life.datapathDown <;> cases d.life.flush <;> simp

theorem Secure.follow_self {nv : Secure} {d : Dev} : nv.follow d d = nv := follow_same rfl rfl rfl rfl

theorem Secure.follow_of_keeps {m : List Part} {nv : Secure} {d e : Dev} (k : Keeps m d e)
    (c : (Part.isIn .vpl m || Part.isIn .cap m || Part.isIn .life m) = false) : nv.follow d e = nv := by
  simp only [Bool.or_eq_false_iff] at c
  have hv : e.vpl = d.vpl := k.same .vpl c.1.1
  have hc : e.cap = d.cap := k.same .cap c.1.2
  have hl : e.life = d.life := k.same .life c.2
  exact follow_same (by rw [hv]) (by rw [hc]) (by rw [hl]) (by rw [hl])

/-! ## Frames of commands -/

theorem State.act_keeps {m : List Part} {s t : State} {f : Dev → Dev} (k : Keeps m s.dev (f s.dev))
    (h : s.act f = .next t) : Keeps m s.dev t.dev := by cases h; exact k

theorem State.run_keeps {m : List Part} {s t : State} {f : Dev → Secure → Secure × Dev}
    (k : Keeps m s.dev (f s.dev s.nv).2) (h : s.run f = .next t) : Keeps m s.dev t.dev := by cases h; exact k

theorem State.actIf_keeps {m : List Part} {s t : State} {c : Dev → Bool} {f : Dev → Dev} (k : Keeps m s.dev (f s.dev))
    (h : s.actIf c f = .next t) : Keeps m s.dev t.dev := by
  cases h
  exact .when k .refl

theorem State.runIf_keeps {m : List Part} {s t : State} {c : Dev → Bool} {f : Dev → Secure → Secure × Dev}
    (k : Keeps m s.dev (f s.dev s.nv).2) (h : s.runIf c f = .next t) : Keeps m s.dev t.dev := by
  cases h
  show Keeps m s.dev (if c s.dev then f s.dev s.nv else (s.nv, s.dev)).2
  split
  · exact k
  · exact .refl

/-- Two devices with the same fields are one. -/
theorem Dev.eq_of_same {d e : Dev} (h : ∀ p : Part, p.same d e) : e = d := by
  cases d; cases e
  simp only [Dev.mk.injEq]
  exact ⟨h .cycles, h .free, h .pins, h .life, h .regs, h .latches, h .readData, h .rates, h .imgWin, h .image, h .copyA,
    h .copyB, h .sec, h .evj, h .power, h .sup, h .clocks, h .spi, h .spiErrs, h .ports, h .lanes, h .poolLow, h .belowXoff,
    h .rx, h .rxNext, h .cellsHeld, h .sess, h .epochs, h .cqe, h .mat, h .rod, h .lge, h .ident, h .keyStore, h .nss, h .idx,
    h .vpl, h .fmm, h .cap, h .fw⟩

end Sys2Proof.Machine
end

