-- ==== Sys2Proof/Laws/CommandFrames.lean ====
section
/-! SUPPORT. The frame of every command: each lemma names the fields of the device that the command may change, where
it answers a next state; every other field is as before. -/

open Sys2Proof

namespace Sys2Proof.Machine

theorem execPowerOn_keeps {s s' : State} (h : execPowerOn s = .next s') :
    Keeps [.pins, .life] s.dev s'.dev :=
  State.act_keeps (Dev.powerOn_keeps.step rfl .refl) h

theorem execResetNRise_keeps {straps : Nat} {uv : Nat} {ov : Nat} {s s' : State} (h : execResetNRise straps uv ov s = .next s') :
    Keeps [.pins, .life, .sup] s.dev s'.dev :=
  State.act_keeps (Dev.resetRise_keeps.step rfl .refl) h

theorem execPinReset_keeps {s s' : State} (h : execPinReset s = .next s') :
    Keeps ([.free, .pins, .life, .regs, .latches, .readData, .rates, .imgWin, .image, .copyA, .copyB, .sec, .evj, .power, .sup, .spi, .spiErrs, .ports, .lanes, .poolLow] ++ [.belowXoff, .rx, .rxNext, .cellsHeld, .sess, .epochs, .cqe, .mat, .rod, .lge, .ident, .nss, .idx, .vpl, .fmm, .cap, .fw]) s.dev s'.dev := by
  refine State.run_keeps ?_ h
  dsimp only
  exact Dev.pinReset_keeps.step rfl .refl

theorem execDeviceReset_keeps {i : Iface} {straps : Nat} {s s' : State} (h : execDeviceReset i straps s = .next s') :
    Keeps [.free, .pins, .life, .regs, .latches, .rates, .imgWin, .sec, .evj, .power, .sup, .ports, .lanes, .belowXoff, .rx, .cellsHeld, .sess, .epochs, .cqe, .mat, .rod, .lge, .keyStore, .nss, .idx, .vpl, .fmm, .cap, .fw] s.dev s'.dev :=
  State.run_keeps (Dev.regAct_keeps.step rfl (.set_pins rfl .refl)) h

theorem execDatapathReset_keeps {i : Iface} {s s' : State} (h : execDatapathReset i s = .next s') :
    Keeps [.free, .pins, .life, .regs, .latches, .rates, .imgWin, .sec, .evj, .power, .sup, .ports, .lanes, .belowXoff, .rx, .cellsHeld, .sess, .epochs, .cqe, .mat, .rod, .lge, .keyStore, .nss, .idx, .vpl, .fmm, .cap, .fw] s.dev s'.dev :=
  State.run_keeps (Dev.regAct_keeps.step rfl .refl) h

theorem execDatapathResetDone_keeps {s s' : State} (h : execDatapathResetDone s = .next s') :
    Keeps [.pins, .life, .regs, .evj, .cqe, .rod, .vpl, .fmm] s.dev s'.dev :=
  State.act_keeps (Dev.datapathDone_keeps.step rfl .refl) h

theorem execCoresReset_keeps {i : Iface} {s s' : State} (h : execCoresReset i s = .next s') :
    Keeps [.free, .pins, .life, .regs, .latches, .rates, .imgWin, .sec, .evj, .power, .sup, .ports, .lanes, .belowXoff, .rx, .cellsHeld, .sess, .epochs, .cqe, .mat, .rod, .lge, .keyStore, .nss, .idx, .vpl, .fmm, .cap, .fw] s.dev s'.dev :=
  State.run_keeps (Dev.regAct_keeps.step rfl .refl) h

theorem execCoresResetDone_keeps {s s' : State} (h : execCoresResetDone s = .next s') :
    Keeps [.life, .regs, .ports, .sess, .cqe, .fw] s.dev s'.dev := by
  refine State.run_keeps ?_ h
  dsimp only
  exact Dev.coresResetDone_keeps.step rfl .refl

theorem execShutdownFlushDone_keeps {s s' : State} (h : execShutdownFlushDone s = .next s') :
    Keeps ([.free, .pins, .life, .regs, .latches, .readData, .rates, .imgWin, .image, .copyA, .copyB, .sec, .evj, .power, .sup, .spi, .spiErrs, .ports, .lanes, .poolLow] ++ [.belowXoff, .rx, .rxNext, .cellsHeld, .sess, .epochs, .cqe, .mat, .rod, .lge, .ident, .nss, .idx, .vpl, .fmm, .cap, .fw]) s.dev s'.dev :=
  State.run_keeps (Dev.shutdownDone_keeps.step rfl .refl) h

theorem execPhaseAon_keeps {pfHigh : Bool} {s s' : State} (h : execPhaseAon pfHigh s = .next s') :
    Keeps [.pins, .life, .sup, .ident] s.dev s'.dev := by
  refine State.run_keeps ?_ h
  dsimp only
  exact Dev.aonPhase_keeps.step rfl .refl

theorem execPfStartWaitDone_keeps {s s' : State} (h : execPfStartWaitDone s = .next s') :
    Keeps [.pins, .life, .sup] s.dev s'.dev :=
  State.act_keeps (Dev.pfWaitDone_keeps.step rfl .refl) h

theorem execPhaseRom_keeps {s s' : State} (h : execPhaseRom s = .next s') :
    Keeps [.pins, .life, .regs, .ident] s.dev s'.dev := by
  refine State.run_keeps ?_ h
  dsimp only
  exact Dev.romPhase_keeps.step rfl .refl

theorem execPhaseFw_keeps {copyOk : Bool} {ms : Nat} {s s' : State} (h : execPhaseFw copyOk ms s = .next s') :
    Keeps [.life, .regs, .evj, .fw] s.dev s'.dev :=
  State.run_keeps (Dev.fwDone_keeps.step rfl .refl) h

theorem execPhaseMem_keeps {s s' : State} (h : execPhaseMem s = .next s') :
    Keeps [.life] s.dev s'.dev :=
  State.act_keeps (Dev.memPhase_keeps.step rfl .refl) h

theorem execPhaseMedia_keeps {badA : Bool} {badB : Bool} {s s' : State} (h : execPhaseMedia badA badB s = .next s') :
    Keeps [.free, .pins, .life, .regs, .imgWin, .sec, .evj, .keyStore, .idx, .fmm, .cap] s.dev s'.dev :=
  State.run_keeps (Dev.mediaPhase_keeps.step rfl .refl) h

theorem execPhaseImage_keeps {s s' : State} (h : execPhaseImage s = .next s') :
    Keeps [.free, .pins, .life, .regs, .imgWin, .image, .copyA, .copyB, .sec, .evj, .power, .ports, .cqe, .mat, .lge, .nss, .idx, .vpl] s.dev s'.dev :=
  State.run_keeps (Dev.imageDone_keeps.step rfl .refl) h

theorem execPhaseIndex_keeps {pages : List (Nat × Option Bytes)} {blocks : List (Nat × Option Bytes)} {s s' : State} (h : execPhaseIndex pages blocks s = .next s') :
    Keeps [.life, .regs, .evj, .idx, .fmm] s.dev s'.dev :=
  State.act_keeps (Dev.indexPhase_keeps.step rfl .refl) h

theorem execPhaseMeta_keeps {s s' : State} (h : execPhaseMeta s = .next s') :
    Keeps [.life, .regs, .rates, .evj, .cqe, .mat, .lge, .nss, .idx, .fmm, .cap] s.dev s'.dev :=
  State.run_keeps (Dev.metaPhase_keeps.step rfl .refl) h

theorem execPhasePorts_keeps {s s' : State} (h : execPhasePorts s = .next s') :
    Keeps [.life, .rod] s.dev s'.dev :=
  State.act_keeps (Dev.portsPhase_keeps.step rfl .refl) h

theorem execPhaseRun_keeps {s s' : State} (h : execPhaseRun s = .next s') :
    Keeps [.pins, .life, .regs, .evj, .fmm] s.dev s'.dev :=
  State.act_keeps (Dev.runPhase_keeps.step rfl .refl) h

theorem execPfGlitch_keeps {s s' : State} (h : execPfGlitch s = .next s') :
    Keeps [.life, .regs, .evj] s.dev s'.dev :=
  State.act_keeps (Dev.pfGlitch_keeps.step rfl .refl) h

theorem execPwrFail_keeps {s s' : State} (h : execPwrFail s = .next s') :
    Keeps [.free, .pins, .life, .regs, .imgWin, .copyA, .copyB, .evj, .power, .ports, .lanes, .sess, .epochs, .cqe, .mat, .rod, .lge, .fmm] s.dev s'.dev :=
  State.act_keeps (Dev.pwrFail_keeps.step rfl .refl) h

theorem execFlushAdmissionStop_keeps {s s' : State} (h : execFlushAdmissionStop s = .next s') :
    Keeps [.life, .regs, .evj, .ports, .lanes] s.dev s'.dev :=
  State.act_keeps (Dev.flushAdmission_keeps.step rfl .refl) h

theorem execFlushStagingCutoff_keeps {s s' : State} (h : execFlushStagingCutoff s = .next s') :
    Keeps [.free, .life, .regs, .rates, .sec, .evj, .ports, .sess, .cqe, .lge, .nss, .idx, .vpl, .fmm, .cap, .fw] s.dev s'.dev :=
  State.act_keeps (Dev.flushCutoff_keeps.step rfl .refl) h

theorem execFlushDiesReady_keeps {s s' : State} (h : execFlushDiesReady s = .next s') :
    Keeps [.life] s.dev s'.dev :=
  State.act_keeps (Dev.flushDies_keeps.step rfl .refl) h

theorem execFlushStagingWritten_keeps {retries : Nat} {s s' : State} (h : execFlushStagingWritten retries s = .next s') :
    Keeps [.life, .fmm] s.dev s'.dev :=
  State.act_keeps (Dev.flushWritten_keeps.step rfl .refl) h

theorem execFlushMetadataWritten_keeps {s s' : State} (h : execFlushMetadataWritten s = .next s') :
    Keeps [.life, .idx, .cap] s.dev s'.dev :=
  State.run_keeps (Dev.flushMetadata_keeps.step rfl .refl) h

theorem execFlushJournalWritten_keeps {s s' : State} (h : execFlushJournalWritten s = .next s') :
    Keeps [.pins, .life, .regs, .evj, .fmm] s.dev s'.dev :=
  State.act_keeps (Dev.flushRecords_keeps.step rfl .refl) h

theorem execFlushComplete_keeps {s s' : State} (h : execFlushComplete s = .next s') :
    Keeps ([.free, .pins, .life, .regs, .latches, .readData, .rates, .imgWin, .image, .copyA, .copyB, .sec, .evj, .power, .sup, .spi, .spiErrs, .ports, .lanes, .poolLow] ++ [.belowXoff, .rx, .rxNext, .cellsHeld, .sess, .epochs, .cqe, .mat, .rod, .lge, .ident, .nss, .idx, .vpl, .fmm, .cap, .fw]) s.dev s'.dev := by
  refine State.run_keeps ?_ h
  dsimp only
  exact Dev.flushComplete_keeps.step rfl .refl

theorem execFlushOvertime_keeps {s s' : State} (h : execFlushOvertime s = .next s') :
    Keeps [.life, .regs, .evj] s.dev s'.dev :=
  State.act_keeps (Dev.flushLong_keeps.step rfl .refl) h

theorem execRailsLost_keeps {k : Nat} {s s' : State} (h : execRailsLost k s = .next s') :
    Keeps ([.free, .pins, .life, .regs, .latches, .readData, .rates, .imgWin, .image, .copyA, .copyB, .sec, .evj, .power, .sup, .spi, .spiErrs, .ports, .lanes, .poolLow] ++ [.belowXoff, .rx, .rxNext, .cellsHeld, .sess, .epochs, .cqe, .mat, .rod, .lge, .ident, .nss, .idx, .vpl, .fmm, .cap, .fw]) s.dev s'.dev := by
  refine State.run_keeps ?_ h
  dsimp only
  exact Dev.railsLost_keeps.step rfl .refl

theorem execHaltExit_keeps {straps : Nat} {s s' : State} (h : execHaltExit straps s = .next s') :
    Keeps ([.free, .pins, .life, .regs, .latches, .readData, .rates, .imgWin, .image, .copyA, .copyB, .sec, .evj, .power, .sup, .spi, .spiErrs, .ports, .lanes, .poolLow] ++ [.belowXoff, .rx, .rxNext, .cellsHeld, .sess, .epochs, .cqe, .mat, .rod, .lge, .ident, .nss, .idx, .vpl, .fmm, .cap, .fw]) s.dev s'.dev := by
  refine State.run_keeps ?_ h
  dsimp only
  exact Dev.haltExit_keeps.step rfl .refl

theorem execImgOpen_keeps {i : Iface} {s s' : State} (h : execImgOpen i s = .next s') :
    Keeps [.free, .pins, .life, .regs, .latches, .rates, .imgWin, .sec, .evj, .power, .sup, .ports, .lanes, .belowXoff, .rx, .cellsHeld, .sess, .epochs, .cqe, .mat, .rod, .lge, .keyStore, .nss, .idx, .vpl, .fmm, .cap, .fw] s.dev s'.dev :=
  State.run_keeps (Dev.regSet_keeps.step rfl .refl) h

theorem execImgData_keeps {i : Iface} {w : Nat} {s s' : State} (h : execImgData i w s = .next s') :
    Keeps [.free, .pins, .life, .regs, .latches, .rates, .imgWin, .sec, .evj, .power, .sup, .ports, .lanes, .belowXoff, .rx, .cellsHeld, .sess, .epochs, .cqe, .mat, .rod, .lge, .keyStore, .nss, .idx, .vpl, .fmm, .cap, .fw] s.dev s'.dev :=
  State.run_keeps (Dev.regAct_keeps.step rfl .refl) h

theorem execImgApply_keeps {i : Iface} {s s' : State} (h : execImgApply i s = .next s') :
    Keeps [.free, .pins, .life, .regs, .latches, .rates, .imgWin, .sec, .evj, .power, .sup, .ports, .lanes, .belowXoff, .rx, .cellsHeld, .sess, .epochs, .cqe, .mat, .rod, .lge, .keyStore, .nss, .idx, .vpl, .fmm, .cap, .fw] s.dev s'.dev :=
  State.run_keeps (Dev.regSet_keeps.step rfl .refl) h

theorem execImgStore_keeps {i : Iface} {s s' : State} (h : execImgStore i s = .next s') :
    Keeps [.free, .pins, .life, .regs, .latches, .rates, .imgWin, .sec, .evj, .power, .sup, .ports, .lanes, .belowXoff, .rx, .cellsHeld, .sess, .epochs, .cqe, .mat, .rod, .lge, .keyStore, .nss, .idx, .vpl, .fmm, .cap, .fw] s.dev s'.dev :=
  State.run_keeps (Dev.regSet_keeps.step rfl .refl) h

theorem execImgAbort_keeps {i : Iface} {s s' : State} (h : execImgAbort i s = .next s') :
    Keeps [.free, .pins, .life, .regs, .latches, .rates, .imgWin, .sec, .evj, .power, .sup, .ports, .lanes, .belowXoff, .rx, .cellsHeld, .sess, .epochs, .cqe, .mat, .rod, .lge, .keyStore, .nss, .idx, .vpl, .fmm, .cap, .fw] s.dev s'.dev :=
  State.run_keeps (Dev.regSet_keeps.step rfl .refl) h

theorem execImgCheckDone_keeps {s s' : State} (h : execImgCheckDone s = .next s') :
    Keeps [.free, .pins, .life, .regs, .imgWin, .image, .copyA, .copyB, .sec, .evj, .power, .ports, .cqe, .mat, .lge, .ident, .nss, .idx, .vpl] s.dev s'.dev :=
  State.runIf_keeps (Dev.imgChecked_keeps.step rfl .refl) h

theorem execImgStoreDone_keeps {s s' : State} (h : execImgStoreDone s = .next s') :
    Keeps [.regs, .imgWin, .copyA, .copyB, .evj] s.dev s'.dev :=
  State.actIf_keeps (Dev.imgStored_keeps.step rfl .refl) h

theorem execLinkSignalDetect_keeps {n : Nat} {s s' : State} (h : execLinkSignalDetect n s = .next s') :
    Keeps [.ports, .lanes] s.dev s'.dev :=
  State.act_keeps (Dev.signalDetect_keeps.step rfl .refl) h

theorem execPolarityTimer_keeps {lane : Nat} {s s' : State} (h : execPolarityTimer lane s = .next s') :
    Keeps [.regs, .ports, .lanes] s.dev s'.dev :=
  State.act_keeps (Dev.polarityTimer_keeps.step rfl .refl) h

theorem execPolarityErrorBlocks_keeps {lane : Nat} {s s' : State} (h : execPolarityErrorBlocks lane s = .next s') :
    Keeps [.regs, .ports, .lanes] s.dev s'.dev :=
  State.act_keeps (Dev.errorBlocks_keeps.step rfl .refl) h

theorem execLaneLock_keeps {n : Nat} {fec : List Nat} {s s' : State} (h : execLaneLock n fec s = .next s') :
    Keeps [.ports, .lanes] s.dev s'.dev :=
  State.act_keeps (Dev.laneLock_keeps.step rfl .refl) h

theorem execLinkHoldDone_keeps {n : Nat} {s s' : State} (h : execLinkHoldDone n s = .next s') :
    Keeps [.regs, .evj, .ports] s.dev s'.dev :=
  State.act_keeps (Dev.holdDone_keeps.step rfl .refl) h

theorem execLinkFault_keeps {n : Nat} {cause : Nat} {s s' : State} (h : execLinkFault n cause s = .next s') :
    Keeps [.regs, .evj, .ports, .lanes] s.dev s'.dev :=
  State.act_keeps (Dev.linkFault_keeps.step rfl .refl) h

theorem execLinkSignalLoss_keeps {lane : Nat} {s s' : State} (h : execLinkSignalLoss lane s = .next s') :
    Keeps [.regs, .evj, .ports, .lanes] s.dev s'.dev :=
  State.act_keeps (Dev.signalLoss_keeps.step rfl .refl) h

theorem execRemoteFaultRx_keeps {n : Nat} {s s' : State} (h : execRemoteFaultRx n s = .next s') :
    Keeps [.regs, .ports] s.dev s'.dev :=
  State.act_keeps (Dev.remoteFault_keeps.step rfl .refl) h

theorem execRemoteFaultClear_keeps {n : Nat} {s s' : State} (h : execRemoteFaultClear n s = .next s') :
    Keeps [.regs, .ports] s.dev s'.dev :=
  State.act_keeps (Dev.remoteClear_keeps.step rfl .refl) h

theorem execRxFrame_keeps {f : Frame} {s s' : State} (h : execRxFrame f s = .next s') :
    Keeps [.free, .pins, .regs, .rates, .sec, .evj, .ports, .poolLow, .belowXoff, .rx, .rxNext, .cellsHeld, .sess, .epochs, .mat, .lge] s.dev s'.dev :=
  State.act_keeps (Dev.rxFrame_keeps.step rfl .refl) h

theorem execXoffRepeat_keeps {n : Nat} {s s' : State} (h : execXoffRepeat n s = .next s') :
    Keeps [.ports] s.dev s'.dev :=
  State.act_keeps (Dev.xoffRepeat_keeps.step rfl .refl) h

theorem execPauseRx_keeps {f : Frame} {s s' : State} (h : execPauseRx f s = .next s') :
    Keeps [.free, .pins, .regs, .rates, .sec, .evj, .ports, .poolLow, .belowXoff, .rx, .rxNext, .cellsHeld, .sess, .epochs, .mat, .lge] s.dev s'.dev :=
  State.actIf_keeps (Dev.rxFrame_keeps.step rfl .refl) h

theorem execPfcRx_keeps {f : Frame} {s s' : State} (h : execPfcRx f s = .next s') :
    Keeps [.free, .pins, .regs, .rates, .sec, .evj, .ports, .poolLow, .belowXoff, .rx, .rxNext, .cellsHeld, .sess, .epochs, .mat, .lge] s.dev s'.dev :=
  State.actIf_keeps (Dev.rxFrame_keeps.step rfl .refl) h

theorem execPauseExpiry_keeps {n : Nat} {prio : Option Nat} {s s' : State} (h : execPauseExpiry n prio s = .next s') :
    Keeps [.regs, .ports] s.dev s'.dev :=
  State.act_keeps (Dev.pauseExpiry_keeps.step rfl .refl) h

theorem execTxFrameStart_keeps {n : Nat} {s s' : State} (h : execTxFrameStart n s = .next s') :
    Keeps [.regs, .sec, .evj, .ports] s.dev s'.dev :=
  State.act_keeps (Dev.txStart_keeps.step rfl .refl) h

theorem execTxUnderrun_keeps {n : Nat} {sent : Nat} {s s' : State} (h : execTxUnderrun n sent s = .next s') :
    Keeps [.regs, .evj, .ports] s.dev s'.dev :=
  State.act_keeps (Dev.txUnderrun_keeps.step rfl .refl) h

theorem execCtRestore_keeps {i : Iface} {s s' : State} (h : execCtRestore i s = .next s') :
    Keeps [.free, .pins, .life, .regs, .latches, .rates, .imgWin, .sec, .evj, .power, .sup, .ports, .lanes, .belowXoff, .rx, .cellsHeld, .sess, .epochs, .cqe, .mat, .rod, .lge, .keyStore, .nss, .idx, .vpl, .fmm, .cap, .fw] s.dev s'.dev :=
  State.run_keeps (Dev.regSet_keeps.step rfl .refl) h

theorem execStatClear_keeps {i : Iface} {n : Nat} {s s' : State} (h : execStatClear i n s = .next s') :
    Keeps [.free, .pins, .life, .regs, .latches, .rates, .imgWin, .sec, .evj, .power, .sup, .ports, .lanes, .belowXoff, .rx, .cellsHeld, .sess, .epochs, .cqe, .mat, .rod, .lge, .keyStore, .nss, .idx, .vpl, .fmm, .cap, .fw] s.dev s'.dev :=
  State.runIf_keeps (Dev.regAct_keeps.step rfl .refl) h

theorem execOpenPkt_keeps {pid : Nat} {s s' : State} (h : execOpenPkt pid s = .next s') :
    Keeps [.free, .regs, .rates, .evj, .ports, .belowXoff, .rx, .cellsHeld, .sess, .epochs, .mat] s.dev s'.dev := by
  refine State.act_keeps ?_ h
  refine Dev.onPacket_keeps rfl (fun x1 x2 => ?_) ?_
  · exact Dev.openPkt_keeps.step rfl .refl
  · exact .refl

theorem execProofPkt_keeps {pid : Nat} {s s' : State} (h : execProofPkt pid s = .next s') :
    Keeps [.regs, .latches, .imgWin, .evj, .ports, .belowXoff, .rx, .cellsHeld, .sess, .cqe, .mat, .lge, .vpl, .fmm] s.dev s'.dev := by
  refine State.act_keeps ?_ h
  refine Dev.onSession_keeps rfl (fun x1 x2 x3 => ?_) ?_
  · exact Dev.proofPkt_keeps.step rfl .refl
  · exact .refl

theorem execOpenTicket_keeps {pid : Nat} {s s' : State} (h : execOpenTicket pid s = .next s') :
    Keeps [.free, .regs, .rates, .evj, .ports, .belowXoff, .rx, .cellsHeld, .sess, .epochs, .mat, .lge] s.dev s'.dev := by
  refine State.act_keeps ?_ h
  refine Dev.onPacket_keeps rfl (fun x1 x2 => ?_) ?_
  · exact Dev.ticketPkt_keeps.step rfl .refl
  · exact .refl

theorem execOpenTimerExpiry_keeps {sid : Nat} {s s' : State} (h : execOpenTimerExpiry sid s = .next s') :
    Keeps [.regs, .latches, .imgWin, .evj, .ports, .belowXoff, .cellsHeld, .sess, .cqe, .mat, .lge, .vpl, .fmm] s.dev s'.dev :=
  State.actIf_keeps (Dev.openExpired_keeps.step rfl .refl) h

theorem execDataPkt_keeps {pid : Nat} {s s' : State} (h : execDataPkt pid s = .next s') :
    Keeps [.free, .regs, .latches, .rates, .imgWin, .sec, .evj, .ports, .belowXoff, .rx, .cellsHeld, .sess, .epochs, .cqe, .mat, .lge, .vpl, .fmm, .cap] s.dev s'.dev := by
  refine State.act_keeps ?_ h
  refine Dev.onSession_keeps rfl (fun x1 x2 x3 => ?_) ?_
  · exact Dev.seqPkt_keeps.step rfl .refl
  · exact .refl

theorem execAckPkt_keeps {pid : Nat} {s s' : State} (h : execAckPkt pid s = .next s') :
    Keeps [.regs, .latches, .imgWin, .evj, .ports, .belowXoff, .rx, .cellsHeld, .sess, .cqe, .mat, .lge, .vpl, .fmm] s.dev s'.dev := by
  refine State.act_keeps ?_ h
  refine Dev.onSession_keeps rfl (fun x1 x2 x3 => ?_) ?_
  · exact Dev.ackPkt_keeps.step rfl .refl
  · exact .refl

theorem execKeepalivePkt_keeps {pid : Nat} {s s' : State} (h : execKeepalivePkt pid s = .next s') :
    Keeps [.regs, .latches, .imgWin, .evj, .ports, .belowXoff, .rx, .cellsHeld, .sess, .cqe, .mat, .lge, .vpl, .fmm] s.dev s'.dev := by
  refine State.act_keeps ?_ h
  refine Dev.onSession_keeps rfl (fun x1 x2 x3 => ?_) ?_
  · exact Dev.ackPkt_keeps.step rfl .refl
  · exact .refl

theorem execClosePkt_keeps {pid : Nat} {s s' : State} (h : execClosePkt pid s = .next s') :
    Keeps [.free, .regs, .latches, .rates, .imgWin, .sec, .evj, .ports, .belowXoff, .rx, .cellsHeld, .sess, .epochs, .cqe, .mat, .lge, .vpl, .fmm, .cap] s.dev s'.dev := by
  refine State.act_keeps ?_ h
  refine Dev.onSession_keeps rfl (fun x1 x2 x3 => ?_) ?_
  · exact Dev.seqPkt_keeps.step rfl .refl
  · exact .refl

theorem execRetxTimeout_keeps {sid : Nat} {s s' : State} (h : execRetxTimeout sid s = .next s') :
    Keeps [.regs, .latches, .imgWin, .evj, .ports, .belowXoff, .cellsHeld, .sess, .cqe, .mat, .lge, .vpl, .fmm] s.dev s'.dev :=
  State.actIf_keeps (Dev.retxTimeout_keeps.step rfl .refl) h

theorem execKeepaliveSend_keeps {sid : Nat} {s s' : State} (h : execKeepaliveSend sid s = .next s') :
    Keeps [.regs, .ports, .sess] s.dev s'.dev :=
  State.actIf_keeps (Dev.kaSend_keeps.step rfl .refl) h

theorem execKeepaliveLoss_keeps {sid : Nat} {s s' : State} (h : execKeepaliveLoss sid s = .next s') :
    Keeps [.regs, .latches, .imgWin, .evj, .ports, .belowXoff, .cellsHeld, .sess, .cqe, .mat, .lge, .vpl, .fmm] s.dev s'.dev :=
  State.actIf_keeps (Dev.kaLoss_keeps.step rfl .refl) h

theorem execSessKill_keeps {i : Iface} {sid : Nat} {s s' : State} (h : execSessKill i sid s = .next s') :
    Keeps [.free, .pins, .life, .regs, .latches, .rates, .imgWin, .sec, .evj, .power, .sup, .ports, .lanes, .belowXoff, .rx, .cellsHeld, .sess, .epochs, .cqe, .mat, .rod, .lge, .keyStore, .nss, .idx, .vpl, .fmm, .cap, .fw] s.dev s'.dev :=
  State.run_keeps (Dev.regAct_keeps.step rfl .refl) h

theorem execArbWindow_keeps {s s' : State} (h : execArbWindow s = .next s') :
    Keeps [.cqe] s.dev s'.dev :=
  State.act_keeps (Dev.arbWindow_keeps.step rfl .refl) h

theorem execDispatch_keeps {s s' : State} (h : execDispatch s = .next s') :
    Keeps [.free, .regs, .ports, .belowXoff, .cellsHeld, .sess, .epochs, .cqe, .mat, .rod, .lge] s.dev s'.dev := by
  refine State.act_keeps ?_ h
  exact Dev.leaguePump_keeps.step rfl (Dev.dispatch_keeps.step rfl .refl)

theorem execCommandTimeout_keeps {n : Nat} {s s' : State} (h : execCommandTimeout n s = .next s') :
    Keeps [.regs, .ports, .belowXoff, .cellsHeld, .sess, .cqe] s.dev s'.dev :=
  State.actIf_keeps (Dev.commandTimeout_keeps.step rfl .refl) h

theorem execStagingComplete_keeps {ctx : Nat} {s s' : State} (h : execStagingComplete ctx s = .next s') :
    Keeps [.free, .regs, .rates, .sec, .evj, .ports, .sess, .epochs, .cqe, .mat, .lge, .nss, .idx, .vpl, .fmm, .cap] s.dev s'.dev :=
  State.act_keeps (Dev.stagingComplete_keeps.step rfl .refl) h

theorem execGet_keeps {ctx : Nat} {hdrs : List (Nat × Bytes)} {s s' : State} (h : execGet ctx hdrs s = .next s') :
    Keeps [.regs, .rates, .evj, .ports, .sess, .cqe, .vpl, .fmm] s.dev s'.dev :=
  State.act_keeps (Dev.runGet_keeps.step rfl .refl) h

theorem execPut_keeps {ctx : Nat} {s s' : State} (h : execPut ctx s = .next s') :
    Keeps [.free, .regs, .sec, .evj, .ports, .sess, .cqe, .idx, .vpl, .fmm, .cap] s.dev s'.dev :=
  State.act_keeps (Dev.runPut_keeps.step rfl .refl) h

theorem execDelete_keeps {ctx : Nat} {s s' : State} (h : execDelete ctx s = .next s') :
    Keeps [.free, .regs, .rates, .sec, .evj, .ports, .sess, .cqe, .idx, .vpl, .fmm, .cap] s.dev s'.dev :=
  State.act_keeps (Dev.runDelete_keeps.step rfl .refl) h

theorem execExistsKey_keeps {ctx : Nat} {hdrs : List (Nat × Bytes)} {s s' : State} (h : execExistsKey ctx hdrs s = .next s') :
    Keeps [.regs, .rates, .evj, .ports, .sess, .cqe, .fmm] s.dev s'.dev :=
  State.act_keeps (Dev.runExists_keeps.step rfl .refl) h

theorem execCasPut_keeps {ctx : Nat} {s s' : State} (h : execCasPut ctx s = .next s') :
    Keeps [.free, .regs, .rates, .sec, .evj, .ports, .sess, .cqe, .idx, .vpl, .fmm, .cap] s.dev s'.dev :=
  State.act_keeps (Dev.runCas_keeps.step rfl .refl) h

theorem execGetRange_keeps {ctx : Nat} {hdrs : List (Nat × Bytes)} {s s' : State} (h : execGetRange ctx hdrs s = .next s') :
    Keeps [.regs, .rates, .evj, .ports, .sess, .cqe, .vpl, .fmm] s.dev s'.dev :=
  State.act_keeps (Dev.runGetRange_keeps.step rfl .refl) h

theorem execIterate_keeps {ctx : Nat} {hdrs : List (Nat × Bytes)} {s s' : State} (h : execIterate ctx hdrs s = .next s') :
    Keeps [.regs, .rates, .evj, .ports, .sess, .cqe] s.dev s'.dev :=
  State.act_keeps (Dev.runIterate_keeps.step rfl .refl) h

theorem execExtentWrite_keeps {ctx : Nat} {s s' : State} (h : execExtentWrite ctx s = .next s') :
    Keeps [.free, .regs, .sec, .evj, .ports, .sess, .cqe, .idx, .vpl, .fmm, .cap] s.dev s'.dev :=
  State.act_keeps (Dev.runExtentWrite_keeps.step rfl .refl) h

theorem execExtentRead_keeps {ctx : Nat} {hdrs : List (Nat × Bytes)} {s s' : State} (h : execExtentRead ctx hdrs s = .next s') :
    Keeps [.regs, .rates, .evj, .ports, .sess, .cqe, .vpl, .fmm] s.dev s'.dev :=
  State.act_keeps (Dev.runExtentRead_keeps.step rfl .refl) h

theorem execDiscard_keeps {ctx : Nat} {s s' : State} (h : execDiscard ctx s = .next s') :
    Keeps [.free, .regs, .rates, .sec, .evj, .ports, .sess, .cqe, .idx, .vpl, .fmm, .cap] s.dev s'.dev :=
  State.act_keeps (Dev.runDiscard_keeps.step rfl .refl) h

theorem execStreamAppend_keeps {ctx : Nat} {s s' : State} (h : execStreamAppend ctx s = .next s') :
    Keeps [.free, .regs, .sec, .evj, .ports, .sess, .cqe, .idx, .vpl, .fmm, .cap] s.dev s'.dev :=
  State.act_keeps (Dev.runAppend_keeps.step rfl .refl) h

theorem execStreamScan_keeps {ctx : Nat} {hdrs : List (Nat × Bytes)} {s s' : State} (h : execStreamScan ctx s hdrs = .next s') :
    Keeps [.regs, .rates, .evj, .ports, .sess, .cqe, .vpl, .fmm] s.dev s'.dev :=
  State.act_keeps (Dev.runScan_keeps.step rfl .refl) h

theorem execFathomPin_keeps {ctx : Nat} {s s' : State} (h : execFathomPin ctx s = .next s') :
    Keeps [.regs, .evj, .ports, .sess, .cqe, .fmm, .cap] s.dev s'.dev :=
  State.act_keeps (Dev.runPin_keeps.step rfl .refl) h

theorem execFathomRelease_keeps {ctx : Nat} {s s' : State} (h : execFathomRelease ctx s = .next s') :
    Keeps [.regs, .ports, .sess, .cqe, .cap] s.dev s'.dev :=
  State.act_keeps (Dev.runRelease_keeps.step rfl .refl) h

theorem execChainAppend_keeps {ctx : Nat} {s s' : State} (h : execChainAppend ctx s = .next s') :
    Keeps [.free, .regs, .sec, .evj, .ports, .sess, .cqe, .idx, .vpl, .fmm, .cap] s.dev s'.dev :=
  State.act_keeps (Dev.runChainAppend_keeps.step rfl .refl) h

theorem execChainRead_keeps {ctx : Nat} {hdrs : List (Nat × Bytes)} {s s' : State} (h : execChainRead ctx s hdrs = .next s') :
    Keeps [.regs, .rates, .evj, .ports, .sess, .cqe, .vpl, .fmm] s.dev s'.dev :=
  State.act_keeps (Dev.runChainRead_keeps.step rfl .refl) h

theorem execChainSeal_keeps {ctx : Nat} {s s' : State} (h : execChainSeal ctx s = .next s') :
    Keeps [.free, .regs, .sec, .evj, .ports, .sess, .cqe, .vpl, .fmm, .cap] s.dev s'.dev :=
  State.act_keeps (Dev.runChainSeal_keeps.step rfl .refl) h

theorem execChainExpire_keeps {ctx : Nat} {s s' : State} (h : execChainExpire ctx s = .next s') :
    Keeps [.free, .regs, .sec, .evj, .ports, .sess, .cqe, .vpl, .fmm, .cap] s.dev s'.dev :=
  State.act_keeps (Dev.runChainExpire_keeps.step rfl .refl) h

theorem execQuire_keeps {ctx : Nat} {s s' : State} (h : execQuire ctx s = .next s') :
    Keeps [.regs, .evj, .ports, .sess, .cqe, .idx, .vpl, .fmm] s.dev s'.dev :=
  State.act_keeps (Dev.runQuire_keeps.step rfl .refl) h

theorem execFlush_keeps {ctx : Nat} {s s' : State} (h : execFlush ctx s = .next s') :
    Keeps [.free, .regs, .ports, .sess, .epochs, .cqe, .mat, .lge] s.dev s'.dev := by
  refine State.act_keeps ?_ h
  exact Dev.leaguePump_keeps.step rfl (Dev.runFlush_keeps.step rfl .refl)

theorem execNsCreate_keeps {ctx : Nat} {s s' : State} (h : execNsCreate ctx s = .next s') :
    Keeps [.regs, .evj, .ports, .sess, .cqe, .vpl] s.dev s'.dev :=
  State.act_keeps (Dev.runNsCreate_keeps.step rfl .refl) h

theorem execNsDelete_keeps {ctx : Nat} {s s' : State} (h : execNsDelete ctx s = .next s') :
    Keeps [.regs, .ports, .sess, .cqe] s.dev s'.dev :=
  State.act_keeps (Dev.runNsDelete_keeps.step rfl .refl) h

theorem execNsQuery_keeps {ctx : Nat} {s s' : State} (h : execNsQuery ctx s = .next s') :
    Keeps [.regs, .ports, .sess, .cqe] s.dev s'.dev :=
  State.act_keeps (Dev.runNsQuery_keeps.step rfl .refl) h

theorem execKeyslotLoad_keeps {ctx : Nat} {s s' : State} (h : execKeyslotLoad ctx s = .next s') :
    Keeps [.regs, .sec, .ports, .sess, .cqe] s.dev s'.dev := by
  refine State.run_keeps ?_ h
  dsimp only
  exact Dev.runKeyLoad_keeps.step rfl .refl

theorem execKeystoreCommit_keeps {s s' : State} (h : execKeystoreCommit s = .next s') :
    Keeps [.regs, .sec, .evj, .ports, .sess, .cqe, .keyStore] s.dev s'.dev :=
  State.runIf_keeps (Dev.keystoreCommit_keeps.step rfl .refl) h

theorem execKeyslotErase_keeps {ctx : Nat} {s s' : State} (h : execKeyslotErase ctx s = .next s') :
    Keeps [.regs, .latches, .imgWin, .sec, .evj, .ports, .belowXoff, .cellsHeld, .sess, .cqe, .mat, .lge, .vpl, .fmm, .cap] s.dev s'.dev :=
  State.act_keeps (Dev.runKeyErase_keeps.step rfl .refl) h

theorem execFwStage_keeps {ctx : Nat} {s s' : State} (h : execFwStage ctx s = .next s') :
    Keeps [.regs, .evj, .ports, .sess, .cqe, .fw] s.dev s'.dev := by
  refine State.run_keeps ?_ h
  dsimp only
  exact Dev.runFwStage_keeps.step rfl .refl

theorem execFwStageWriteDone_keeps {ok : Bool} {s s' : State} (h : execFwStageWriteDone ok s = .next s') :
    Keeps [.regs, .evj, .ports, .sess, .cqe, .fw] s.dev s'.dev :=
  State.actIf_keeps (Dev.stageDone_keeps.step rfl .refl) h

theorem execFwActivate_keeps {ctx : Nat} {s s' : State} (h : execFwActivate ctx s = .next s') :
    Keeps [.regs, .ports, .sess, .cqe, .fw] s.dev s'.dev := by
  refine State.run_keeps ?_ h
  dsimp only
  exact Dev.runFwActivate_keeps.step rfl .refl

theorem execFwReady_keeps {s s' : State} (h : execFwReady s = .next s') :
    Keeps [.regs, .evj, .ports, .sess, .cqe, .fw] s.dev s'.dev :=
  State.act_keeps (Dev.fwReady_keeps.step rfl .refl) h

theorem execFwReadyTimeout_keeps {s s' : State} (h : execFwReadyTimeout s = .next s') :
    Keeps [.regs, .evj, .ports, .sess, .cqe, .fw] s.dev s'.dev :=
  State.act_keeps (Dev.fwReadyTimeout_keeps.step rfl .refl) h

theorem execPowerSet_keeps {ctx : Nat} {s s' : State} (h : execPowerSet ctx s = .next s') :
    Keeps [.free, .life, .regs, .evj, .power, .ports, .lanes, .sess, .epochs, .cqe, .mat, .rod, .lge, .idx, .vpl, .fmm, .fw] s.dev s'.dev :=
  State.act_keeps (Dev.runPowerSet_keeps.step rfl .refl) h

theorem execHealthRead_keeps {ctx : Nat} {s s' : State} (h : execHealthRead ctx s = .next s') :
    Keeps [.regs, .ports, .sess, .cqe] s.dev s'.dev :=
  State.act_keeps (Dev.runHealth_keeps.step rfl .refl) h

theorem execJournalRead_keeps {ctx : Nat} {bad : List Nat} {s s' : State} (h : execJournalRead ctx s bad = .next s') :
    Keeps [.regs, .evj, .ports, .sess, .cqe] s.dev s'.dev :=
  State.act_keeps (Dev.runJournalRead_keeps.step rfl (Dev.findBad_keeps.step rfl .refl)) h

theorem execRegRead_keeps {ctx : Nat} {s s' : State} (h : execRegRead ctx s = .next s') :
    Keeps [.life, .regs, .latches, .readData, .sup, .ports, .lanes, .poolLow, .sess, .cqe, .cap] s.dev s'.dev := by
  refine State.run_keeps ?_ h
  dsimp only
  exact Dev.runRegRead_keeps.step rfl .refl

theorem execRegWrite_keeps {ctx : Nat} {s s' : State} (h : execRegWrite ctx s = .next s') :
    Keeps [.free, .pins, .life, .regs, .latches, .rates, .imgWin, .sec, .evj, .power, .sup, .ports, .lanes, .belowXoff, .rx, .cellsHeld, .sess, .epochs, .cqe, .mat, .rod, .lge, .keyStore, .nss, .idx, .vpl, .fmm, .cap, .fw] s.dev s'.dev :=
  State.run_keeps (Dev.runRegWrite_keeps.step rfl .refl) h

theorem execLgJoin_keeps {ctx : Nat} {s s' : State} (h : execLgJoin ctx s = .next s') :
    Keeps [.free, .regs, .evj, .ports, .sess, .epochs, .cqe, .mat, .lge] s.dev s'.dev := by
  refine State.act_keeps ?_ h
  refine Dev.onRequest_keeps (fun x1 x2 x3 => ?_) ?_
  · exact Dev.join_keeps.step rfl .refl
  · exact .refl

theorem execLgKeepalive_keeps {ctx : Nat} {s s' : State} (h : execLgKeepalive ctx s = .next s') :
    Keeps [.regs, .ports, .sess, .cqe, .lge] s.dev s'.dev := by
  refine State.act_keeps ?_ h
  refine Dev.onRequest_keeps (fun x1 x2 x3 => ?_) ?_
  · exact Dev.keepalive_keeps.step rfl .refl
  · exact .refl

theorem execLgDirSet_keeps {ctx : Nat} {s s' : State} (h : execLgDirSet ctx s = .next s') :
    Keeps [.regs, .ports, .sess, .cqe, .mat, .lge] s.dev s'.dev := by
  refine State.act_keeps ?_ h
  refine Dev.onRequest_keeps (fun x1 x2 x3 => ?_) ?_
  · exact Dev.dirSet_keeps.step rfl .refl
  · exact .refl

theorem execLgFence_keeps {ctx : Nat} {s s' : State} (h : execLgFence ctx s = .next s') :
    Keeps [.regs, .latches, .imgWin, .evj, .ports, .belowXoff, .cellsHeld, .sess, .cqe, .mat, .lge, .vpl, .fmm] s.dev s'.dev := by
  refine State.act_keeps ?_ h
  refine Dev.onRequest_keeps (fun x1 x2 x3 => ?_) ?_
  · exact Dev.fence_keeps.step rfl .refl
  · exact .refl

theorem execLgReplicate_keeps {pid : Nat} {s s' : State} (h : execLgReplicate pid s = .next s') :
    Keeps [.free, .regs, .latches, .rates, .imgWin, .sec, .evj, .ports, .belowXoff, .rx, .cellsHeld, .sess, .epochs, .cqe, .mat, .lge, .vpl, .fmm, .cap] s.dev s'.dev :=
  State.act_keeps (Dev.onWrapped_keeps.step rfl .refl) h

theorem execLgRelay_keeps {pid : Nat} {s s' : State} (h : execLgRelay pid s = .next s') :
    Keeps [.free, .regs, .latches, .rates, .imgWin, .sec, .evj, .ports, .belowXoff, .rx, .cellsHeld, .sess, .epochs, .cqe, .mat, .lge, .vpl, .fmm, .cap] s.dev s'.dev :=
  State.act_keeps (Dev.onWrapped_keeps.step rfl .refl) h

theorem execLgLeave_keeps {ctx : Nat} {s s' : State} (h : execLgLeave ctx s = .next s') :
    Keeps [.regs, .latches, .imgWin, .evj, .ports, .belowXoff, .cellsHeld, .sess, .cqe, .mat, .lge, .vpl, .fmm] s.dev s'.dev := by
  refine State.act_keeps ?_ h
  refine Dev.onRequest_keeps (fun x1 x2 x3 => ?_) ?_
  · exact Dev.leave_keeps.step rfl .refl
  · exact .refl

theorem execRelayResponse_keeps {sid : Nat} {tag : Nat} {s s' : State} (h : execRelayResponse sid tag s = .next s') :
    Keeps [.free, .regs, .latches, .imgWin, .evj, .ports, .belowXoff, .cellsHeld, .sess, .epochs, .cqe, .mat, .lge, .vpl, .fmm] s.dev s'.dev :=
  State.act_keeps (Dev.relayAnswer_keeps.step rfl .refl) h

theorem execReplicateResponse_keeps {sid : Nat} {tag : Nat} {s s' : State} (h : execReplicateResponse sid tag s = .next s') :
    Keeps [.free, .regs, .evj, .ports, .sess, .epochs, .cqe, .mat, .lge, .fmm] s.dev s'.dev :=
  State.act_keeps (Dev.replicaAnswer_keeps.step rfl .refl) h

theorem execLgJoinRetry_keeps {s s' : State} (h : execLgJoinRetry s = .next s') :
    Keeps [.free, .regs, .latches, .evj, .ports, .belowXoff, .cellsHeld, .sess, .epochs, .cqe, .mat, .lge] s.dev s'.dev :=
  State.actIf_keeps (Dev.joinRetry_keeps.step rfl .refl) h

theorem execLgKeepaliveSend_keeps {s s' : State} (h : execLgKeepaliveSend s = .next s') :
    Keeps [.regs, .ports, .sess, .lge] s.dev s'.dev :=
  State.actIf_keeps (Dev.keepaliveSend_keeps.step rfl .refl) h

theorem execLgKeepaliveMiss_keeps {id : Nat} {s s' : State} (h : execLgKeepaliveMiss id s = .next s') :
    Keeps [.regs, .latches, .imgWin, .evj, .ports, .belowXoff, .cellsHeld, .sess, .cqe, .mat, .lge, .vpl, .fmm] s.dev s'.dev :=
  State.actIf_keeps (Dev.keepaliveMiss_keeps.step rfl .refl) h

theorem execDirCommit_keeps {i : Iface} {pos : Nat} {s s' : State} (h : execDirCommit i pos s = .next s') :
    Keeps [.free, .pins, .life, .regs, .latches, .rates, .imgWin, .sec, .evj, .power, .sup, .ports, .lanes, .belowXoff, .rx, .cellsHeld, .sess, .epochs, .cqe, .mat, .rod, .lge, .keyStore, .nss, .idx, .vpl, .fmm, .cap, .fw] s.dev s'.dev :=
  State.run_keeps (Dev.regAct_keeps.step rfl .refl) h

theorem execDirClear_keeps {i : Iface} {pos : Nat} {s s' : State} (h : execDirClear i pos s = .next s') :
    Keeps [.free, .pins, .life, .regs, .latches, .rates, .imgWin, .sec, .evj, .power, .sup, .ports, .lanes, .belowXoff, .rx, .cellsHeld, .sess, .epochs, .cqe, .mat, .rod, .lge, .keyStore, .nss, .idx, .vpl, .fmm, .cap, .fw] s.dev s'.dev :=
  State.run_keeps (Dev.regAct_keeps.step rfl .refl) h

theorem execDirRestore_keeps {a : Nat} {s s' : State} (h : execDirRestore a s = .next s') :
    Keeps [.regs, .evj, .mat, .lge] s.dev s'.dev :=
  State.actIf_keeps (Dev.dirRestore_keeps.step rfl .refl) h

theorem execMatEntWrite_keeps {i : Iface} {s s' : State} (h : execMatEntWrite i s = .next s') :
    Keeps [.free, .pins, .life, .regs, .latches, .rates, .imgWin, .sec, .evj, .power, .sup, .ports, .lanes, .belowXoff, .rx, .cellsHeld, .sess, .epochs, .cqe, .mat, .rod, .lge, .keyStore, .nss, .idx, .vpl, .fmm, .cap, .fw] s.dev s'.dev :=
  State.run_keeps (Dev.regAct_keeps.step rfl .refl) h

theorem execMatEntRead_keeps {i : Iface} {s s' : State} (h : execMatEntRead i s = .next s') :
    Keeps [.free, .pins, .life, .regs, .latches, .rates, .imgWin, .sec, .evj, .power, .sup, .ports, .lanes, .belowXoff, .rx, .cellsHeld, .sess, .epochs, .cqe, .mat, .rod, .lge, .keyStore, .nss, .idx, .vpl, .fmm, .cap, .fw] s.dev s'.dev :=
  State.run_keeps (Dev.regAct_keeps.step rfl .refl) h

theorem execMatEntClear_keeps {i : Iface} {s s' : State} (h : execMatEntClear i s = .next s') :
    Keeps [.free, .pins, .life, .regs, .latches, .rates, .imgWin, .sec, .evj, .power, .sup, .ports, .lanes, .belowXoff, .rx, .cellsHeld, .sess, .epochs, .cqe, .mat, .rod, .lge, .keyStore, .nss, .idx, .vpl, .fmm, .cap, .fw] s.dev s'.dev :=
  State.run_keeps (Dev.regAct_keeps.step rfl .refl) h

theorem execMatSearch_keeps {i : Iface} {profile : Nat} {s s' : State} (h : execMatSearch i profile s = .next s') :
    Keeps [.free, .pins, .life, .regs, .latches, .rates, .imgWin, .sec, .evj, .power, .sup, .ports, .lanes, .belowXoff, .rx, .cellsHeld, .sess, .epochs, .cqe, .mat, .rod, .lge, .keyStore, .nss, .idx, .vpl, .fmm, .cap, .fw] s.dev s'.dev :=
  State.run_keeps (Dev.regAct_keeps.step rfl .refl) h

theorem execScrubStep_keeps {r : ScrubRead} {s s' : State} (h : execScrubStep r s = .next s') :
    Keeps [.regs, .latches, .rates, .imgWin, .evj, .ports, .belowXoff, .cellsHeld, .sess, .cqe, .mat, .lge, .vpl, .fmm] s.dev s'.dev :=
  State.actIf_keeps (Dev.scrubStep_keeps.step rfl .refl) h

theorem execRodSlot_keeps {word : Option Nat} {s s' : State} (h : execRodSlot word s = .next s') :
    Keeps [.free, .regs, .ports, .sess, .epochs, .cqe, .mat, .rod, .lge] s.dev s'.dev :=
  State.actIf_keeps (Dev.rodSlot_keeps.step rfl .refl) h

theorem execRodToken_keeps {token : Nat} {s s' : State} (h : execRodToken token s = .next s') :
    Keeps [.free, .regs, .ports, .sess, .epochs, .cqe, .mat, .rod, .lge] s.dev s'.dev := by
  refine State.actIf_keeps ?_ h
  exact Dev.leaguePump_keeps.step rfl (Dev.rodToken_keeps.step rfl .refl)

theorem execTokenLost_keeps {s s' : State} (h : execTokenLost s = .next s') :
    Keeps [.free, .regs, .rates, .evj, .ports, .sess, .epochs, .cqe, .mat, .rod, .lge] s.dev s'.dev := by
  refine State.actIf_keeps ?_ h
  exact Dev.leaguePump_keeps.step rfl (Dev.tokenLost_keeps.step rfl .refl)

theorem execRodFull_keeps {low : Bool} {s s' : State} (h : execRodFull low s = .next s') :
    Keeps [.rod] s.dev s'.dev :=
  State.actIf_keeps (Dev.modRod_keeps.step rfl .refl) h

theorem execRodAliveUp_keeps {s s' : State} (h : execRodAliveUp s = .next s') :
    Keeps [.regs, .rod] s.dev s'.dev :=
  State.actIf_keeps (Dev.aliveUp_keeps.step rfl .refl) h

theorem execRodAliveLow_keeps {s s' : State} (h : execRodAliveLow s = .next s') :
    Keeps [.free, .regs, .evj, .ports, .sess, .epochs, .cqe, .mat, .rod, .lge] s.dev s'.dev := by
  refine State.actIf_keeps ?_ h
  exact Dev.leaguePump_keeps.step rfl (Dev.aliveLow_keeps.step rfl .refl)

theorem execRodClkLost_keeps {s s' : State} (h : execRodClkLost s = .next s') :
    Keeps [.free, .regs, .evj, .ports, .sess, .epochs, .cqe, .mat, .rod, .lge] s.dev s'.dev :=
  State.actIf_keeps (Dev.rodClkLost_keeps.step rfl .refl) h

theorem execRodCheck_keeps {i : Iface} {s s' : State} (h : execRodCheck i s = .next s') :
    Keeps [.free, .pins, .life, .regs, .latches, .rates, .imgWin, .sec, .evj, .power, .sup, .ports, .lanes, .belowXoff, .rx, .cellsHeld, .sess, .epochs, .cqe, .mat, .rod, .lge, .keyStore, .nss, .idx, .vpl, .fmm, .cap, .fw] s.dev s'.dev :=
  State.run_keeps (Dev.regSet_keeps.step rfl .refl) h

theorem execRodCheckDone_keeps {first second third : List Nat} {back : Bool} {s s' : State}
    (h : execRodCheckDone first second third back s = .next s') :
    Keeps [.regs, .evj, .rod] s.dev s'.dev :=
  State.actIf_keeps (Dev.checkDone_keeps.step rfl .refl) h

theorem execRodCheckRetry_keeps {s s' : State} (h : execRodCheckRetry s = .next s') :
    Keeps [.regs, .rod] s.dev s'.dev :=
  State.actIf_keeps (Dev.checkRetry_keeps.step rfl .refl) h

theorem execCheckpointBegin_keeps {s s' : State} (h : execCheckpointBegin s = .next s') :
    Keeps [.regs, .evj, .idx, .fmm] s.dev s'.dev :=
  State.actIf_keeps (Dev.checkpointBegin_keeps.step rfl .refl) h

theorem execCheckpointCommit_keeps {s s' : State} (h : execCheckpointCommit s = .next s') :
    Keeps [.free, .regs, .rates, .evj, .ports, .sess, .epochs, .cqe, .mat, .lge, .nss, .idx, .vpl, .fmm, .cap] s.dev s'.dev :=
  State.actIf_keeps (Dev.checkpointCommit_keeps.step rfl .refl) h

theorem execCpForce_keeps {i : Iface} {s s' : State} (h : execCpForce i s = .next s') :
    Keeps [.free, .pins, .life, .regs, .latches, .rates, .imgWin, .sec, .evj, .power, .sup, .ports, .lanes, .belowXoff, .rx, .cellsHeld, .sess, .epochs, .cqe, .mat, .rod, .lge, .keyStore, .nss, .idx, .vpl, .fmm, .cap, .fw] s.dev s'.dev :=
  State.run_keeps (Dev.regAct_keeps.step rfl .refl) h

theorem execRescan_keeps {i : Iface} {s s' : State} (h : execRescan i s = .next s') :
    Keeps [.free, .pins, .life, .regs, .latches, .rates, .imgWin, .sec, .evj, .power, .sup, .ports, .lanes, .belowXoff, .rx, .cellsHeld, .sess, .epochs, .cqe, .mat, .rod, .lge, .keyStore, .nss, .idx, .vpl, .fmm, .cap, .fw] s.dev s'.dev :=
  State.run_keeps (Dev.regAct_keeps.step rfl .refl) h

theorem execIndexRebuildDone_keeps {pages : List (Nat × Option Bytes)} {blocks : List (Nat × Option Bytes)} {s s' : State} (h : execIndexRebuildDone pages blocks s = .next s') :
    Keeps [.regs, .evj, .idx, .fmm, .cap] s.dev s'.dev :=
  State.actIf_keeps (Dev.rebuildDone_keeps.step rfl .refl) h

theorem execPurgeDone_keeps {s s' : State} (h : execPurgeDone s = .next s') :
    Keeps [.regs, .evj, .nss, .idx, .fmm, .cap] s.dev s'.dev :=
  State.actIf_keeps (Dev.purgeDone_keeps.step rfl .refl) h

theorem execSegmentCompressed_keeps {engine : Nat} {stream : Bytes} {s s' : State} (h : execSegmentCompressed engine stream s = .next s') :
    Keeps [.regs, .evj, .ports, .sess, .cqe, .vpl, .fmm] s.dev s'.dev :=
  State.act_keeps (Dev.compressed_keeps.step rfl .refl) h

theorem execSegmentSealed_keeps {lane : Nat} {s s' : State} (h : execSegmentSealed lane s = .next s') :
    Keeps [.regs, .evj, .ports, .sess, .cqe, .vpl, .fmm] s.dev s'.dev :=
  State.act_keeps (Dev.sealed_keeps.step rfl .refl) h

theorem execSegmentChecked_keeps {ctx : Nat} {pos : Nat} {r : MediaRead} {s s' : State} (h : execSegmentChecked ctx pos r s = .next s') :
    Keeps [.regs, .rates, .evj, .ports, .sess, .cqe, .vpl, .fmm] s.dev s'.dev :=
  State.act_keeps (Dev.segmentChecked_keeps.step rfl .refl) h

theorem execNsPolicyWrite_keeps {i : Iface} {w : Nat} {s s' : State} (h : execNsPolicyWrite i w s = .next s') :
    Keeps [.free, .pins, .life, .regs, .latches, .rates, .imgWin, .sec, .evj, .power, .sup, .ports, .lanes, .belowXoff, .rx, .cellsHeld, .sess, .epochs, .cqe, .mat, .rod, .lge, .keyStore, .nss, .idx, .vpl, .fmm, .cap, .fw] s.dev s'.dev :=
  State.run_keeps (Dev.regAct_keeps.step rfl .refl) h

theorem execKloadData_keeps {w : Nat} {s s' : State} (h : execKloadData w s = .next s') :
    Keeps [.free, .pins, .life, .regs, .latches, .rates, .imgWin, .sec, .evj, .power, .sup, .ports, .lanes, .belowXoff, .rx, .cellsHeld, .sess, .epochs, .cqe, .mat, .rod, .lge, .keyStore, .nss, .idx, .vpl, .fmm, .cap, .fw] s.dev s'.dev :=
  State.run_keeps (Dev.regAct_keeps.step rfl .refl) h

theorem execKloadGo_keeps {slot : Nat} {policy : Nat} {priv : Nat} {s s' : State} (h : execKloadGo slot policy priv s = .next s') :
    Keeps [.free, .pins, .life, .regs, .latches, .rates, .imgWin, .sec, .evj, .power, .sup, .ports, .lanes, .belowXoff, .rx, .cellsHeld, .sess, .epochs, .cqe, .mat, .rod, .lge, .keyStore, .nss, .idx, .vpl, .fmm, .cap, .fw] s.dev s'.dev :=
  State.run_keeps (Dev.regAct_keeps.step rfl .refl) h

theorem execAlarm_keeps {src : Nat} {active : Nat} {s s' : State} (h : execAlarm src active s = .next s') :
    Keeps [.free, .pins, .life, .regs, .latches, .imgWin, .sec, .evj, .ports, .belowXoff, .cellsHeld, .sess, .cqe, .mat, .lge, .vpl, .fmm, .cap] s.dev s'.dev :=
  State.runIf_keeps (Dev.alarm_keeps.step rfl .refl) h

theorem execCryptoEraseDone_keeps {s s' : State} (h : execCryptoEraseDone s = .next s') :
    Keeps [.keyStore] s.dev s'.dev := by
  refine State.runIf_keeps ?_ h
  dsimp only
  exact Dev.cryptoErased_keeps.step rfl .refl

theorem execUnlock_keeps {sources : Nat} {s s' : State} (h : execUnlock sources s = .next s') :
    Keeps [.free, .pins, .life, .regs, .latches, .rates, .imgWin, .sec, .evj, .power, .sup, .ports, .lanes, .belowXoff, .rx, .cellsHeld, .sess, .epochs, .cqe, .mat, .rod, .lge, .keyStore, .nss, .idx, .vpl, .fmm, .cap, .fw] s.dev s'.dev :=
  State.run_keeps (Dev.regAct_keeps.step rfl (.set_sec rfl .refl)) h

theorem execUnlockBlockExpiry_keeps {s s' : State} (h : execUnlockBlockExpiry s = .next s') :
    Keeps [.sec] s.dev s'.dev :=
  State.act_keeps (Dev.unlockBlockEnd_keeps.step rfl .refl) h

theorem execSaInstall_keeps {i : Iface} {s s' : State} (h : execSaInstall i s = .next s') :
    Keeps [.free, .pins, .life, .regs, .latches, .rates, .imgWin, .sec, .evj, .power, .sup, .ports, .lanes, .belowXoff, .rx, .cellsHeld, .sess, .epochs, .cqe, .mat, .rod, .lge, .keyStore, .nss, .idx, .vpl, .fmm, .cap, .fw] s.dev s'.dev :=
  State.run_keeps (Dev.regSet_keeps.step rfl .refl) h

theorem execSaClear_keeps {i : Iface} {s s' : State} (h : execSaClear i s = .next s') :
    Keeps [.free, .pins, .life, .regs, .latches, .rates, .imgWin, .sec, .evj, .power, .sup, .ports, .lanes, .belowXoff, .rx, .cellsHeld, .sess, .epochs, .cqe, .mat, .rod, .lge, .keyStore, .nss, .idx, .vpl, .fmm, .cap, .fw] s.dev s'.dev :=
  State.run_keeps (Dev.regSet_keeps.step rfl .refl) h

theorem execSaActivate_keeps {i : Iface} {s s' : State} (h : execSaActivate i s = .next s') :
    Keeps [.free, .pins, .life, .regs, .latches, .rates, .imgWin, .sec, .evj, .power, .sup, .ports, .lanes, .belowXoff, .rx, .cellsHeld, .sess, .epochs, .cqe, .mat, .rod, .lge, .keyStore, .nss, .idx, .vpl, .fmm, .cap, .fw] s.dev s'.dev :=
  State.run_keeps (Dev.regSet_keeps.step rfl .refl) h

theorem execTodArm_keeps {i : Iface} {w : Nat} {s s' : State} (h : execTodArm i w s = .next s') :
    Keeps [.free, .pins, .life, .regs, .latches, .rates, .imgWin, .sec, .evj, .power, .sup, .ports, .lanes, .belowXoff, .rx, .cellsHeld, .sess, .epochs, .cqe, .mat, .rod, .lge, .keyStore, .nss, .idx, .vpl, .fmm, .cap, .fw] s.dev s'.dev :=
  State.run_keeps (Dev.regAct_keeps.step rfl .refl) h

theorem execPpsEdge_keeps {s s' : State} (h : execPpsEdge s = .next s') :
    Keeps [.regs, .sec, .evj] s.dev s'.dev :=
  State.actIf_keeps (Dev.ppsEdge_keeps.step rfl .refl) h

theorem execSrcLostSet_keeps {i : Iface} {s s' : State} (h : execSrcLostSet i s = .next s') :
    Keeps [.free, .pins, .life, .regs, .latches, .rates, .imgWin, .sec, .evj, .power, .sup, .ports, .lanes, .belowXoff, .rx, .cellsHeld, .sess, .epochs, .cqe, .mat, .rod, .lge, .keyStore, .nss, .idx, .vpl, .fmm, .cap, .fw] s.dev s'.dev :=
  State.run_keeps (Dev.regSet_keeps.step rfl .refl) h

theorem execTimeHoldover_keeps {s s' : State} (h : execTimeHoldover s = .next s') :
    Keeps [.regs, .sec, .evj] s.dev s'.dev :=
  State.actIf_keeps (Dev.holdover_keeps.step rfl .refl) h

theorem execTimeUntrusted_keeps {s s' : State} (h : execTimeUntrusted s = .next s') :
    Keeps [.regs, .sec, .evj] s.dev s'.dev :=
  State.actIf_keeps (Dev.untrust_keeps.step rfl .refl) h

theorem execTimeSave_keeps {s s' : State} (h : execTimeSave s = .next s') :
    Keeps [] s.dev s'.dev := by
  refine State.runIf_keeps ?_ h
  dsimp only
  exact .refl

theorem execPpsOutRise_keeps {s s' : State} (h : execPpsOutRise s = .next s') :
    Keeps [.pins] s.dev s'.dev :=
  State.actIf_keeps (Dev.ppsOut_keeps.step rfl .refl) h

theorem execPpsOutFall_keeps {s s' : State} (h : execPpsOutFall s = .next s') :
    Keeps [.pins] s.dev s'.dev :=
  State.actIf_keeps (Dev.ppsOut_keeps.step rfl .refl) h

theorem execGroupCommit_keeps {b : Nat} {s s' : State} (h : execGroupCommit b s = .next s') :
    Keeps [.free, .pins, .regs, .rates, .evj, .ports, .sess, .epochs, .cqe, .mat, .lge, .nss, .idx, .vpl, .fmm, .cap] s.dev s'.dev := by
  refine State.actIf_keeps ?_ h
  exact Dev.groupCommit_keeps.step rfl .refl

theorem execStagingAgeTimer_keeps {h : Nat} {s s' : State} (h : execStagingAgeTimer h s = .next s') :
    Keeps [.free, .pins, .regs, .rates, .evj, .ports, .sess, .epochs, .cqe, .mat, .lge, .nss, .idx, .vpl, .fmm, .cap] s.dev s'.dev :=
  State.actIf_keeps (Dev.stagingAge_keeps.step rfl .refl) h

theorem execParkTimeout_keeps {b : Nat} {s s' : State} (h : execParkTimeout b s = .next s') :
    Keeps [.free, .regs, .evj, .ports, .sess, .epochs, .mat, .lge, .fmm, .cap] s.dev s'.dev :=
  State.actIf_keeps (Dev.parkTimeout_keeps.step rfl .refl) h

theorem execProgFail_keeps {b : Nat} {die : Nat} {s s' : State} (h : execProgFail b die s = .next s') :
    Keeps [.free, .regs, .evj, .ports, .sess, .epochs, .cqe, .mat, .lge, .idx, .vpl, .fmm, .cap] s.dev s'.dev :=
  State.actIf_keeps (Dev.progFailed_keeps.step rfl .refl) h

theorem execEraseDone_keeps {b : Nat} {s s' : State} (h : execEraseDone b s = .next s') :
    Keeps [.pins, .regs, .evj, .ports, .sess, .cqe, .vpl, .fmm] s.dev s'.dev :=
  State.actIf_keeps (Dev.eraseDone_keeps.step rfl .refl) h

theorem execEraseFail_keeps {b : Nat} {die : Nat} {s s' : State} (h : execEraseFail b die s = .next s') :
    Keeps [.regs, .evj, .ports, .sess, .cqe, .vpl, .fmm] s.dev s'.dev :=
  State.actIf_keeps (Dev.eraseFailed_keeps.step rfl .refl) h

theorem execCollectionDone_keeps {b : Nat} {bad : Option Nat} {s s' : State} (h : execCollectionDone b bad s = .next s') :
    Keeps [.free, .pins, .regs, .rates, .sec, .evj, .ports, .sess, .epochs, .cqe, .mat, .lge, .nss, .idx, .vpl, .fmm, .cap] s.dev s'.dev :=
  State.actIf_keeps (Dev.collectionDone_keeps.step rfl .refl) h

theorem execGcReq_keeps {i : Iface} {b : Nat} {s s' : State} (h : execGcReq i b s = .next s') :
    Keeps [.free, .pins, .life, .regs, .latches, .rates, .imgWin, .sec, .evj, .power, .sup, .ports, .lanes, .belowXoff, .rx, .cellsHeld, .sess, .epochs, .cqe, .mat, .rod, .lge, .keyStore, .nss, .idx, .vpl, .fmm, .cap, .fw] s.dev s'.dev :=
  State.run_keeps (Dev.regAct_keeps.step rfl .refl) h

theorem execFoldGo_keeps {i : Iface} {s s' : State} (h : execFoldGo i s = .next s') :
    Keeps [.free, .pins, .life, .regs, .latches, .rates, .imgWin, .sec, .evj, .power, .sup, .ports, .lanes, .belowXoff, .rx, .cellsHeld, .sess, .epochs, .cqe, .mat, .rod, .lge, .keyStore, .nss, .idx, .vpl, .fmm, .cap, .fw] s.dev s'.dev :=
  State.run_keeps (Dev.regSet_keeps.step rfl .refl) h

theorem execFoldStop_keeps {i : Iface} {s s' : State} (h : execFoldStop i s = .next s') :
    Keeps [.free, .pins, .life, .regs, .latches, .rates, .imgWin, .sec, .evj, .power, .sup, .ports, .lanes, .belowXoff, .rx, .cellsHeld, .sess, .epochs, .cqe, .mat, .rod, .lge, .keyStore, .nss, .idx, .vpl, .fmm, .cap, .fw] s.dev s'.dev :=
  State.run_keeps (Dev.regSet_keeps.step rfl .refl) h

theorem execWearStep_keeps {s s' : State} (h : execWearStep s = .next s') :
    Keeps [.fmm] s.dev s'.dev :=
  State.actIf_keeps (Dev.wearStep_keeps.step rfl .refl) h

theorem execPatrolStep_keeps {corr : Nat} {cws : Nat} {r : MediaRead} {s s' : State} (h : execPatrolStep corr cws r s = .next s') :
    Keeps [.regs, .rates, .evj, .fmm, .cap] s.dev s'.dev :=
  State.actIf_keeps (Dev.patrolStep_keeps.step rfl .refl) h

theorem execDieLost_keeps {die : Nat} {s s' : State} (h : execDieLost die s = .next s') :
    Keeps [.free, .regs, .evj, .ports, .sess, .epochs, .cqe, .mat, .lge, .vpl, .fmm] s.dev s'.dev := by
  refine State.actIf_keeps ?_ h
  exact Dev.leaguePump_keeps.step rfl (Dev.dieLost_keeps.step rfl .refl)

theorem execTrigSample_keeps {t : Nat} {mv : Nat} {s s' : State} (h : execTrigSample t mv s = .next s') :
    Keeps [.sup] s.dev s'.dev :=
  State.actIf_keeps (Dev.trigSample_keeps.step rfl .refl) h

theorem execTrigFire_keeps {t : Nat} {s s' : State} (h : execTrigFire t s = .next s') :
    Keeps [.regs, .evj, .sup, .fmm, .cap] s.dev s'.dev :=
  State.runIf_keeps (Dev.trigFire_keeps.step rfl .refl) h

theorem execTrigFault_keeps {t : Nat} {s s' : State} (h : execTrigFault t s = .next s') :
    Keeps [.regs, .evj, .sup] s.dev s'.dev :=
  State.actIf_keeps (Dev.trigFault_keeps.step rfl .refl) h

theorem execTrigClear_keeps {t : Nat} {s s' : State} (h : execTrigClear t s = .next s') :
    Keeps [.regs, .evj, .sup] s.dev s'.dev :=
  State.actIf_keeps (Dev.trigClear_keeps.step rfl .refl) h

theorem execJournalDrain_keeps {s s' : State} (h : execJournalDrain s = .next s') :
    Keeps [.regs, .evj] s.dev s'.dev :=
  State.actIf_keeps (Dev.drain_keeps.step rfl .refl) h

theorem execJournalPageProgram_keeps {s s' : State} (h : execJournalPageProgram s = .next s') :
    Keeps [.pins, .regs, .evj, .fmm] s.dev s'.dev :=
  State.actIf_keeps (Dev.pageProgram_keeps.step rfl .refl) h

theorem execJournalPersist_keeps {i : Iface} {s s' : State} (h : execJournalPersist i s = .next s') :
    Keeps [.free, .pins, .life, .regs, .latches, .rates, .imgWin, .sec, .evj, .power, .sup, .ports, .lanes, .belowXoff, .rx, .cellsHeld, .sess, .epochs, .cqe, .mat, .rod, .lge, .keyStore, .nss, .idx, .vpl, .fmm, .cap, .fw] s.dev s'.dev :=
  State.run_keeps (Dev.regSet_keeps.step rfl .refl) h

theorem execJournalRd_keeps {i : Iface} {bad : List Nat} {s s' : State} (h : execJournalRd i s bad = .next s') :
    Keeps [.free, .pins, .life, .regs, .latches, .rates, .imgWin, .sec, .evj, .power, .sup, .ports, .lanes, .belowXoff, .rx, .cellsHeld, .sess, .epochs, .cqe, .mat, .rod, .lge, .keyStore, .nss, .idx, .vpl, .fmm, .cap, .fw] s.dev s'.dev :=
  State.run_keeps (Dev.regAct_keeps.step rfl (Dev.findBad_keeps.step rfl .refl)) h

theorem execFwLoadOpen_keeps {s s' : State} (h : execFwLoadOpen s = .next s') :
    Keeps [.free, .pins, .life, .regs, .latches, .rates, .imgWin, .sec, .evj, .power, .sup, .ports, .lanes, .belowXoff, .rx, .cellsHeld, .sess, .epochs, .cqe, .mat, .rod, .lge, .keyStore, .nss, .idx, .vpl, .fmm, .cap, .fw] s.dev s'.dev :=
  State.run_keeps (Dev.regAct_keeps.step rfl .refl) h

theorem execFwLoadData_keeps {w : Nat} {s s' : State} (h : execFwLoadData w s = .next s') :
    Keeps [.free, .pins, .life, .regs, .latches, .rates, .imgWin, .sec, .evj, .power, .sup, .ports, .lanes, .belowXoff, .rx, .cellsHeld, .sess, .epochs, .cqe, .mat, .rod, .lge, .keyStore, .nss, .idx, .vpl, .fmm, .cap, .fw] s.dev s'.dev :=
  State.run_keeps (Dev.regAct_keeps.step rfl .refl) h

theorem execFwLoadGo_keeps {s s' : State} (h : execFwLoadGo s = .next s') :
    Keeps [.free, .pins, .life, .regs, .latches, .rates, .imgWin, .sec, .evj, .power, .sup, .ports, .lanes, .belowXoff, .rx, .cellsHeld, .sess, .epochs, .cqe, .mat, .rod, .lge, .keyStore, .nss, .idx, .vpl, .fmm, .cap, .fw] s.dev s'.dev :=
  State.run_keeps (Dev.regAct_keeps.step rfl .refl) h

theorem execFwLoadAbort_keeps {s s' : State} (h : execFwLoadAbort s = .next s') :
    Keeps [.free, .pins, .life, .regs, .latches, .rates, .imgWin, .sec, .evj, .power, .sup, .ports, .lanes, .belowXoff, .rx, .cellsHeld, .sess, .epochs, .cqe, .mat, .rod, .lge, .keyStore, .nss, .idx, .vpl, .fmm, .cap, .fw] s.dev s'.dev :=
  State.run_keeps (Dev.regAct_keeps.step rfl .refl) h

theorem execWdogKick_keeps {cluster : Nat} {s s' : State} (h : execWdogKick cluster s = .next s') :
    Keeps [.free, .pins, .life, .regs, .latches, .rates, .imgWin, .sec, .evj, .power, .sup, .ports, .lanes, .belowXoff, .rx, .cellsHeld, .sess, .epochs, .cqe, .mat, .rod, .lge, .keyStore, .nss, .idx, .vpl, .fmm, .cap, .fw] s.dev s'.dev :=
  State.run_keeps (Dev.regSet_keeps.step rfl .refl) h

theorem execWdogExpiry_keeps {cluster : Nat} {s s' : State} (h : execWdogExpiry cluster s = .next s') :
    Keeps [.free, .pins, .life, .regs, .latches, .rates, .imgWin, .sec, .evj, .power, .ports, .belowXoff, .cellsHeld, .sess, .cqe, .mat, .lge, .nss, .idx, .vpl, .fmm, .cap, .fw] s.dev s'.dev :=
  State.act_keeps (Dev.wdogExpiry_keeps.step rfl .refl) h

theorem execFwPolicyWrite_keeps {i : Iface} {k : Nat} {w : Nat} {s s' : State} (h : execFwPolicyWrite i k w s = .next s') :
    Keeps [.free, .pins, .life, .regs, .latches, .rates, .imgWin, .sec, .evj, .power, .sup, .ports, .lanes, .belowXoff, .rx, .cellsHeld, .sess, .epochs, .cqe, .mat, .rod, .lge, .keyStore, .nss, .idx, .vpl, .fmm, .cap, .fw] s.dev s'.dev :=
  State.runIf_keeps (Dev.regAct_keeps.step rfl .refl) h

theorem execPwrReq_keeps {i : Iface} {n : Nat} {state : Nat} {s s' : State} (h : execPwrReq i n state s = .next s') :
    Keeps [.free, .pins, .life, .regs, .latches, .rates, .imgWin, .sec, .evj, .power, .sup, .ports, .lanes, .belowXoff, .rx, .cellsHeld, .sess, .epochs, .cqe, .mat, .rod, .lge, .keyStore, .nss, .idx, .vpl, .fmm, .cap, .fw] s.dev s'.dev :=
  State.run_keeps (Dev.regAct_keeps.step rfl .refl) h

theorem execDomainDrained_keeps {n : Nat} {s s' : State} (h : execDomainDrained n s = .next s') :
    Keeps [.power] s.dev s'.dev :=
  State.act_keeps (Dev.domDrained_keeps.step rfl .refl) h

theorem execDomainSeqDone_keeps {n : Nat} {s s' : State} (h : execDomainSeqDone n s = .next s') :
    Keeps [.free, .life, .regs, .latches, .imgWin, .sec, .evj, .power, .ports, .lanes, .belowXoff, .rx, .cellsHeld, .sess, .epochs, .cqe, .mat, .rod, .lge, .idx, .vpl, .fmm, .fw] s.dev s'.dev := by
  refine State.run_keeps ?_ h
  dsimp only
  exact Dev.domDone_keeps.step rfl .refl

theorem execClockLost_keeps {c : Nat} {s s' : State} (h : execClockLost c s = .next s') :
    Keeps [.free, .pins, .life, .regs, .latches, .rates, .imgWin, .sec, .evj, .power, .clocks, .ports, .lanes, .belowXoff, .cellsHeld, .sess, .epochs, .cqe, .mat, .rod, .lge, .nss, .idx, .vpl, .fmm, .cap, .fw] s.dev s'.dev :=
  State.run_keeps (Dev.loseClock_keeps.step rfl .refl) h

theorem execClockRestored_keeps {c : Nat} {s s' : State} (h : execClockRestored c s = .next s') :
    Keeps [.regs, .evj, .clocks, .rod] s.dev s'.dev :=
  State.actIf_keeps (Dev.clkBack_keeps.step rfl .refl) h

theorem execRailTrip_keeps {rail : Nat} {beyond : Bool} {s s' : State} (h : execRailTrip rail beyond s = .next s') :
    Keeps [.free, .pins, .life, .regs, .latches, .rates, .imgWin, .sec, .evj, .power, .sup, .ports, .belowXoff, .cellsHeld, .sess, .cqe, .mat, .lge, .nss, .idx, .vpl, .fmm, .cap, .fw] s.dev s'.dev :=
  State.actIf_keeps (Dev.railTrip_keeps.step rfl .refl) h

theorem execThermalSample_keeps {temps : List (Option Int)} {s s' : State} (h : execThermalSample temps s = .next s') :
    Keeps [.free, .pins, .life, .regs, .latches, .rates, .imgWin, .sec, .evj, .power, .sup, .ports, .belowXoff, .cellsHeld, .sess, .cqe, .mat, .lge, .nss, .idx, .vpl, .fmm, .cap, .fw] s.dev s'.dev :=
  State.actIf_keeps (Dev.thermalSample_keeps.step rfl .refl) h

theorem execThermalSiteFail_keeps {site : Nat} {s s' : State} (h : execThermalSiteFail site s = .next s') :
    Keeps [.free, .pins, .life, .regs, .latches, .rates, .imgWin, .sec, .evj, .power, .sup, .ports, .belowXoff, .cellsHeld, .sess, .cqe, .mat, .lge, .nss, .idx, .vpl, .fmm, .cap, .fw] s.dev s'.dev := by
  refine State.actIf_keeps ?_ h
  exact Dev.suspension_keeps.step rfl (Dev.siteFailed_keeps.step rfl .refl)

theorem execPfStuck_keeps {s s' : State} (h : execPfStuck s = .next s') :
    Keeps [.pins, .life, .regs, .evj, .sup] s.dev s'.dev :=
  State.act_keeps (Dev.pfStuckNow_keeps.step rfl .refl) h

theorem execPfIgnoreSet_keeps {s s' : State} (h : execPfIgnoreSet s = .next s') :
    Keeps [.free, .pins, .life, .regs, .latches, .rates, .imgWin, .sec, .evj, .power, .sup, .ports, .lanes, .belowXoff, .rx, .cellsHeld, .sess, .epochs, .cqe, .mat, .rod, .lge, .keyStore, .nss, .idx, .vpl, .fmm, .cap, .fw] s.dev s'.dev :=
  State.run_keeps (Dev.regAct_keeps.step rfl .refl) h

theorem execLaneStuck_keeps {n : Nat} {s s' : State} (h : execLaneStuck n s = .next s') :
    Keeps [.regs, .evj, .ports] s.dev s'.dev :=
  State.act_keeps (Dev.laneStuck_keeps.step rfl .refl) h

theorem execActTimeout_keeps {n : Nat} {s s' : State} (h : execActTimeout n s = .next s') :
    Keeps [.pins] s.dev s'.dev :=
  State.actIf_keeps (Dev.actTimeout_keeps.step rfl .refl) h

theorem execSpiNop_keeps {clocks : Nat} {cmd : Nat} {addr : Nat} {data : Nat} {crc : Nat} {s s' : State} (h : execSpiNop clocks cmd addr data crc s = .next s') :
    Keeps ([.free, .pins, .life, .regs, .latches, .readData, .rates, .imgWin, .sec, .evj, .power, .sup, .spi, .spiErrs, .ports, .lanes, .poolLow, .belowXoff, .rx, .cellsHeld] ++ [.sess, .epochs, .cqe, .mat, .rod, .lge, .keyStore, .nss, .idx, .vpl, .fmm, .cap, .fw]) s.dev s'.dev :=
  State.run_keeps (Dev.spiFrame_keeps.step rfl .refl) h

theorem execSpiRead_keeps {clocks : Nat} {addr : Nat} {data : Nat} {crc : Nat} {s s' : State} (h : execSpiRead clocks addr data crc s = .next s') :
    Keeps ([.free, .pins, .life, .regs, .latches, .readData, .rates, .imgWin, .sec, .evj, .power, .sup, .spi, .spiErrs, .ports, .lanes, .poolLow, .belowXoff, .rx, .cellsHeld] ++ [.sess, .epochs, .cqe, .mat, .rod, .lge, .keyStore, .nss, .idx, .vpl, .fmm, .cap, .fw]) s.dev s'.dev :=
  State.run_keeps (Dev.spiFrame_keeps.step rfl .refl) h

theorem execSpiWrite_keeps {clocks : Nat} {addr : Nat} {data : Nat} {crc : Nat} {s s' : State} (h : execSpiWrite clocks addr data crc s = .next s') :
    Keeps ([.free, .pins, .life, .regs, .latches, .readData, .rates, .imgWin, .sec, .evj, .power, .sup, .spi, .spiErrs, .ports, .lanes, .poolLow, .belowXoff, .rx, .cellsHeld] ++ [.sess, .epochs, .cqe, .mat, .rod, .lge, .keyStore, .nss, .idx, .vpl, .fmm, .cap, .fw]) s.dev s'.dev :=
  State.run_keeps (Dev.spiFrame_keeps.step rfl .refl) h

theorem execRegWriteWord_keeps {i : Iface} {a : Nat} {w : Nat} {s s' : State} (h : execRegWriteWord i a w s = .next s') :
    Keeps [.free, .pins, .life, .regs, .latches, .rates, .imgWin, .sec, .evj, .power, .sup, .ports, .lanes, .belowXoff, .rx, .cellsHeld, .sess, .epochs, .cqe, .mat, .rod, .lge, .keyStore, .nss, .idx, .vpl, .fmm, .cap, .fw] s.dev s'.dev :=
  State.run_keeps (Dev.regAct_keeps.step rfl .refl) h

theorem execLatchedRead_keeps {i : Iface} {a : Nat} {s s' : State} (h : execLatchedRead i a s = .next s') :
    Keeps [.life, .regs, .latches, .readData, .sup, .lanes, .poolLow, .cap] s.dev s'.dev := by
  refine State.runIf_keeps ?_ h
  dsimp only
  exact Dev.regLook_keeps.step rfl .refl

theorem execRcRead_keeps {i : Iface} {a : Nat} {s s' : State} (h : execRcRead i a s = .next s') :
    Keeps [.life, .regs, .latches, .readData, .sup, .lanes, .poolLow, .cap] s.dev s'.dev := by
  refine State.run_keeps ?_ h
  dsimp only
  exact Dev.regLook_keeps.step rfl .refl

theorem execRailsInRange_keeps {s s' : State} (h : execRailsInRange s = .next s') :
    Keeps [.life, .sup] s.dev s'.dev :=
  State.act_keeps (Dev.railsInRange_keeps.step rfl .refl) h

theorem execNsTableCommit_keeps {ctx : Nat} {s s' : State} (h : execNsTableCommit ctx s = .next s') :
    Keeps [.free, .regs, .evj, .ports, .sess, .cqe, .nss, .idx, .vpl] s.dev s'.dev :=
  State.act_keeps (Dev.nsTableCommit_keeps.step rfl .refl) h

theorem execWindowTableCommit_keeps {s s' : State} (h : execWindowTableCommit s = .next s') :
    Keeps [.regs, .evj, .ports, .sess, .cqe, .fmm, .cap] s.dev s'.dev :=
  State.actIf_keeps (Dev.windowCommit_keeps.step rfl .refl) h

theorem execKeyEraseCommit_keeps {s s' : State} (h : execKeyEraseCommit s = .next s') :
    Keeps [.regs, .sec, .evj, .ports, .sess, .cqe, .keyStore] s.dev s'.dev :=
  State.runIf_keeps (Dev.keyEraseCommit_keeps.step rfl .refl) h

theorem execChallengePkt_keeps {pid : Nat} {s s' : State} (h : execChallengePkt pid s = .next s') :
    Keeps [.regs, .ports, .belowXoff, .rx, .cellsHeld, .sess] s.dev s'.dev := by
  refine State.act_keeps ?_ h
  refine Dev.onSession_keeps rfl (fun x1 x2 x3 => ?_) ?_
  · exact Dev.challengePkt_keeps.step rfl .refl
  · exact .refl

theorem execAcceptPkt_keeps {pid : Nat} {s s' : State} (h : execAcceptPkt pid s = .next s') :
    Keeps [.free, .regs, .latches, .imgWin, .evj, .ports, .belowXoff, .rx, .cellsHeld, .sess, .epochs, .cqe, .mat, .lge, .vpl, .fmm] s.dev s'.dev := by
  refine State.act_keeps ?_ h
  refine Dev.onSession_keeps rfl (fun x1 x2 x3 => ?_) ?_
  · exact Dev.acceptPkt_keeps.step rfl .refl
  · exact .refl

theorem execRefusePkt_keeps {pid : Nat} {s s' : State} (h : execRefusePkt pid s = .next s') :
    Keeps [.regs, .latches, .imgWin, .evj, .ports, .belowXoff, .rx, .cellsHeld, .sess, .cqe, .mat, .lge, .vpl, .fmm] s.dev s'.dev := by
  refine State.act_keeps ?_ h
  refine Dev.onSession_keeps rfl (fun x1 x2 x3 => ?_) ?_
  · exact Dev.refusePkt_keeps.step rfl .refl
  · exact .refl

theorem execStaleWalkDone_keeps {b : Nat} {s s' : State} (h : execStaleWalkDone b s = .next s') :
    Keeps [.regs, .evj, .fmm, .cap] s.dev s'.dev :=
  State.actIf_keeps (Dev.staleWalkDone_keeps.step rfl .refl) h

theorem execPurgeSweepStep_keeps {s s' : State} (h : execPurgeSweepStep s = .next s') :
    Keeps [.regs, .evj, .idx, .fmm, .cap] s.dev s'.dev :=
  State.actIf_keeps (Dev.purgeStep_keeps.step rfl .refl) h

theorem execSegmentRemoval_keeps {s s' : State} (h : execSegmentRemoval s = .next s') :
    Keeps [.regs, .rates, .evj, .idx, .fmm, .cap] s.dev s'.dev :=
  State.actIf_keeps (Dev.segmentRemoval_keeps.step rfl .refl) h

/-! ## An idle cycle -/

@[simp] theorem Dev.cycle_cycles (d : Dev) : d.cycle.cycles = d.cycles + 1 := by
  show d.reportStops.ctxEnd.cycles + 1 = _
  rw [show d.reportStops.ctxEnd.cycles = d.reportStops.cycles from Dev.ctxEnd_keeps.same .cycles rfl,
    show d.reportStops.cycles = d.cycles from Dev.reportStops_keeps.same .cycles rfl]

end Sys2Proof.Machine
end

