-- ==== Sys2Proof/WellFormed.lean ====
section
/-! DEFINITION. Which commands the outside can give: the ranges of every operand, as the formats and the units of the
spec bound them. A meaning is total on ill-formed commands too; this check says which of them stand for nothing. -/

namespace Sys2Proof

open Machine

/-- One of the four interfaces that make a register access; a session is one of 4,096 (R86, R333). -/
def Iface.wf : Iface → Bool
  | .spi => true
  | .inBand sid => decide (sid < 4096)
  | .firmware => true
  | .device => false

/-- A 32-bit register word (R386). -/
def wordOk (w : Nat) : Bool := decide (w < 0x100000000)

/-- A register address: 24 bits, a multiple of 4 (R386, R390). -/
def addrOk (a : Nat) : Bool := decide (a < 0x1000000) && a % 4 == 0

/-- A port or a lane, a trigger input, a rank of four. -/
def fourOk (n : Nat) : Bool := decide (n < 4)

/-- A dispatched command, named by its number in order of arrival (log entry 27). -/
def ctxOk (c : Nat) : Bool := decide (c < 2 ^ 64)

/-- A session number (R86). -/
def sidOk (s : Nat) : Bool := decide (s < 4096)

/-- A Bushel number (R237). -/
def bushelOk (b : Nat) : Bool := decide (b < 10752)

/-- A die number (R237). -/
def dieOk (die : Nat) : Bool := decide (die < 64)

/-- A MAC address. -/
def macOk (m : Nat) : Bool := decide (m < 2 ^ 48)

/-- An address of either IP version. -/
def ipOk (v6 : Bool) (a : Nat) : Bool := if v6 then decide (a < 2 ^ 128) else decide (a < 2 ^ 32)

/-- What a frame carries, with its fields in their widths (R76, R77, R84). -/
def FrameBody.wf : FrameBody → Bool
  | .macControl opcode quanta vector times =>
    decide (opcode < 65536) && decide (quanta < 65536) && decide (vector < 65536) && times.length == 8 &&
      times.all fun t => decide (t < 65536)
  | .arp _ senderMac senderIp target => macOk senderMac && ipOk false senderIp && ipOk false target
  | .solicit senderIp target => ipOk true senderIp && ipOk true target
  | .neighbour target mac => ipOk true target && macOk mac
  | .udp g =>
    ipOk g.v6 g.src && ipOk g.v6 g.dst && decide (g.srcPort < 65536) && decide (g.dstPort < 65536) &&
      decide (g.udpLen < 65536)
  | .otherIp _ _ _ => true
  | .other => true

/-- A received frame, with its fields in their widths (R67 to R70, R228). -/
def Frame.wf (f : Frame) : Bool :=
  fourOk f.port && macOk f.dst && macOk f.src && decide (f.etherType < 65536) &&
    ((f.vlan.map fun v => decide (v.1 < 8) && decide (v.2 < 4096)).getD true) &&
    ((f.sec.map fun t => decide (t.sci < 2 ^ 64) && fourOk t.an && decide (t.pn < 2 ^ 64)).getD true) &&
    FrameBody.wf f.body

/-- What a read of stored grains gives, with dies of this device (R237, R259). -/
def MediaRead.wf : MediaRead → Bool
  | .good => true
  | .soft die => dieOk die
  | .rebuilt die _ => dieOk die
  | .altered _ => true
  | .lost die _ _ => dieOk die

/-- An SPI frame's fields in their widths (R390). -/
def spiOk (cmd addr data crc : Nat) : Bool :=
  decide (cmd < 256) && decide (addr < 0x1000000) && wordOk data && decide (crc < 256)

/-- Whether a command's operands lie in the ranges that the spec gives them. -/
def Instr.wf : Instr → Bool
  | .powerOn => true
  | .resetNRise straps uv ov => fourOk straps && decide (uv < 512) && decide (ov < 512)
  | .pinReset => true
  | .deviceReset i straps => Iface.wf i && fourOk straps
  | .datapathReset i => Iface.wf i
  | .datapathResetDone => true
  | .coresReset i => Iface.wf i
  | .coresResetDone => true
  | .shutdownFlushDone => true
  | .phaseAon _ => true
  | .pfStartWaitDone => true
  | .phaseRom => true
  | .phaseFw _ _ => true
  | .phaseMem => true
  | .phaseMedia _ _ => true
  | .phaseImage => true
  | .phaseIndex _ _ => true
  | .phaseMeta => true
  | .phasePorts => true
  | .phaseRun => true
  | .pfGlitch => true
  | .pwrFail => true
  | .flushAdmissionStop => true
  | .flushStagingCutoff => true
  | .flushDiesReady => true
  | .flushStagingWritten _ => true
  | .flushMetadataWritten => true
  | .flushJournalWritten => true
  | .flushComplete => true
  | .flushOvertime => true
  | .railsLost _ => true
  | .haltExit straps => fourOk straps
  | .imgOpen i => Iface.wf i
  | .imgData i w => Iface.wf i && wordOk w
  | .imgApply i => Iface.wf i
  | .imgStore i => Iface.wf i
  | .imgAbort i => Iface.wf i
  | .imgCheckDone => true
  | .imgStoreDone => true
  | .linkSignalDetect n => fourOk n
  | .polarityTimer lane => fourOk lane
  | .polarityErrorBlocks lane => fourOk lane
  | .laneLock n fec => fourOk n && fec.length == 4 && fec.all fourOk
  | .linkHoldDone n => fourOk n
  | .linkFault n cause => fourOk n && decide (cause < 3)
  | .linkSignalLoss lane => fourOk lane
  | .remoteFaultRx n => fourOk n
  | .remoteFaultClear n => fourOk n
  | .rxFrame f => Frame.wf f
  | .xoffRepeat n => fourOk n
  | .pauseRx f => Frame.wf f
  | .pfcRx f => Frame.wf f
  | .pauseExpiry n prio => fourOk n && (prio.map fun p => decide (p < 8)).getD true
  | .txFrameStart n => fourOk n
  | .txUnderrun n _ => fourOk n
  | .ctRestore i => Iface.wf i
  | .statClear i n => Iface.wf i && fourOk n
  | .openPkt _ => true
  | .proofPkt _ => true
  | .openTicket _ => true
  | .openTimerExpiry sid => sidOk sid
  | .dataPkt _ => true
  | .ackPkt _ => true
  | .keepalivePkt _ => true
  | .closePkt _ => true
  | .retxTimeout sid => sidOk sid
  | .keepaliveSend sid => sidOk sid
  | .keepaliveLoss sid => sidOk sid
  | .sessKill i sid => Iface.wf i && sidOk sid
  | .arbWindow => true
  | .dispatch => true
  | .commandTimeout _ => true
  | .stagingComplete ctx => ctxOk ctx
  | .get ctx _ => ctxOk ctx
  | .put ctx => ctxOk ctx
  | .delete ctx => ctxOk ctx
  | .existsKey ctx _ => ctxOk ctx
  | .casPut ctx => ctxOk ctx
  | .getRange ctx _ => ctxOk ctx
  | .iterate ctx _ => ctxOk ctx
  | .extentWrite ctx => ctxOk ctx
  | .extentRead ctx _ => ctxOk ctx
  | .discard ctx => ctxOk ctx
  | .streamAppend ctx => ctxOk ctx
  | .streamScan ctx _ => ctxOk ctx
  | .fathomPin ctx => ctxOk ctx
  | .fathomRelease ctx => ctxOk ctx
  | .chainAppend ctx => ctxOk ctx
  | .chainRead ctx _ => ctxOk ctx
  | .chainSeal ctx => ctxOk ctx
  | .chainExpire ctx => ctxOk ctx
  | .quire ctx => ctxOk ctx
  | .flush ctx => ctxOk ctx
  | .nsCreate ctx => ctxOk ctx
  | .nsDelete ctx => ctxOk ctx
  | .nsQuery ctx => ctxOk ctx
  | .keyslotLoad ctx => ctxOk ctx
  | .keystoreCommit => true
  | .keyslotErase ctx => ctxOk ctx
  | .fwStage ctx => ctxOk ctx
  | .fwStageWriteDone _ => true
  | .fwActivate ctx => ctxOk ctx
  | .fwReady => true
  | .fwReadyTimeout => true
  | .powerSet ctx => ctxOk ctx
  | .healthRead ctx => ctxOk ctx
  | .journalRead ctx bad => ctxOk ctx && bad.all fun n => decide (n < 2 ^ 40)
  | .regRead ctx => ctxOk ctx
  | .regWrite ctx => ctxOk ctx
  | .lgJoin ctx => ctxOk ctx
  | .lgKeepalive ctx => ctxOk ctx
  | .lgDirSet ctx => ctxOk ctx
  | .lgFence ctx => ctxOk ctx
  | .lgReplicate _ => true
  | .lgRelay _ => true
  | .lgLeave ctx => ctxOk ctx
  | .relayResponse sid _ => sidOk sid
  | .replicateResponse sid _ => sidOk sid
  | .lgJoinRetry => true
  | .lgKeepaliveSend => true
  | .lgKeepaliveMiss id => decide (id < 64)
  | .dirCommit i pos => Iface.wf i && fourOk pos
  | .dirClear i pos => Iface.wf i && fourOk pos
  | .dirRestore a => decide (a < 131072)
  | .matEntWrite i => Iface.wf i
  | .matEntRead i => Iface.wf i
  | .matEntClear i => Iface.wf i
  | .matSearch i profile => Iface.wf i && (profile == 2 || profile == 3)
  | .scrubStep _ => true
  | .rodSlot word => (word.map fun w => decide (w < 2 ^ 320)).getD true
  | .rodToken token => decide (token < 2 ^ 20)
  | .tokenLost => true
  | .rodFull _ => true
  | .rodAliveUp => true
  | .rodAliveLow => true
  | .rodClkLost => true
  | .rodCheck i => Iface.wf i
  | .rodCheckDone first second third _ =>
    [first, second, third].all fun l => (l.isEmpty || decide (l.length = 34)) && l.all fun x => decide (x < 2 ^ 17)
  | .rodCheckRetry => true
  | .checkpointBegin => true
  | .checkpointCommit => true
  | .cpForce i => Iface.wf i
  | .rescan i => Iface.wf i
  | .indexRebuildDone _ _ => true
  | .purgeDone => true
  | .segmentCompressed engine _ => decide (engine < 8)
  | .segmentSealed lane => decide (lane < 8)
  | .segmentChecked ctx _ r => ctxOk ctx && MediaRead.wf r
  | .nsPolicyWrite i w => Iface.wf i && wordOk w
  | .kloadData w => wordOk w
  | .kloadGo slot policy priv => decide (slot < 512) && decide (policy < 8) && decide (priv < 256)
  | .alarm src active => decide (src < 16) && decide (active < 16)
  | .cryptoEraseDone => true
  | .unlock sources => decide (sources < 16)
  | .unlockBlockExpiry => true
  | .saInstall i => Iface.wf i
  | .saClear i => Iface.wf i
  | .saActivate i => Iface.wf i
  | .todArm i w => Iface.wf i && wordOk w
  | .ppsEdge => true
  | .srcLostSet i => Iface.wf i
  | .timeHoldover => true
  | .timeUntrusted => true
  | .timeSave => true
  | .ppsOutRise => true
  | .ppsOutFall => true
  | .groupCommit b => bushelOk b
  | .stagingAgeTimer h => decide (h < 12)
  | .parkTimeout b => bushelOk b
  | .progFail b die => bushelOk b && dieOk die
  | .eraseDone b => bushelOk b
  | .eraseFail b die => bushelOk b && dieOk die
  | .collectionDone b _ => bushelOk b
  | .gcReq i b => Iface.wf i && (bushelOk b || b == 0x3FFF)
  | .foldGo i => Iface.wf i
  | .foldStop i => Iface.wf i
  | .wearStep => true
  | .patrolStep _ _ r => MediaRead.wf r
  | .dieLost die => dieOk die
  | .trigSample t _ => fourOk t
  | .trigFire t => fourOk t
  | .trigFault t => fourOk t
  | .trigClear t => fourOk t
  | .journalDrain => true
  | .journalPageProgram => true
  | .journalPersist i => Iface.wf i
  | .journalRd i bad => Iface.wf i && bad.all fun n => decide (n < 2 ^ 40)
  | .fwLoadOpen => true
  | .fwLoadData w => wordOk w
  | .fwLoadGo => true
  | .fwLoadAbort => true
  | .wdogKick cluster => decide (cluster < 2)
  | .wdogExpiry cluster => decide (cluster < 2)
  | .fwPolicyWrite i k w => Iface.wf i && fourOk k && wordOk w
  | .pwrReq i n state => Iface.wf i && decide (n < 67) && fourOk state
  | .domainDrained n => decide (n < 67)
  | .domainSeqDone n => decide (n < 67)
  | .clockLost c => decide (c < 7)
  | .clockRestored c => decide (c < 7)
  | .railTrip rail _ => decide (rail < 9)
  | .thermalSample temps => temps.length == 12
  | .thermalSiteFail site => decide (site < 12)
  | .pfStuck => true
  | .pfIgnoreSet => true
  | .laneStuck n => fourOk n
  | .actTimeout n => decide (n < 2)
  | .spiNop _ cmd addr data crc => spiOk cmd addr data crc && cmd != 0x3C && cmd != 0xC3
  | .spiRead _ addr data crc => spiOk 0x3C addr data crc
  | .spiWrite _ addr data crc => spiOk 0xC3 addr data crc
  | .regWriteWord i a w => Iface.wf i && addrOk a && wordOk w
  | .latchedRead i a => Iface.wf i && addrOk a
  | .rcRead i a => Iface.wf i && addrOk a
  | .railsInRange => true
  | .nsTableCommit ctx => ctxOk ctx
  | .windowTableCommit => true
  | .keyEraseCommit => true
  | .challengePkt _ => true
  | .acceptPkt _ => true
  | .refusePkt _ => true
  | .staleWalkDone b => bushelOk b
  | .purgeSweepStep => true
  | .segmentRemoval => true

end Sys2Proof
end

