-- ==== Sys2Proof/Tests/Slice0.lean ====
section
/-! SUPPORT. Tests: an ill-formed term for each check of WellFormed, and for each statement with hypotheses a state and
operands that meet them. Expected values come from the spec. -/

open Sys2Proof Sys2Proof.Machine

namespace Sys2Proof.Tests

set_option Elab.async false

/-! ## States that the tests are built from -/

/-- A device in service: phase RUN, RESET_N high, READY high. -/
def up : Dev :=
  { Dev.blank with
    life := { Life.fresh with phase := .run }
    pins := { Dev.blank.pins with resetLow := false, ready := true } }

/-- A device in another phase of its start. -/
def inPhase (p : Phase) : Dev := { up with life := { up.life with phase := p } }

/-- A state around a device. -/
def st (d : Dev) : State := { State.reset with dev := d }

/-- A state around a device with another store in SEC. -/
def stNv (nv : Secure) (d : Dev) : State := { State.reset with nv := nv, dev := d }

/-- A host's tuple on port 0. -/
def tuple : ClassKey := ⟨0, 0, false, 0x0A000001, 5000, 0x0A000002, 4791⟩

/-- An ESTABLISHED session with some privileges. -/
def sess (priv : Nat) : Sess :=
  { state := .established, epoch := 1, wireId := 0, wireEpoch := 1, opener := false, priv := priv, ticket := false, slot := 0,
    bound := none, key := tuple, devIp := 0x0A000002, mac := 5, cn := [], dn := [], hostIsn := 0, devIsn := 0, privReq := 0,
    hostWin := 64, rxNext := 10, advLimit := 100, held := [], txNext := 20, txLimit := 200, unacked := [], out := [],
    timeoutUs := 64, retries := 0, heardAt := none, ackedAt := none, inMsgs := [], tags := [], acceptPay := [], league := false, answers := [] }

/-- A command of session 0. -/
def cmd (op ns : Nat) (param key value : Bytes) : Cmd :=
  { session := 0, queue := 1, tag := 7, op := op, raw := false, fua := false, ns := ns, timeout := 0, param := param, key := key,
    valLen := value.length, value := value, whole := true, locks := [], isWrite := false, waited := 0, cells := 0,
    broken := none, mirror := [] }

/-- A dispatched command whose opcode is about to run. -/
def fresh (c : Cmd) : Flight := ⟨c, 1, 0, [], false, false, .fresh⟩

/-- A device with session 0 and one dispatched command, context 3. -/
def running (d : Dev) (f : Flight) : Dev := { d with sess := [(0, sess 1)], cqe := { d.cqe with flights := [(3, f)] } }

/-- The same for a command that is about to run. -/
def run (d : Dev) (c : Cmd) : Dev := running d (fresh c)

/-- A device with some register words set. -/
def regs (d : Dev) (l : List (Nat × Nat)) : Dev := l.foldl (fun d p => d.setRegN p.1 p.2) d

/-- A device with image data that names no setting but those given. -/
def withImage (d : Dev) (im : Image) : Dev := { d with image := some im }

/-! ## Witnesses: the core and the registers -/

/-- StepRunsFront: a queue with a command, and the empty queue. -/
theorem test_stepRunsFront : State.reset.pending = [] := by decide

/-- SecureStoreStaysInRange, SecureStoreNeverGoesBack, RollbackFloor, AuthorityEnrolment: an alarm on a store whose counts are at
their ends answers a next state, and so does every command of a device in service. -/
theorem test_secureStore :
    ({ Secure.blank with alarmLatch := 15, alarms := 0xFFFF, unlockFails := 0xFFFF, eraseEpoch := 0xFFFFFFFF } : Secure).ok =
      true := by decide

/-- AuthorityEnrolment: a store with a fused authority, an image window that SPI does not own, and an image whose key has
another hash. -/
theorem test_authority :
    ({ Secure.blank with authority := some [1] } : Secure).authority = some [1] ∧ up.imgOwns .spi = false ∧
      Secure.blank.authority = none ∧ sha256 (slice [] 0 64) ≠ ([1] : Bytes) := by decide +kernel

/-- RollbackFloor: a body whose GEN is below the floor. -/
theorem test_rollbackFloor : num (zeros 20) 16 4 < 1 := by decide +kernel

/-- TablesKeepTheirForm and RegisterFile: tables in their form. -/
theorem test_tables : (Tab.wf ([(1, 5), (4, 6)] : Tab Nat)) = true ∧ up.regs.wf = true ∧ (regs up [(0x14, 7)]).regs.wf = true ∧
    (∀ p ∈ (regs up [(0x14, 7)]).regs, p.2 ≠ resetWord p.1) := by decide +kernel

/-- WriteActsByAccessType: a register with fields of each kind. -/
theorem test_accessTypes : (regRow 0x24).isSome = true ∧ (regRow 0x4000).isSome = true ∧ (regRow 0x70080).isSome = true := by
  decide +kernel

/-- RegisterWrites: CHIP_SCRATCH and the last enable register over SPI and in band, and an address that holds none. -/
theorem test_registerWrites :
    (∀ a ∈ ([0x14, 0x24, 0x1044, 0x2008, 0x305C, 0x4004, 0x1001C, 0x1101C, 0x1201C, 0x1301C, 0x20034, 0x3004C, 0x40034,
      0x50024, 0x60144, 0x70084, 0x700D4, 0x8003C, 0x9002C, 0x9022C, 0xA0054, 0xB0034] : List Nat),
      up.accepts Secure.blank .spi a 0xFFFFFFFF = true ∧ (run up (cmd 0 0 [] [] [])).accepts Secure.blank (.inBand 0) a 1 = true) ∧
    up.view Secure.blank 0xFFFFFC = none ∧ up.wholeRefusal .spi 0xFFFFFC 5 = none := by decide +kernel

/-- An image for tests: every field is zero. -/
def im0 : Image := imageOf [] []

/-- LockedFieldsHold: a write in band that changes a locked field of a device with an image, with and without an earlier one. -/
theorem test_lockedFields :
    let d := withImage (run up (cmd 0x61 0 [] [] [])) im0
    d.changesLocked 0x20000 0x12340000 = true ∧ d.reaches (.inBand 0) = true ∧ bit (d.regN 0x28) 31 = false ∧
      (regs d [(0x28, 2 ^ 31)]).changesLocked 0x20000 0x12340000 = true ∧ bit ((regs d [(0x28, 2 ^ 31)]).regN 0x28) 31 = true := by
  decide +kernel

/-- A device with a power domain in another state. -/
def domAt (d : Dev) (n : Nat) (x : DomState) : Dev :=
  { d with power := { d.power with doms := d.power.doms.set n (Domain.at_ x) } }

/-- DomainOffRegisters: a register of the Rod bus while its domain is OFF. -/
theorem test_domainOff :
    let d := domAt up 65 .off
    d.reaches .spi = true ∧ d.regOff 0x90000 = true ∧ (d.view Secure.blank 0x90000).isSome = true ∧
      d.wholeRefusal .spi 0x90000 0 = none := by decide +kernel

/-- RegisterReads: a counter that clears on read, a 64-bit pair, and a latched HI. -/
theorem test_registerReads :
    (∃ r, regRow 0x50108 = some r ∧ r.rc = 0xFFFFFFFF) ∧ up.shows Secure.blank 0x50108 = none ∧ up.regOff 0x50108 = false ∧
    latchesHi 0x60090 = true ∧ (up.view Secure.blank 0x60090).isSome = true ∧ (up.view Secure.blank 0x60094).isSome = true ∧
    up.latches.find (latchKey .spi 0x60090) = none ∧
    ({ up with latches := [(latchKey .spi 0x60094, 9)] } : Dev).latches.find (latchKey .spi 0x60094) = some 9 := by
  decide +kernel

/-- InterruptTree: RESET_N is high. -/
theorem test_interruptTree : up.pins.resetLow = false := by decide

/-- SpiFrames: the SPI logic is up; a bad length, CRC, command and address; and before any frame. -/
theorem test_spiFrames :
    up.spiUp = true ∧ up.spi = none ∧
    crc8 (be 1 0x5A ++ be 3 0x14 ++ be 4 0) ≠ 0 ∧ crc8 (be 1 0x11 ++ be 3 0x14 ++ be 4 0) < 256 ∧
    (0x11 : Nat) ∉ ([0x5A, 0x3C, 0xC3] : List Nat) ∧ (0x15 : Nat) % 4 ≠ 0 ∧
    ((up.count (spiCnt 0)).view Secure.blank 0x14).isSome = true ∧ (up.count (spiCnt 0)).regOff 0x14 = false := by
  decide +kernel

/-- InBandRegisterAccess: a REG_READ past the space, one within it, a REG_WRITE refused and one of CHIP_SCRATCH. -/
theorem test_inBandAccess :
    let beyond := fresh (cmd 0x60 0 (be 1 0 ++ be 3 0xFFFFFC ++ be 4 2) [] [])
    let last := fresh (cmd 0x60 0 (be 1 0 ++ be 3 0xFFFFFC ++ be 4 1) [] [])
    let refused := fresh (cmd 0x61 0 (be 1 0 ++ be 3 0x20000 ++ be 4 1) [] (be 4 0x12340000))
    let scratch := fresh (cmd 0x61 0 (be 1 0 ++ be 3 0x14 ++ be 4 1) [] (be 4 5))
    (running up beyond).runs 3 0x60 beyond ∧ (running up last).runs 3 0x60 last ∧
    num last.cmd.param 0 4 + 4 * num last.cmd.param 4 4 ≤ 0x1000000 ∧
    num beyond.cmd.param 0 4 + 4 * num beyond.cmd.param 4 4 > 0x1000000 ∧
    (withImage (running up refused) im0).runs 3 0x61 refused ∧
    ((withImage (running up refused) im0).firstRefusal (.inBand 0) (chunks 4 refused.cmd.value) 0x20000).isSome = true ∧
    (running up scratch).runs 3 0x61 scratch ∧ (running up scratch).wholeRefusal (.inBand 0) 0x14 5 = none := by
  decide +kernel

/-! ## WellFormed -/

/-- A frame on port 0 without tags. -/
def bare (body : FrameBody) : Frame :=
  { port := 0, len := 64, fcsOk := true, errorBlock := false, fecCorr := 0, fecUncorr := 0, dst := 1, src := 2, vlan := none, etherType := 0x8808, sec := none,
    body := body }

/-- WellFormed refuses an interface, register, pin, port, context, session, media or power operand out of its range. -/
theorem test_wf_refuses :
    ∀ c ∈ ([.srcLostSet .device, .datapathReset (.inBand 4096), .imgData .spi (2 ^ 32), .regWriteWord .spi 0x1000000 0,
      .rcRead .spi 2, .haltExit 4, .resetNRise 0 512 0, .resetNRise 0 0 512, .laneLock 0 [0, 1, 2], .laneLock 0 [0, 1, 2, 4],
      .linkFault 0 3, .pauseExpiry 0 (some 8), .put (2 ^ 64), .sessKill .spi 4096, .lgKeepaliveMiss 64, .dirCommit .spi 4,
      .dirRestore 131072, .matSearch .spi 1, .rodSlot (some (2 ^ 320)), .rodToken (2 ^ 20), .rodCheckDone [] [] [0] true,
      .rodCheckDone (List.replicate 33 0) [] [] true, .rodCheckDone [] (List.replicate 34 (2 ^ 17)) [] true, .journalRead 0 [2 ^ 40], .journalRd .spi [2 ^ 40],
      .segmentSealed 8, .segmentCompressed 8 [], .segmentChecked 0 0 (.soft 64),
      .kloadGo 512 0 0, .kloadGo 0 8 0, .kloadGo 0 0 256, .alarm 16 0, .alarm 1 16, .unlock 16, .groupCommit 10752,
      .stagingAgeTimer 12, .progFail 0 64, .gcReq .spi 10752, .patrolStep 0 0 (.lost 64 0 0), .patrolStep 0 0 (.rebuilt 64 0),
      .trigFire 4, .wdogKick 2, .pwrReq .spi 67 0, .pwrReq .spi 0 4, .clockLost 7, .railTrip 9 false, .thermalSample [],
      .thermalSiteFail 12, .actTimeout 2, .spiNop 0 256 0 0 0, .spiNop 0 0x3C 0 0 0, .spiRead 0 0x1000000 0 0,
      .spiRead 0 0 (2 ^ 32) 0, .spiWrite 0 0 0 256] : List Instr), c.wf = false := by decide +kernel

/-- WellFormed refuses a frame with a field out of its width, and takes one whose fields fit. -/
theorem test_wf_frames :
    (∀ f ∈ ([{ bare .other with port := 4 }, { bare .other with dst := 2 ^ 48 }, { bare .other with src := 2 ^ 48 },
      { bare .other with etherType := 65536 }, { bare .other with vlan := some (8, 0) }, { bare .other with vlan := some (0, 4096) },
      { bare .other with sec := some ⟨2 ^ 64, 0, 0, true⟩ }, { bare .other with sec := some ⟨0, 4, 0, true⟩ },
      { bare .other with sec := some ⟨0, 0, 2 ^ 64, true⟩ }, bare (.macControl 65536 0 0 (List.replicate 8 0)),
      bare (.macControl 1 65536 0 (List.replicate 8 0)), bare (.macControl 1 0 65536 (List.replicate 8 0)), bare (.macControl 1 0 0 []),
      bare (.macControl 1 0 0 [65536, 0, 0, 0, 0, 0, 0, 0]), bare (.arp true (2 ^ 48) 0 0), bare (.arp true 0 (2 ^ 32) 0),
      bare (.arp true 0 0 (2 ^ 32)), bare (.solicit (2 ^ 128) 0), bare (.solicit 0 (2 ^ 128)),
      bare (.neighbour (2 ^ 128) 0), bare (.neighbour 0 (2 ^ 48)),
      bare (.udp ⟨false, 2 ^ 32, 0, false, false, 0, 0, 8, false, true, []⟩),
      bare (.udp ⟨true, 0, 2 ^ 128, false, false, 0, 0, 8, false, true, []⟩),
      bare (.udp ⟨false, 0, 0, false, false, 65536, 0, 8, false, true, []⟩),
      bare (.udp ⟨false, 0, 0, false, false, 0, 65536, 8, false, true, []⟩),
      bare (.udp ⟨false, 0, 0, false, false, 0, 0, 65536, false, true, []⟩)] : List Frame), (Instr.rxFrame f).wf = false) ∧
    (∀ b ∈ ([.macControl 1 65535 0 (List.replicate 8 0), .solicit (2 ^ 128 - 1) 0, .otherIp false true true, .other] : List FrameBody),
      (Instr.rxFrame (bare b)).wf = true) ∧
    (∀ c ∈ ([.gcReq .firmware 0x3FFF, .regWriteWord (.inBand 4095) 0xFFFFFC 0xFFFFFFFF, .alarm 15 0, .alarm 0 15, .rodCheckDone (List.replicate 34 0) [] [] false, .patrolStep 0 0 (.altered [])] :
      List Instr), c.wf = true) := by decide +kernel

/-! ## Witnesses: starts, resets and power loss -/

/-- A device in service whose power-fail flush has reached a step. -/
def flushAt (n : Nat) : Dev := { up with life := { up.life with flush := .powerFail, flushStep := n } }

/-- StartBegins: no power; RESET_N low with rails in and out of range; rails that come into range with RESET_N high. -/
theorem test_startBegins :
    ({ Dev.blank with life := { Life.fresh with powered := false } } : Dev).life.powered = false ∧
    Dev.blank.life.powered = true ∧ Dev.blank.life.phase = .reset ∧ Dev.blank.pins.resetLow = true ∧
    (inPhase .reset).life.phase = .reset ∧ (inPhase .reset).pins.resetLow = false := by decide

/-- StartPhasesInOrder: every phase, with each setting of the straps that matters. -/
theorem test_startPhases :
    (inPhase .aon).inPhase .aon = true ∧ (inPhase .aon).tooHot = false ∧ (inPhase .aon).sup.pfIgnored = false ∧
    ({ (inPhase .aon) with life := { up.life with phase := .aon, pfWait := true } } : Dev).inPhase .aon = true ∧
    (inPhase .rom).inPhase .rom = true ∧ (inPhase .rom).life.bootSrc ≠ 3 ∧
    ({ (inPhase .rom) with life := { up.life with phase := .rom, bootSrc := 3 } } : Dev).inPhase .rom = true ∧
    (inPhase .fw).inPhase .fw = true ∧ (inPhase .mem).inPhase .mem = true ∧ (inPhase .media).inPhase .media = true ∧
    (inPhase .image).inPhase .image = true ∧ (inPhase .index).inPhase .index = true ∧
    (inPhase .metadata).inPhase .metadata = true ∧ (inPhase .ports).inPhase .ports = true ∧ up.inPhase .run = true ∧
    ({ up with pins := { up.pins with ready := false } } : Dev).inPhase .run = true ∧ up.life.datapathDown = false := by decide

/-- StartPhasesInOrder: no valid copy of the image. -/
theorem test_startNoCopy : ∃ e, (inPhase .image).checkCopy Secure.blank none = .error e :=
  ⟨_, rfl⟩

/-- PowerFailBegins: in service, in a start, and ignored. -/
theorem test_powerFail :
    up.life.powered = true ∧ up.life.phase = .run ∧ up.life.flush = .none ∧ up.sup.pfIgnored = false ∧
    (inPhase .recovery).life.powered = true ∧
    ({ up with sup := { up.sup with pfIgnored := true } } : Dev).sup.pfIgnored = true := by decide

/-- FlushEventsInOrder: every step, hot and cool, and the 12 ms mark. -/
theorem test_flushEvents :
    (∀ n ∈ ([2, 3, 4, 5, 6, 7, 8] : List Nat), (flushAt n).atStep n = true) ∧ (flushAt 5).metaDone = true ∧
    (flushAt 5).fmm.pf.isSome = true ∧ (flushAt 8).life.resetHeld = false ∧ (flushAt 8).life.overtime = false := by decide

/-- RailsLostAndHaltExit: power, no copy write, and HALT after a flush. -/
theorem test_railsLost :
    up.life.powered = true ∧ up.imgWin.state ≠ .store ∧ (flushAt 5).life.flush = .powerFail ∧
    ({ (flushAt 9) with life := { (flushAt 9).life with phase := .halt } } : Dev).life.powered = true := by decide

/-- ResetsBegin: a device with nothing in it, over SPI, and one with a session, in band. -/
theorem test_resetsBegin :
    up.life.powered = true ∧ up.mayReset = true ∧ up.reaches .spi = true ∧ up.life.datapathDown = false ∧
    up.cqe.queued = [] ∧ up.cqe.flights = [] ∧ up.sess = [] ∧
    (run up (cmd 0 0 [] [] [])).reaches (.inBand 0) = true := by decide

/-- ResetsEnd: each flush at its end, a datapath reset and a cores reset. -/
theorem test_resetsEnd :
    ({ up with life := { up.life with flush := .pin }, pins := { up.pins with resetLow := true } } : Dev).life.flush = .pin ∧
    ({ up with life := { up.life with flush := .device } } : Dev).life.phase ≠ .halt ∧
    ({ up with life := { up.life with flush := .shutdown } } : Dev).life.resetHeld = false ∧
    ({ up with life := { up.life with datapathDown := true } } : Dev).life.flush = .none ∧
    ({ up with life := { up.life with coresDown := true } } : Dev).ccOff = none ∧ up.fw.heldAct = none := by decide +kernel

/-- ImageWindow: the window in HOME, in RECV for SPI with its image whole and not, and writes that reach it. -/
theorem test_imageWindow :
    let recv := { up with imgWin := { ImgWindow.fresh with state := .recv, owner := some .spi, len := 400, rcvd := 400 } }
    let d := regs up [(0x4104, 400)]
    (∀ w ∈ ([1, 2, 4, 8] : List Nat), d.accepts Secure.blank .spi 0x4100 (d.setWord 0x4100 w) = true) ∧
    d.imgWin.state = .home ∧ imgLenOk (d.regF 0x4104 22 0) = true ∧ recv.accepts Secure.blank .spi 0x4108 5 = true ∧
    (∀ w ∈ ([2, 4, 8] : List Nat), recv.accepts Secure.blank .spi 0x4100 (recv.setWord 0x4100 w) = true) ∧
    recv.imgTarget = 0 ∧ recv.image = none := by decide +kernel

/-- ImageChecks: a check that fails, and a copy write. -/
theorem test_imageChecks :
    let d := { up with imgWin := { ImgWindow.fresh with state := .check, bytes := zeros 300, rcvd := 300 } }
    d.coreUp = true ∧ d.life.flush = .none ∧
    (match d.checkAll Secure.blank d.imgWin.bytes 300 false false with
      | .error e => e.code != 0
      | .ok _ => false) = true ∧
    ({ up with imgWin := { ImgWindow.fresh with state := .store, checked := some im0 } } : Dev).imgWin.checked = some im0 := by
  decide +kernel

/-- An image of 728 bytes, GEN 1 and FLOOR 1, with its five mandatory sections, signed with a test key: written from the format of
R29 and R32. -/
def goodImage : Bytes :=
  be 56 0x4145444300010040000002d80005000000000001000000010000166400000000000000000000000000000000000000000000000000000000 ++
  be 56 0x000000000000000000010001000000c00000009052a739700002000100000180000000200e1947b300040001000001c0000000103b1f481f ++
  be 56 0x0006000100000200000000086e5bd16c000700010000024000000014bcc5563e000000000000000000000000000000000000000000000000 ++
  be 56 0x0000000000000000000000000000000000000000000000000000e40005ee12b70800000002000000000100000a0000010000000000000000 ++
  be 56 0x00000000000000000000000002000000000200000a000002000000000000000000000000000000000000000002000000000300000a000003 ++
  be 56 0x000000000000000000000000000000000000000002000000000400000a000004000000000000000000000000000000000000000000000000 ++
  be 56 0x0000000000000000000000000000000000000000000000000000000000000000000000000000000000000000000000000040000400100010 ++
  be 56 0x00100010001000100010001001010101190003e8000000000000000000000000000000000000000000000000000000000000000000000000 ++
  be 56 0x0100020000000400000000000000000000000000000000000000000000000000000000000000000000000000000000000000000000000000 ++
  be 56 0x0000000000000000000fff000000000000000000000000000000000000000000000000000000000000000000000000000000000000000000 ++
  be 56 0x0000000000000000000000000000000000000000000000000000000000000000000000008e533b6fa0bf7b4625bb30667c01fb607ef9f8b8 ++
  be 56 0xa80fef5b300628703187b2a373eb1dbde03318366d069f83a6f5900053c73633cb041b21c55e1a86c1f400b4088bb9ff22ab291a74c86fc6 ++
  be 56 0x77ba897baadee370cc6129b82d170ba3fc26415c8ad2116a6a95dde01e030810da0ac89476f01eecdeb7371ba31719d4d49b5eaa6348ac7f

set_option maxRecDepth 1000000 in
/-- ImageChecks and StartPhasesInOrder: an image that passes every check, for an enrolled key and for one to be enrolled. -/
theorem test_goodImage :
    (up.checkAll Secure.blank goodImage 728 false true).isOk = true ∧ goodImage.length = 728 := by decide +kernel

set_option maxRecDepth 1000000 in
/-- StartPhasesInOrder: a valid copy of the image. -/
theorem test_goodCopy :
    let nv := { Secure.blank with authority := some (sha256 (slice goodImage (728 - 132) 64)) }
    ((inPhase .image).checkCopy nv (some goodImage)).isOk = true := by decide +kernel

/-! ## Witnesses: ports -/

/-- An image with all four ports in use, of mode Q10. -/
def im1 : Image :=
  { im0 with port := { im0.port with
      laneMap := 0xE4, ports := List.replicate 4 ⟨0x020000000001, 0, 0x0A000002, 0, 0, 0⟩ } }

/-- A device whose port 0 is changed. -/
def port0 (d : Dev) (f : Port → Port) : Dev := d.modPort 0 f

/-- A device whose port 0 is in a link state. -/
def linked (x : LinkState) : Dev := port0 (withImage up im1) fun p => { p with link := x }

/-- LinkStates: each state that an event leaves, signal on the lanes, and a lane of port 0 that inverts by itself. -/
theorem test_linkStates :
    let sig := withImage up im1
    ((sig.port 0).link = .down ∧ sig.portMayRun 0 = true) ∧ ((linked .seek).port 0).link = .seek ∧
    (((linked .hold).port 0).link = .hold ∧ ((linked .hold).port 0).hiBer = false ∧ ((linked .hold).port 0).localFault = false) ∧
    ((linked .up).port 0).link.linked = true ∧ ((linked .rfault).port 0).link.linked = true ∧
    ((linked .up).portOfLane 0 = some 0 ∧ ((linked .up).port 0).link ≠ .down) ∧ ((linked .rfault).port 0).link = .rfault ∧
    (up.regF 0x18010 24 24 = 1 ∧ ((linked .seek).lane 0).locked = false ∧ ((linked .seek).lane 0).kept = false ∧
      (linked .hold).portMode = 0) := by decide +kernel

/-- A frame of 64 bytes for port 0's own address. -/
def frame (etherType : Nat) (body : FrameBody) : Frame :=
  { port := 0, len := 64, fcsOk := true, errorBlock := false, fecCorr := 0, fecUncorr := 0, dst := 0x0180C2000001, src := 5, vlan := none, etherType := etherType,
    sec := none, body := body }

/-- A device in service with port 0 UP that honours PAUSE, and every PFC priority. -/
def served : Dev := regs (linked .up) [(epReg 0 0xC, 0x1FF)]

/-- FramesAreSorted: each kind of bad frame, one the filter rejects, a PAUSE and a PFC frame. -/
theorem test_framesAreSorted :
    (served.port 0).admits = true ∧ served.epOn 0 = true ∧ served.maxLen 0 < 9300 ∧ (frame 0x8808 .other).port < 4 ∧ 64 ≤ (frame 0x8808 .other).len ∧
    (frame 0x8808 .other).len ≤ served.maxLen 0 ∧
    served.mine 0 { frame 0x0800 .other with dst := 0x020000000077 } = false ∧
    served.mine 0 (frame 0x8808 (.macControl 1 77 0 [])) = true ∧ served.regF (epReg 0 0xC) 8 8 = 1 ∧
    served.mine 0 (frame 0x8808 (.macControl 0x101 0 3 [5, 0])) = true ∧ bit 3 0 = true ∧
    bit (served.regF (epReg 0 0xC) 7 0) 0 = true := by decide +kernel

/-- A device in service on port 0 with session 0, its classification entry, and room for 64 sessions. -/
def hosted (s : Sess) : Dev :=
  ({ (regs served [(0x20000, 4791 * 65536 + 64), (epReg 0 0x2C, 0x0200), (epReg 0 0x30, 1)]) with
    sess := [(0, s)] }).classInstall tuple 0

/-- A DKT header of session 0, epoch 1. -/
def hdr (type seq : Nat) : DktHdr :=
  { DktHdr.blank type with session := 0, epoch := 1, seq := seq, ack := 20, limit := 200 }

/-- A datagram of session 0's tuple. -/
def datagram (payload : Bytes) : Datagram :=
  { v6 := false, src := 0x0A000001, dst := 0x0A000002, fragment := false, options := false, srcPort := 5000, dstPort := 4791,
    udpLen := 8 + payload.length, csumZero := false, csumOk := true, payload := payload }

/-- SessionPacketsAreKept: an ACK of session 0. -/
theorem test_sessionPackets :
    let g := datagram (hdr 1 10).bytes
    let d := hosted (sess 1)
    let f := { frame 0x0800 (.udp g) with dst := 0x020000000001, len := 100 }
    let h := DktHdr.ofBytes g.payload
    (d.port 0).admits = true ∧ f.len ≤ d.maxLen 0 ∧ d.mine 0 f = true ∧ d.macsecOn 0 = false ∧
    f.sec = none ∧ ceilDiv f.len 256 ≤ d.cellsFree ∧ d.keySession (keyOf 0 0 g) = some 0 ∧ d.ownIp 0 false g.dst = true ∧ g.dstPort = d.regF 0x20000 31 16 ∧ d.domOn 45 = true ∧
    classOf (d.search d.profile0 (classWord (keyOf 0 0 g))) = .session 0 ∧ (d.session 0).isSome = true ∧
    32 ≤ g.payload.length ∧ crc32c (g.payload.take 28) = num g.payload 28 4 ∧ num g.payload 0 1 / 16 = 1 ∧ h.type ≤ 9 ∧
    h.payLen + 40 = g.udpLen ∧ h.type ≠ 2 ∧ h.type ≠ 9 ∧ (sess 1).wireErr h = none := by decide +kernel

/-- An active transmit association. -/
def activeSa : Sa :=
  { state := .active, slot := 3, key := ⟨1, []⟩, xpn := false, pn := 7, next := 0, nextEn := false, win := 0, ssci := 0, salt := 0 }

/-- TransmissionAndPauses: a queued frame of each kind, a paused port, XOFF, an underrun and the register writes. -/
theorem test_transmission :
    let f : TxFrame := ⟨5, 0, 100, .dkt 0 false 1 2 3 4 []⟩
    let c : TxFrame := ⟨0x0180C2000001, 0, 64, .pause 9⟩
    let d := port0 served fun p => { p with txq := [f] }
    let paused := port0 served fun p => { p with txq := [f, c], pauseLeft := 3 }
    ((d.port 0).nextFrame = some (f, []) ∧ d.macsecOn 0 = false) ∧
    ((paused.port 0).nextFrame = some (c, [f]) ∧ (paused.port 0).pauseLeft ≠ 0 ∧
      ({ paused with cycles := 5 } : Dev).cycles ≠ (paused.port 0).pauseSince ∧ d.epOn 0 = true) ∧
    ({ served with belowXoff := true } : Dev).flowControls 0 = true ∧
    (let low := { served with belowXoff := true, cellsHeld := 65536 }; low.cellsFree < low.regF 0x1800C 31 16) ∧
    ((port0 served fun p => { p with pfcLeft := [(2, 9)] }).port 0).pfcLeft.find 2 = some 9 ∧
    (let s100 := port0 (withImage (regs served [(0x10004, 0x10000 + 2048)]) { im0 with port := { im0.port with mode := 3 } })
        fun p => { p with current := some ⟨{ f with len := 9000 }, 0, none⟩, ctCur := 2048 }
     s100.portMode = 3 ∧ s100.regF 0x10004 16 16 = 1 ∧ (s100.port 0).ctCur < 9000 ∧ (s100.onWire 0).isSome = true) ∧
    (let sec := withImage d { im0 with port := { im0.port with macsecEn := 1 } }
     sec.macsecOn 0 = true ∧ sec.activeSa 0 = none ∧
       ({ sec with sec := { sec.sec with sas := [(1, activeSa)] } } : Dev).activeSa 0 = some (1, activeSa)) ∧
    served.accepts Secure.blank .spi 0x10004 (served.setWord 0x10004 0x20000) = true ∧
    (∀ n < 4, served.accepts Secure.blank .spi (epReg n 0x20) 1 = true) := by decide +kernel

/-! ## Witnesses: Dialur Key Transport and the command engine -/

/-- A packet of the host's tuple. -/
def pkt (h : DktHdr) (session : Option Nat) (payload : Bytes) : RxPkt :=
  { key := tuple, dstIp := 0x0A000002, srcMac := 5, hdr := h, payload := payload, cells := 1, session := session }

/-- A device that has received a packet, number 9. -/
def got (d : Dev) (k : RxPkt) : Dev := { d with rx := [(9, k)] }

/-- Whether a packet out of the pool is one of session 0. -/
def isOf (d : Dev) (k : RxPkt) : Bool :=
  match d.sessionOf k with
  | .ok n => n == 0
  | .error _ => false

/-- A device in service without sessions, with room for 64 and a credential in key slot 5. -/
def guarded : Dev :=
  let d := regs served [(0x20000, 4791 * 65536 + 64)]
  { d with sec := { d.sec with slots := [(5, ⟨4, 7, [⟨1, zeros 32⟩]⟩)] } }

/-- The payload of an OPEN: CN, slot 5, privileges, a window. -/
def openPay (priv win : Nat) : Bytes := zeros 16 ++ be 2 5 ++ be 1 priv ++ zeros 1 ++ be 2 win ++ zeros 10

/-- OpenIsChallenged: the admin privilege with the smallest window, and another with the largest. -/
theorem test_openIsChallenged :
    ∀ a ∈ ([(1, 1), (6, 1024)] : List (Nat × Nat)),
      let d := got guarded (pkt (hdr 2 10) none (openPay a.1 a.2))
      let p := openPay a.1 a.2
      d.admits = true ∧ d.keySession tuple = none ∧ p.length = 32 ∧ d.league.role = 0 ∧ d.credential (num p 16 2) = some (7, ⟨1, zeros 32⟩) ∧
      1 ≤ num p 18 1 ∧ num p 18 1 < 32 ∧ num p 18 1 &&& 7 = num p 18 1 ∧ d.halfOpen < 256 ∧ d.freeId = some 0 ∧
      (bit (num p 18 1) 0 = true ∨ d.regF 0x20004 6 0 < d.freeIds) ∧ d.classFree tuple = true ∧ num p 20 2 = a.2 := by
  decide +kernel

/-- A session that has been challenged, with the key of its OPEN. -/
def challenged : Sess := { sess 7 with state := .challenged, slot := 5, bound := some ⟨1, zeros 32⟩, privReq := 7, dn := zeros 16 }

/-- The payload of an OPEN_TICKET for League member 0, some minutes ahead. -/
def ticketPay (priv : Nat) : Bytes :=
  let h := be 1 0 ++ be 1 priv ++ be 2 0 ++ be 8 1000000000000
  let mt := [0x44, 0x4B, 0x54, 0x31] ++ h ++ zeros 10 ++ [0xFF, 0xFF] ++ be 4 0x0A000001 ++ be 2 5000
  h ++ (hmac256 (zeros 32) mt).take 16 ++ be 2 64 ++ zeros 2

/-- A League's head whose ticket key is in slot 5. -/
def headed : Dev :=
  let d := withImage guarded { im1 with league := { im1.league with role := 1, ticketSlot := 5 } }
  { d with sec := { d.sec with slots := [(5, ⟨3, 0, [⟨1, zeros 32⟩]⟩)], time := { d.sec.time with state := .synced } } }

set_option maxRecDepth 100000 in
/-- SessionsAreEstablished: a challenged session and proofs right and wrong; a good ticket. -/
theorem test_sessionsAreEstablished :
    (let d := hosted challenged
     d.admits = true ∧ isOf d (pkt (hdr 4 10) (some 0) []) = true ∧ challenged.opener = false ∧ challenged.state = .challenged ∧
     challenged.bound = some ⟨1, zeros 32⟩ ∧
     zeros 32 ≠ proofOf (zeros 32) challenged.cn challenged.dn challenged.epoch 0 challenged.slot 7 challenged.hostIsn) ∧
    (let k := pkt (hdr 9 10) none (ticketPay 6)
     let d := got headed k
     let p := k.payload
     d.admits = true ∧ d.keySession k.key = none ∧ p.length = 32 ∧ d.ticketCause k = none ∧ d.freeId = some 0 ∧ d.regF 0x20004 6 0 < d.freeIds ∧
     d.classFree k.key = true ∧ 1 ≤ num p 28 2 ∧ num p 28 2 ≤ 1024) := by decide +kernel

/-- OwnOpens: a session that this device opens, before and after CHALLENGE. -/
theorem test_ownOpens :
    let s := { challenged with opener := true, state := .opening }
    (hosted s).admits = true ∧ isOf (hosted s) (pkt (hdr 3 10) (some 0) []) = true ∧
    s.bound = some ⟨1, zeros 32⟩ ∧ s.state = .opening ∧
    ({ s with state := .challenged } : Sess).state = .challenged ∧
    slice (zeros 40) 8 32 ≠ dproofOf (zeros 32) s.dn s.cn s.wireEpoch s.wireId 0 s.devIsn := by decide +kernel

/-- A whole-message header of a request on a queue. -/
def whole (queue : Nat) : DktHdr := { hdr 0 10 with som := true, eom := true, queue := queue, tag := 7, limit := 200 }

/-- A GET of key 0x61 in namespace 1. -/
def getReq : Bytes := be 8 0x0100000101000000 ++ zeros 8 ++ [0x61]

/-- A DELETE of the same key. -/
def deleteReq : Bytes := be 8 0x0300000101000000 ++ zeros 8 ++ [0x61]

/-- The GET wrapped in LG_RELAY, or the DELETE in LG_REPLICATE. -/
def wrapped (op : Nat) : Bytes :=
  be 1 op ++ zeros 4 ++ be 1 (if op = 0x6D then 24 else 0) ++ zeros 2 ++ be 4 17 ++ zeros 4 ++ zeros (if op = 0x6D then 24 else 0) ++ (if op = 0x6D then getReq else deleteReq)

/-- A League session and a device in a League that holds it. -/
def leagueSess : Sess := { sess 0x80 with league := true }
def hostedL : Dev :=
  withImage (hosted leagueSess) { im1 with league := { im1.league with role := 3 } }

/-- RequestsAreQueuedOnce: a bare request, both wrapped ones, and packets before and beyond the window. -/
theorem test_requestsAreQueuedOnce :
    (∀ x ∈ ([(hosted (sess 4), sess 4, 1, getReq), (hostedL, leagueSess, 7, wrapped 0x6D),
        (hostedL, leagueSess, 7, wrapped 0x6C)] : List (Dev × Sess × Nat × Bytes)),
      let k := pkt (whole x.2.2.1) (some 0) x.2.2.2
      let d := got x.1 k
      let a := arrivalOf k.payload
      d.admits = true ∧ isOf d k = true ∧ d.session 0 = some x.2.1 ∧ (x.2.2.1 = 7 → x.2.1.league = true) ∧ k.hdr.seq = x.2.1.rxNext ∧ seqLe k.hdr.seq x.2.1.advLimit = true ∧
      d.messageRefusal x.2.1 k.hdr.queue 7 k.payload.length a true = none ∧ k.payload.length = a.outer.total ∧
      d.noRoom (cmdOf 0 k.hdr.queue 7 a.req true a.mirror 1) = 0) ∧
    num (wrapped 0x6D) 0 1 = 0x6D ∧ num (wrapped 0x6C) 0 1 = 0x6C ∧
    seqLt 9 (sess 4).rxNext = true ∧ seqLt 101 (sess 4).rxNext = false ∧ seqLe 101 (sess 4).advLimit = false := by
  decide +kernel

/-- AcknowledgementsAndKeepalives: a packet held for retransmission, at the retries' boundary. -/
theorem test_acknowledgements :
    let p : TxPkt := ⟨19, 0, true, true, 1, 7, 0, [], false⟩
    let s := { sess 4 with unacked := [p] }
    (hosted s).admits = true ∧ seqLt s.una 20 = true ∧ seqLe 20 s.txNext = true ∧ s.key.port < 4 ∧ s.retries < 12 ∧
    12 ≤ ({ s with retries := 12 } : Sess).retries ∧ s.out = [] ∧ s.ackedAt ≠ some (hosted s).cycles ∧
    (hosted s).epOn s.key.port = true ∧ isOf (hosted s) (pkt (hdr 1 10) (some 0) []) = true := by decide +kernel

/-- SessionsEnd: a challenged, an established and a draining session, the key word, and a CLOSE with nothing left. -/
theorem test_sessionsEnd :
    (hosted challenged).admits = true ∧ challenged.state = .challenged ∧ (sess 1).state = .established ∧ (sess 1).heardAt = none ∧
    (hosted (sess 1)).accepts Secure.blank .spi 0x20018 (0xD1A10000 + 0) = true ∧
    (hosted (sess 1)).accepts Secure.blank .spi 0x20018 (0xD1A10000 + 4095) = true ∧
    (let s := sess 1
     let h := hdr 8 10
     isOf (hosted s) (pkt h (some 0) []) = true ∧ s.inMsgs = [] ∧ h.seq = s.rxNext ∧ seqLe h.seq s.advLimit = true ∧ seqLe s.txNext s.txLimit = true ∧ h.ack = s.txNext ∧
     h.limit = s.txLimit ∧ (hosted s).cqe.queued = [] ∧ (hosted s).cqe.flights = []) := by decide +kernel

/-- DispatchAndTimeouts: a queued CAPS, which needs nothing, and queued commands with a TIMEOUT and without. -/
theorem test_dispatch :
    let d0 := hosted (sess 31)
    let c := { cmd 0x59 0 [] [] [] with queue := 6 }
    let d := { d0 with cqe := { d0.cqe with queued := [(3, c)] } }
    d.dispatches = true ∧ (d.ctxWatch.choose).1 = some (3, c, 6) ∧ d.choose.1.isSome = true ∧ d.dispatchRefusal c = none ∧ d.places c = false ∧
    d.admits = true ∧ d.cqe.paused = false ∧ d.life.coresDown = false ∧ c.timeout = 0 ∧
    ({ c with timeout := 5 } : Cmd).timeout ≠ 0 := by decide +kernel

/-! ## Witnesses: Hash and Extent values -/

/-- A namespace of a type, neither compressed nor sealed. -/
def space (id type : Nat) : Namespace :=
  { entry := ⟨id, type, 0, 0, 0, 16, 0, 1, if type = 2 then 4 else 0, if type = 3 then 1 else 0, []⟩, comp := 0, depth := 0, noGain := 16, cls := 1, createVer := 3, salt := [],
    state := .active, order := 0, sweepStart := none, lastVersion := 0, keyGen := 0 }

/-- A device in service with its index READY, a namespace of each type, 1 to 4, and some values of keys, each at its
LOC. -/
def storing (l : List (Nat × Value)) : Dev :=
  let d := { hosted (sess 31) with nss := [(1, space 1 0), (2, space 2 1), (3, space 3 2), (4, space 4 3)] }
  let d := { d with idx := { d.idx with state := .ready } }
  l.foldl (fun (d : Dev) x =>
    let seg := if x.2.kind = 2 then some x.2.segNo else none
    let p := d.placeOf x.2.ns x.2.key seg
    { d with
      idx := { d.idx with slots := d.idx.slots.put (p.u1 * 28) ⟨p.sig, x.1, seg.isSome, x.2.ns⟩, used := d.idx.used + 1 }
      fmm := { d.fmm with values := d.fmm.values.put x.1 x.2 } }) d

/-- A stored value of key 0x61 with one raw segment, none for an empty one. -/
def val (ns kind : Nat) (b : Bytes) : Value :=
  { kind := kind, ns := ns, key := [0x61], enc := false, version := 5, valueLen := b.length, keyGen := 0, createVer := 3, segNo := 0
    segs := if b.isEmpty then [] else [⟨0, [], crc32c b, 0, b⟩] }

/-- A LOC in Bushel 20. -/
def loc0 : Nat := 20 * 2 ^ 25 + 128

/-- A device that holds one value and has dispatched a command. -/
def asked (v : Value) (c : Cmd) : Dev := run (storing [(loc0, v)]) c

/-- ReadsAnswer: each read of a key that is present, absent and empty; ITERATE with a good and a bad cursor. -/
theorem test_readsAnswer :
    (∀ op ∈ ([0x01, 0x06, 0x04] : List Nat),
      let there := asked (val 1 0 [1, 2, 3]) (cmd op 1 (be 8 1 ++ be 4 9) [0x61] [])
      let gone := asked (val 1 0 [1, 2, 3]) (cmd op 1 (be 8 1 ++ be 4 9) [0x62] [])
      (there.fresh 3 op).isSome = true ∧ there.activeNs 1 = some (space 1 0) ∧ there.idxOff = none ∧
      ({ there with idx := { there.idx with state := .off } } : Dev).idxOff = some 63 ∧
      (there.lookup ⟨1, [0x61], none, none⟩ []).hit.map (fun x => x.2.2) = some (val 1 0 [1, 2, 3]) ∧
      there.headerOff loc0 (val 1 0 [1, 2, 3]) = none ∧
      needsDz (readJobOf loc0 (val 1 0 [1, 2, 3]) 0 3).segs = false ∧ there.badHeaders [] = [] ∧
      (gone.fresh 3 op).isSome = true ∧ (gone.lookup ⟨1, [0x62], none, none⟩ []).hit.isNone = true) ∧
    (let d := asked (val 1 0 []) (cmd 1 1 [] [0x61] [])
     (d.lookup ⟨1, [0x61], none, none⟩ []).hit.map (fun x => x.2.2.valueLen) = some 0) ∧
    (let d := asked (val 2 1 [1, 2, 3]) (cmd 0x11 2 (be 8 0 ++ be 4 9) [0x61] [])
     (d.fresh 3 0x11).isSome = true ∧ (d.lookup ⟨2, [0x61], none, none⟩ []).hit.isSome = true ∧
     (d.lookup ⟨2, [0x61], some 0, some 3⟩ []).hit.isNone = true ∧ (d.lookup ⟨2, [0x61], some 0, some 3⟩ []).bad = []) ∧
    (let d := asked (val 1 0 [1]) (cmd 0x07 1 (be 8 0 ++ be 2 9 ++ be 2 0) [] [])
     (d.fresh 3 0x07).isSome = true ∧ cursorOk (space 1 0) 0 = true ∧ cursorOk (space 1 0) 5 = false) := by decide +kernel

/-- A read of one or two segments of a value. -/
def reading (n : Nat) : Dev :=
  let v := val 1 0 [1, 2, 3]
  let x : ReadSeg :=
    { no := 0, loc := loc0, src := some v, idx := 0, off := 0, len := 3, pre := [], post := [], detail := 0, ready := none, stop := none }
  running (storing [(loc0, v)]) ⟨cmd 1 1 [] [0x61] [], 1, 0, [], false, false, .read
    { segs := List.replicate n x, raw := false, flags := 0, version := 5, param := [], total := 3, sent := false, delivered := 0 }⟩

/-- ReadSegmentsAreChecked: a segment that passes, alone and behind another, and one that is damaged. -/
theorem test_readSegments :
    let v := val 1 0 [1, 2, 3]
    (match (reading 1).checkedSeg ⟨3, 0, 0⟩ loc0 v 0 .good with
      | (.pass p _, _) => p == [1, 2, 3]
      | _ => false) = true ∧
    (match (reading 1).checkedSeg ⟨3, 0, 0⟩ loc0 { v with segs := [⟨0, [], 0, 0, [1, 2, 3]⟩] } 0 .good with
      | (.pass _ _, _) => false
      | _ => true) = true ∧
    ((reading 2).flight 3).isSome = true ∧ (reading 1).reclaimed v = false ∧
    (reading 1).mayCheck (v.need 0 ⟨3, 0, 0⟩) = true := by decide +kernel

/-- WritesBegin: each write on a key that is present and absent, at the version that CAS_PUT expects and another, and
with the index full; a good and a bad QUIRE; a FLUSH. -/
theorem test_writesBegin :
    (∀ x ∈ ([(0x02, 1, []), (0x05, 1, be 8 5), (0x03, 1, []), (0x10, 2, be 8 0), (0x12, 2, be 8 0 ++ be 8 65536)] :
        List (Nat × Nat × Bytes)),
      let v := if x.2.1 = 2 then val 2 1 [1, 2, 3] else val 1 0 [1, 2, 3]
      let d := asked v (cmd x.1 x.2.1 x.2.2 [0x61] [])
      (d.fresh 3 x.1).isSome = true ∧ (d.activeNs x.2.1).any (fun n => (d.writeRefusal (fresh (cmd x.1 x.2.1 x.2.2 [0x61] [])) n).isNone) = true ∧ d.idxOff = none ∧
      (d.root x.2.1 [0x61]).map (fun r => r.2.2.version) = some 5 ∧ (d.root x.2.1 [0x62]).isNone = true ∧
      ¬ idxLimit ≤ d.idx.used ∧
      idxLimit ≤ ({ d with idx := { d.idx with used := 1500000000 } } : Dev).idx.used ∧
      (({ d with fmm := { d.fmm with exhausted := true } } : Dev).writeRefusal (fresh (cmd x.1 x.2.1 x.2.2 [0x61] [])) (space 1 0)).isSome = true) ∧
    (let sub := be 8 0x0200000101000000 ++ be 4 1 ++ zeros 4 ++ [0x61, 9] ++ zeros 6
     let d := asked (val 1 0 [1]) { cmd 0x30 0 (be 4 0x01000000) [] sub with queue := 1 }
     let bad := { d with nss := [] }
     (subRecords 1 0 sub).isOk = true ∧ (d.fresh 3 0x30).isSome = true ∧
     (match subRecords 1 0 sub with
      | .ok l => (d.quireOps (fresh (cmd 0x30 0 [] [] [])) 0 [] l).isOk && !(bad.quireOps (fresh (cmd 0x30 0 [] [] [])) 0 [] l).isOk
      | .error _ => false) = true) ∧
    (let d := asked (val 1 0 [1]) (cmd 0x38 0 [] [] [])
     (d.fresh 3 0x38).isSome = true ∧ d.channelOff = none) := by decide +kernel

/-- A write of 64 bytes 0x61 to key 0x61 of namespace 1, whose segment is at a stage. -/
def writing (stage : SegStage) : Dev :=
  let d := storing []
  let b := List.replicate 64 0x61
  let seg := { SegWork.ofBytes 0 b with stage := stage, body := b }
  let o := { WOp.empty 0x02 0 1 [0x61] none 64 with segs := [seg] }
  running d ⟨cmd 2 1 [] [0x61] b, 1, 0, [], false, false, .write { WriteJob.start [o] false 0 with cut := 1 }⟩

/-- WritesCommit: a write whose segment is in place, while the index is ready, held and gone. -/
theorem test_writesCommit :
    let d := writing .placed
    (match d.flight 3 with
      | some f => f.write.any fun w => w.complete f.cmd && w.phase == .building
      | none => false) = true ∧ d.idxOff = none ∧ d.idx.held = false ∧
    (let held := { d with idx := { d.idx with run := some ⟨CommitPage.fresh, [], 0, 0⟩, nextPos := 16384 * 128 } }
     held.idx.held = true ∧ held.idxOff = none) ∧
    ({ d with idx := { d.idx with state := .off } } : Dev).idxOff = some 63 ∧ (d.drawCtr).1 = some 1 ∧
    ({ d with vpl := { d.vpl with wctr := wctrLast + 1 } } : Dev).drawCtr.1 = none := by decide +kernel

/-- PipelineStages: a segment in an engine, one that its stream fits in, and a segment in a lane. -/
theorem test_pipelineStages :
    let hold : EngineHold := ⟨3, 0, 0⟩
    let x := (writing (.compressing 0 16 1 64))
    let d := { x with vpl := { x.vpl with cz := [(0, hold)], ae := [(0, hold)] } }
    (d.segOf hold).isSome = true ∧ d.vpl.cz.find 0 = some hold ∧ d.vpl.ae.find 0 = some hold ∧
    czOutput 1 64 (List.replicate 64 0x61) [0x4B, 0x4C, 0xA4, 0x0C, 0x00, 0x00] = true ∧
    inflate [0x4B, 0x4C, 0xA4, 0x0C, 0x00, 0x00] = some (List.replicate 64 0x61) ∧
    czOutput 1 64 (List.replicate 64 0x61) [7] = false ∧ cutValue [9] ≠ [] := by decide +kernel

/-! ## Witnesses: Furlong, Fathom, Chain, namespaces, the index and the journal -/

/-- A device that stores records of stream 0 at times 100 and 101, and has dispatched a command. -/
def streaming (c : Cmd) : Dev :=
  let v := fun (t : Nat) => { val 3 3 [9] with key := be 2 0 ++ be 8 t ++ be 4 t }
  let d := storing []
  run { d with
    fmm := { d.fmm with values := [(loc0, v 100), (loc0 + 9, v 101)] }
    cap := { d.cap with streams := [(streamKey 3 0, ⟨100, 2⟩)] } } c

/-- FurlongAndFathom: appends at and before the last TIME; scans that are backward, empty and not; pins with and without a
free window; releases of a window that is held and of one that is not; and commands that wait for the table. -/
theorem test_furlongAndFathom :
    (∀ t ∈ ([100, 99] : List Nat),
      let d := streaming (cmd 0x20 3 (zeros 4 ++ be 8 t) [] [9])
      (d.fresh 3 0x20).isSome = true ∧ d.activeNs 3 = some (space 3 2) ∧ d.writeRefusal (fresh (cmd 0x20 3 (zeros 4 ++ be 8 t) [] [9])) (space 3 2) = none ∧
      (d.cap.streams.getD (streamKey 3 0) ⟨0, 0⟩).last = 100) ∧
    (let scan := fun (a b n : Nat) => streaming (cmd 0x21 3 (zeros 8 ++ be 8 a ++ be 8 b ++ be 4 n ++ zeros 4) [] [])
     ((scan 101 100 9).fresh 3 0x21).isSome = true ∧ (scan 200 200 9).streamRecs 3 0 0 200 200 = [] ∧
     ((scan 100 101 1).streamRecs 3 0 0 100 101).length = 2) ∧
    (let d := streaming (cmd 0x22 0 (zeros 8 ++ be 4 5 ++ be 4 6) [] [])
     let full := { d with cap := { d.cap with windows := (List.range 16).map fun w => (w, (⟨0, 1, 1, 1, 0, 0⟩ : Window)) } }
     (d.fresh 3 0x22).isSome = true ∧ d.freeWindow = some 0 ∧ full.freeWindow = none) ∧
    (let d := streaming (cmd 0x23 0 (zeros 4) [] [])
     let held := { d with cap := { d.cap with windows := [(0, ⟨0, 1, 1, 1, 0, 0⟩)] } }
     (d.fresh 3 0x23).isSome = true ∧ d.releasing 0 = false ∧ d.cap.windows.has 0 = false ∧ held.cap.windows.has 0 = true) ∧
    (let d := running (storing []) ⟨cmd 0x23 0 (zeros 4) [] [], 1, 0, [], false, false, .window 0 (some 0)⟩
     d.mediaOn = true ∧ (d.flight 3).any (fun f => f.job = .window 0 (some 0)) = true) := by decide +kernel

/-- A device with the keys of Chains and a ledger, that has dispatched a command; its time is trusted and two days. -/
def chained (l : Ledger) (c : Cmd) : Dev :=
  let d := storing []
  run { d with
    sec := { d.sec with
      slots := [(im1.league.ticketSlot, ⟨3, 0, [⟨1, zeros 32⟩]⟩)], ik := some 1
      time := { d.sec.time with state := .synced, fs := 172800 * 10 ^ 15 } }
    cap := { d.cap with ledgers := [(4, l)] } } c

/-- An empty ledger, and one with an entry 0, and a seal or an entry 1, of some time. -/
def noRecs : Ledger := ⟨0, 0, 0, zeros 32, [], false, false, false⟩
def twoRecs (sealed : Bool) (t : Nat) : Ledger :=
  ⟨2, 0, 0, zeros 32, [(0, ⟨loc0, t, 1, 105, false, zeros 32⟩), (1, ⟨loc0 + 9, t, 1, 105, sealed, zeros 32⟩)], false, false, false⟩

/-- ChainCommands: appends below and at the last sequence; reads that find records and none; seals of a Chain with a
due seal, one that ends in a seal, one that ends in an entry and an empty one; and expiries of each outcome. -/
theorem test_chainCommands :
    (let d := chained noRecs (cmd 0x28 4 [] [] [9])
     (d.fresh 3 0x28).isSome = true ∧ d.activeNs 4 = some (space 4 3) ∧ d.chainRefusal false = none ∧
     d.writeRefusal (fresh (cmd 0x28 4 [] [] [9])) (space 4 3) = none ∧
     noRecs.next < lastSeq ∧ lastSeq ≤ ({ noRecs with next := lastSeq, ended := true } : Ledger).next) ∧
    (let d := fun (n : Nat) => chained (twoRecs true 1) (cmd 0x29 4 (be 8 n ++ be 4 5) [] [])
     ((d 1).fresh 3 0x29).isSome = true ∧ max 1 (twoRecs true 1).first ≤ 1 ∧ (d 2).ledger 4 = twoRecs true 1) ∧
    (let d := chained noRecs (cmd 0x2A 4 [] [] [])
     (d.fresh 3 0x2A).isSome = true ∧ d.chainRefusal true = none ∧ ({ noRecs with next := 1 } : Ledger).dueCause = none ∧ noRecs.dueCause = some 0 ∧
     ({ noRecs with sealDue := true } : Ledger).dueCause.isSome = true ∧ (twoRecs true 1).dueCause = none ∧
     (twoRecs true 1).lastRec.any (fun x => x.2.sealRec) = true ∧ (twoRecs false 1).lastRec.any (fun x => !x.2.sealRec) = true ∧
     ({ noRecs with next := 1 } : Ledger).lastRec = none ∧ noRecs.next ≤ lastSeq) ∧
    (let d := fun (l : Ledger) (n : Nat) => chained l (cmd 0x2B 4 (be 8 n) [] [])
     ((d noRecs 0).fresh 3 0x2B).isSome = true ∧ (d noRecs 0).chainRefusal true = none ∧ (d noRecs 0).keyRefusal (fresh (cmd 0x2B 4 (be 8 0) [] [])) (space 4 3) = none ∧
     5 < ({ twoRecs true 1 with first := 6 } : Ledger).first ∧
     (d (twoRecs true 1) 0).expirable 1 0 (twoRecs true 1).recs = 1 ∧
     (d (twoRecs true 1) 1).expirable 1 1 (twoRecs true 1).recs = 2 ∧
     (d (twoRecs true 172800000000000) 1).expirable 1 1 (twoRecs true 172800000000000).recs = 0 ∧
     (d noRecs 0).channelOff = none) := by decide +kernel

/-- The parameter block of NS_CREATE for a Hash namespace. -/
def createParam (id : Nat) : Bytes := nsEntryBytes { (space id 0).entry with name := padTo 32 [0x61] }

/-- NamespaceCommands: creations that are bad, good and refused; table writes of each kind; deletions; queries; the end
of a purge; and policy words at the ends of their ranges and beyond. -/
theorem test_namespaceCommands :
    (let d := fun (p : Bytes) => asked (val 1 0 [1]) { cmd 0x40 0 p [] [] with queue := 6 }
     ((d (createParam 9)).fresh 3 0x40).isSome = true ∧ (createEntry (createParam 9)).isSome = true ∧
     (createEntry (createParam 0)).isSome = true ∧ createEntry (zeros 64 ++ [1]) = none ∧
     (createEntry (createParam 9)).any (fun e => ((d []).createRefusal e).isNone) = true ∧
     (createEntry (createParam 1)).any (fun e => ((d []).createRefusal e).isSome) = true ∧ (d []).vpl.wctr ≤ wctrLast) ∧
    (let d := asked (val 1 0 [1]) { cmd 0x41 1 [] [] [] with queue := 6 }
     (d.fresh 3 0x41).isSome = true ∧ d.activeNs 1 = some (space 1 0) ∧ d.deleteRefusal 1 (space 1 0) = none ∧
     ((chained (twoRecs true 172800000000000) (cmd 0x41 4 [] [] [])).deleteRefusal 4 (space 4 3)).isSome = true) ∧
    (let d := fun (n : Nat) => asked (val 1 0 [1]) { cmd 0x42 n [] [] [] with queue := 6 }
     ((d 0).fresh 3 0x42).isSome = true ∧ (d 1).ns 1 = some (space 1 0) ∧ (d 9).ns 9 = none) ∧
    (∀ j ∈ ([.nsCreate (space 9 0).entry, .nsDelete] : List Job),
      ((running (storing []) ⟨cmd 0x41 1 [] [] [], 6, 0, [], false, false, j⟩).flight 3).any (fun f => f.job = j) = true) ∧
    (let d := storing []
     let x := { d with idx := { d.idx with sweep := some ⟨1, 0, 0⟩ } }
     x.mediaOn = true ∧ x.mayPurge = true ∧ unitEnd ≠ 0) ∧
    (let d := regs (storing []) [(0x50004, 1)]
     d.policyNs = 1 ∧ ∀ w ∈ ([0x04021, 0x100022A, 0x1000, 0x0103, 0x1000201, 0x1010221] : List Nat),
       d.accepts Secure.blank .spi 0x50008 w = true) := by decide +kernel

/-- IndexUpkeep: a checkpoint due and forced; a commit; a rescan and its end; a purge sweep; removals that find a stale
segment and none. -/
theorem test_indexUpkeep :
    let d := storing []
    let at_ := fun (n : Nat) => { d with idx := { d.idx with nextPos := n * 128 } }
    let run_ := { d with idx := { d.idx with run := some ⟨CommitPage.fresh, [], 0, 0⟩ } }
    let seg := { val 2 2 [1] with valueLen := 65536 }
    let stale := { storing [(loc0, seg)] with idx := { (storing [(loc0, seg)]).idx with removals := [⟨2, [0x61], 3, 0, 1⟩] } }
    ((at_ 8192).mediaOn = true ∧ (at_ 8192).idxOff = none ∧ (at_ 8192).idx.committed.origin / 8192 < (at_ 8192).idx.block / 8192 ∧ (at_ 8192).idx.run = none) ∧
    d.accepts Secure.blank .spi 0x40020 1 = true ∧ d.accepts Secure.blank .spi 0x40000 0xD1A10001 = true ∧
    (run_.mayProgram = true ∧ (match run_.idx.run with | some r => (run_.cpCommit r).isSome | none => false) = true) ∧
    (∀ n ∈ ([53, 54, 55, 56, 63] : List Nat), d.domOn n = true) ∧ d.mayPurge = true ∧ 0 < unitEnd ∧
    stale.revived ⟨2, [0x61], 3, 0, 1⟩ = false ∧ (stale.staleSegment ⟨2, [0x61], 3, 0, 1⟩ 0 1).1.isSome = true ∧
    (d.staleSegment ⟨2, [0x61], 3, 0, 1⟩ 0 1).1 = none ∧ (storing [(loc0, { val 2 1 [1] with version := 9 })]).revived ⟨2, [0x61], 3, 0, 1⟩ = true := by decide +kernel

/-- A journal part of a severity. -/
def part (sev : Nat) : JPart := { sev := sev, tq := 0, more := false, part := 0, code := 0x0F02, time := 0, param := zeros 12 }

/-- JournalCommands: a part that drains; a CRITICAL record that awaits; the register writes; a read; a sequence held. -/
theorem test_journalCommands :
    let d := storing []
    let drains := { d with evj := { d.evj with fifo := [part 2] } }
    let waits := { d with evj := { d.evj with ring := [⟨0, false, false, part 5⟩] } }
    (drains.coreUp = true ∧ drains.ringStalled = false ∧ drains.evj.nextSeq + partCount [part 2] ≤ jrnLast) ∧
    (waits.flushBefore 4 = true ∧ waits.mediaUp = true ∧ waits.mayProgram = true ∧
      waits.awaiting = [[⟨0, false, false, part 5⟩]] ∧ 5 ≤ (part 5).sev ∧ waits.evj.stored + 1 + 1 ≤ storeSize) ∧
    waits.accepts Secure.blank .spi 0xA0000 (waits.setWord 0xA0000 0x100) = true ∧
    ((asked (val 1 0 [1]) { cmd 0x5A 0 (be 8 0 ++ be 4 1) [] [] with queue := 6 }).fresh 3 0x5A).isSome = true ∧
    (waits.accepts Secure.blank .spi 0xA0028 1 = true ∧ waits.rdSeq = 0) := by decide +kernel

/-! ## Witnesses: keys, alarms, time, firmware, power and supervision -/

/-- The key of bytes 0 to 31, wrapped for slot 7 under policy 1 to a device of serial number 0 and a root key of zeros, by
R210 and R217. -/
def wrapped124 : Bytes :=
  be 56 0x51590b7a515140d2d784c85608668fdfef8c82fd1f5be52421554a0dc3d033ede0c17da8904a727d8ae1bf36bf8a79260d012f00d4d80888 ++
  be 56 0xd1d0bb44fda16da4000000000000000000000000499afe178029781e00d0d230d692e6c8271e8b861b9c92df1e248dfb107abd0679a1051f ++
  be 12 0x519692f4aaa76d5d78116163

/-- A device in service with some key slots. -/
def keyed (slots : Tab KeySlot) (d : Dev) : Dev := { d with sec := { d.sec with slots := slots } }

/-- A dispatched command of queue 6. -/
def mgmt (d : Dev) (op : Nat) (param value : Bytes) : Dev := run d { cmd op 0 param [] value with queue := 6 }

set_option maxRecDepth 1000000 in
/-- KeySlots: the checks of a load that passes. -/
theorem test_loadChecks :
    (match up.checkLoad Secure.blank 7 1 0 124 wrapped124 with
      | .ok g => g.gen == 1 && g.key == (List.range 32).map (BitVec.ofNat 8)
      | .error _ => false) = true := by decide +kernel

/-- A load of slot 7 that waits for both copies. -/
def load7 (ctx : Option Nat) : KeyLoad := ⟨7, ⟨1, 0, [⟨1, zeros 32⟩]⟩, 1, ctx, .spi⟩

/-- KeySlots: loads in band and over SPI, one that fails its first check; a commit of each; erases of a slot that holds
a key and of one that does not, and their commits. -/
theorem test_keySlots :
    (let d := mgmt (storing []) 0x48 (be 2 7 ++ be 1 1 ++ zeros 5) wrapped124
     (d.fresh 3 0x48).isSome = true ∧ num (be 2 7 ++ be 1 1 ++ zeros 5) 4 4 = 0) ∧
    (match up.checkLoad Secure.blank 7 1 0 4 [] with
      | .error _ => true
      | .ok _ => false) = true ∧
    (∀ c ∈ ([none, some 3] : List (Option Nat)),
      let d := mgmt (storing []) 0x48 [] []
      let x := { d with sec := { d.sec with loads := [load7 c] } }
      x.secOn = true ∧ (load7 c).entry.gens = [⟨1, zeros 32⟩] ∧ x.sec.erases = []) ∧
    (let d := mgmt (storing []) 0x49 (be 2 7 ++ zeros 2) []
     (d.fresh 3 0x49).isSome = true ∧ d.loadsOf 7 = [] ∧ d.slotHeld 7 = false ∧
     (keyed [(7, ⟨1, 0, [⟨1, zeros 32⟩]⟩)] d).slotHeld 7 = true ∧
     ({ d with sec := { d.sec with erases := [(7, some 3, 0)] } } : Dev).secOn = true) ∧
    up.accepts Secure.blank .spi 0x60084 5 = true ∧
    up.accepts Secure.blank .spi 0x60080 (2 ^ 31 + 1 * 2 ^ 24 + 0 * 2 ^ 16 + 7) = true := by decide +kernel

/-- A locked device whose image carries the test key, with the signature of its unlock (R223). -/
def lockedDev : Dev :=
  let d := withImage up { im1 with
    keyX := 0x8e533b6fa0bf7b4625bb30667c01fb607ef9f8b8a80fef5b300628703187b2a3
    keyY := 0x73eb1dbde03318366d069f83a6f5900053c73633cb041b21c55e1a86c1f400b4 }
  let sig := (be 32 0x088bb9ff22ab291a74c86fc677ba897baadee370cc6129b82d170ba3fc26415c) ++
    (be 32 0x7fd9cebef6cb2fa5e707384fc3d01995da3b1a409cf2682f80cae45d7ea38d88)
  { d with sec := { d.sec with locked := true, sig := (List.range 16).map fun k => (k, BitVec.ofNat 32 (num sig (4 * k) 4)) } }

/-- SEC's store of a device with an authority. -/
def owned : Secure := { Secure.blank with authority := some [] }

set_option maxRecDepth 1000000 in
/-- AlarmsAndUnlock: an unlock that verifies. -/
theorem test_unlockOk : lockedDev.unlockOk owned = true := by decide +kernel

/-- AlarmsAndUnlock: alarms with HARD_ALARM and without; an unlock that is not needed, blocked, met by an active source, and
one whose signature is missing. -/
theorem test_alarms :
    let hard := regs up [(0x60000, 16)]
    (up.life.powered = true ∧ 1 % 16 ≠ 0 ∧ up.life.bootSrc ≠ 3 ∧ up.hardAlarm = false) ∧
    (hard.hardAlarm && (!hard.sec.locked || !Secure.blank.erased)) = true ∧ lockedDev.mediaUp = true ∧
    up.accepts Secure.blank .spi 0x6001C 1 = true ∧ lockedDev.accepts owned .spi 0x6001C 1 = true ∧
    lockedDev.sec.blocked = false ∧ lockedDev.sec.sources = 0 ∧
    ({ lockedDev with image := none } : Dev).unlockOk owned = false := by decide +kernel

/-- A device with MACsec on port 0, a key of policy 2 in slot 9, and an association selected. -/
def macsec (sel : Nat) : Dev :=
  keyed [(9, ⟨2, 0, [⟨1, zeros 16⟩]⟩)] (regs (withImage up { im1 with port := { im1.port with macsecEn := 1 } })
    [(0x60100, sel), (0x60104, 9)])

/-- An association in a state. -/
def assoc (x : SaState) : Sa :=
  { state := x, slot := 9, key := ⟨1, zeros 16⟩, xpn := false, pn := 1, next := 0, nextEn := false, win := 0, ssci := 0, salt := 0 }

/-- MacsecAndTime: associations of both directions; a slot without a key; time armed and not, near and far, in each state. -/
theorem test_macsecAndTime :
    (∀ sel ∈ ([0, 16] : List Nat),
      let d := macsec sel
      d.saSel = sel ∧ d.bindKey (d.regF 0x60104 8 0) 2 = some ⟨1, zeros 16⟩ ∧ d.macsecOn (sel / 32) = true ∧ d.saPeers sel < 2 ∧
      d.sec.sas = [] ∧ Secure.blank.txGen.getD 9 0 < 1 ∧
      (keyed [] d).bindKey (d.regF 0x60104 8 0) 2 = none ∧ d.regF 0x60104 23 23 = 0 ∧
      ∀ b ∈ ([0x80000000, 0x40000000, 0x20000000] : List Nat), d.accepts Secure.blank .spi 0x60104 (d.setWord 0x60104 b) = true) ∧
    (let d := macsec 0
     ({ d with sec := { d.sec with sas := [(0, assoc .ready)] } } : Dev).sec.sas.find 0 = some (assoc .ready)) ∧
    up.accepts Secure.blank .spi 0x6009C 5 = true ∧ up.coreUp = true ∧
    up.accepts Secure.blank .spi 0x600A0 (up.setWord 0x600A0 0x80000000) = true ∧
    ((up.modTime fun t => { t with armed := true, armedAt := 1000000 }).now = 0) := by decide +kernel

/-- A firmware image of 196 bytes, VERSION 9 and SVN 2, signed with the test key, by R343 and R344. -/
def fwBytes : Bytes :=
  be 56 0x4657443100010040000000c40000166400000009000200000000000400000000000000000000000000000000000000000000000000000000 ++
  be 56 0x0000000000000000000000008e533b6fa0bf7b4625bb30667c01fb607ef9f8b8a80fef5b300628703187b2a373eb1dbde03318366d069f83 ++
  be 56 0xa6f5900053c73633cb041b21c55e1a86c1f400b4088bb9ff22ab291a74c86fc677ba897baadee370cc6129b82d170ba3fc26415ce255c441 ++
  be 28 0xd5a687a9b0f2bb14dafdc15cc7d58acbf0ec7abb2c75316dda9be93b

/-- SEC's store with the test key's hash as firmware authority. -/
def trusting : Secure := { Secure.blank with fwAuthority := [sha256 (slice fwBytes (196 - 128) 64)] }

set_option maxRecDepth 1000000 in
/-- Firmware: an image that passes every check. -/
theorem test_fwCheck : fwCheck trusting false fwBytes = none := by decide +kernel

/-- A device whose firmware is in a state. -/
def withFw (d : Dev) (f : Fw → Fw) : Dev := { d with fw := f d.fw }

/-- Firmware: stages, an activation in progress, loads over SPI, the watchdog, and policy words in range and beyond. -/
theorem test_firmware :
    (let d := mgmt up 0x50 [] [1]
     (d.fresh 3 0x50).isSome = true ∧ fwCheck Secure.blank (d.fwBusy || d.fw.loadOpen) [1] = some 2) ∧
    (let d := withFw (mgmt up 0x50 [] []) fun w => { w with stage := some (some 3, ⟨9, 2, []⟩) }
     d.coreUp = true ∧ d.life.flush = .none ∧ d.life.coresDown = false) ∧
    (let d := mgmt up 0x51 [] []
     (d.fresh 3 0x51).isSome = true ∧ d.fwBusy = false ∧ d.fw.loadOpen = false ∧ d.fw.staging = .empty ∧
     (withFw d fun w => { w with stage := some (none, ⟨9, 2, []⟩) }).fwBusy = true ∧
     fwVerify Secure.blank [] = some 4) ∧
    up.ccOff = none ∧ (∀ v ∈ ([1, 2, 4] : List Nat), up.accepts Secure.blank .spi 0xB0040 v = true) ∧
    up.domOn 66 = true ∧ (domAt up 66 .off).domOn 66 = false ∧ up.accepts Secure.blank .spi 0xB0048 5 = true ∧ (regs up [(0xB0044, 4)]).regN 0xB0044 = (zeros 4).length ∧
    (let d := withFw up fun w => { w with running := .live, active := .valid }
     (∀ c < 2, d.accepts Secure.blank .firmware 0xB0014 (d.setWord 0xB0014 (2 ^ 31 + c % 2 * 2 ^ 30)) = true) ∧
     d.fw.running ≠ .none ∧ d.life.coresDown = false ∧ (∀ c < 2, d.fw.kicked.find c ≠ some d.cycles) ∧ (d.wdogRecent ++ [d.cycles]).length < 3 ∧
     3 ≤ ((withFw d fun w => { w with wdogTimes := [0, 0] }).wdogRecent ++ [d.cycles]).length) ∧
    (∀ k < 4, up.accepts Secure.blank .spi (0xB0020 + 4 * k) 5 = true) ∧ fwPolicyOk 0xB0020 5 = true ∧
    fwPolicyOk 0xB002C 0 = false := by decide +kernel

/-- A request for a domain over SPI. -/
def req (x : DomState) : DomReq := ⟨x, none, .spi⟩

/-- PowerAndClocks: requests in range and not, refused, idle, held and replaced; a domain that drains and one that has; a
clock present and lost; a rail. -/
theorem test_powerAndClocks :
    (let d := fun (n x : Nat) => mgmt up 0x58 (be 1 n ++ be 1 x ++ zeros 2) []
     ((d 21 1).fresh 3 0x58).isSome = true ∧ (d 21 1).domRefusal 21 .gated (.inBand 0) = none ∧
     ((d 20 1).domRefusal 20 .gated (.inBand 0)).isSome = true ∧ ((d 21 1).dom 21).state = .on ∧
     ((d 21 1).dom 21).running = none ∧
     (((d 21 1).modDom 21 fun x => { x with running := some (req .off) }).dom 21).held = none) ∧
    (∀ n ∈ ([0, 66, 67, 127] : List Nat), up.accepts Secure.blank .spi 0x1000 (2 ^ 31 + n * 2 ^ 16 + 1) = true) ∧
    up.domRefusal 58 .off .spi = some 3 ∧ up.domRefusal 66 .gated .spi = none ∧ up.domBusy 66 = false ∧
    bit up.clocks.status 6 = true ∧ bit ({ up with clocks := ⟨0, []⟩ } : Dev).clocks.status 6 = false ∧
    up.mayReset = true := by decide +kernel

/-- SupervisionEvents: an input that is enabled and active, in each phase; samples; a stuck PWR_FAIL_N; a port in SEEK. -/
theorem test_supervision :
    (let d := (regs up [(0x3040, 2 ^ 31)]).modTrig 3 fun x => { x with state := 2, activeFor := 5, activeAt := (9, 1) }
     d.trigOn 3 = true ∧ d.debounce 3 ≤ 5 ∧ (d.trigger 3).state = 2 ∧ (d.trigger 3).fired = false ∧ d.cap.windows = []) ∧
    (∀ k < 4, (up.site k).hot < 3) ∧ (up.site 4).failed = false ∧ up.warnLevel 4 < 160 ∧ up.warnLevel 0 < 160 ∧
    (let d := inPhase .halt
     ({ d with life := { d.life with flush := .powerFail }, pins := { d.pins with pfLow := true } } : Dev).sup.uv = 0) ∧
    up.accepts Secure.blank .spi 0x3054 0xD1A10001 = true ∧ up.tooHot = false ∧
    (let d := inPhase .aon
     let e : Dev := { d with life := { d.life with pfWait := true } }
     e.inPhase .aon = true ∧ e.tooHot = false ∧ e.accepts Secure.blank .spi 0x3054 0xD1A10001 = true) ∧ (linked .seek).lanesOf 0 ≠ [] ∧
    (let d := { linked .seek with lanes := List.replicate 4 { Lane.fresh with sigDet := true } }
     ∀ l ∈ d.lanesOf 0, (d.lane l).sigDet = true) := by decide +kernel

/-! ## Witnesses: the flash media -/

/-- A Bushel in a state, its cells' mode and its area. -/
def bushelIn (st : BState) (mode area : Nat) : Bushel := { Bushel.fresh 20 with state := st, mode := mode, area := area }

/-- A device in service with some Bushels. -/
def flash (l : List (Nat × Bushel)) : Dev :=
  let d := storing []
  { d with fmm := { d.fmm with bushels := l } }

/-- The same with a collection under way. -/
def collecting (b : Nat) (k : CollKind) (x : Bushel) : Dev :=
  let d := flash [(b, x)]
  { d with fmm := { d.fmm with colls := [(b, k)] } }

/-- MediaCommands: a health read; a full group and a short one, on a head and parked; a program that fails; erases in
each mode that end, and that fail with a spare, without one, and on a narrow Bushel; collections, folds, wear, patrol with
and without a page set left; a die that is lost; a STALE Bushel. -/
theorem test_mediaCommands :
    ((asked (val 1 0 [1]) { cmd 0x59 0 [] [] [] with queue := 6 }).fresh 3 0x59).isSome = true ∧
    (let x := { bushelIn .opened 0 0 with written := 3 * 64512 }
     (flash [(20, x)]).groupReady 20 = true ∧ (flash [(20, { x with written := 9 })]).groupReady 20 = false ∧
     (flash [(20, x)]).mediaOn = true ∧ (flash [(20, x)]).mayProgram = true ∧ x.committed < x.written ∧
     (x.dataDies 20).contains 0 = true) ∧
    (let d := flash [(20, bushelIn .opened 0 0)]
     ({ d with fmm := { d.fmm with heads := [{ Head.fresh with bushel := some 20 }] } } : Dev).head 0 =
       { Head.fresh with bushel := some 20 }) ∧
    (let d := flash [(20, bushelIn .erasing 0 0)]
     d.fmm.bushels.wf = true ∧ (d.bushel 20).state = .erasing ∧ (d.bushel 20).tlcErases + 1 < eraseLast ∧
     (d.bushel 20).narrow = false ∧ 0 < d.spares 5 ∧ d.fmm.lostDies.contains 5 = false ∧
     ({ d with fmm := { d.fmm with spareUsed := [(5, 384)] } } : Dev).spares 5 = 0 ∧
     ({ bushelIn .erasing 0 0 with flags := 2 } : Bushel).narrow = true) ∧
    (let d := collecting 20 .gc (bushelIn .victim 0 0)
     d.mediaOn = true ∧ d.fmm.colls.find 20 = some .gc ∧ (d.bushel 20).state = .victim ∧ d.copiesRun = true ∧
     d.idx.held = false ∧
     (let v := storing [(loc0, val 1 0 [1])]
      let e : Dev := { v with
        idx := { v.idx with nextPos := 16384 * 128 }
        fmm := { v.fmm with bushels := d.fmm.bushels, colls := d.fmm.colls } }
      e.idx.held = true ∧ e.pointedIn 20 = [loc0] ∧ (e.bushel 20).state = .victim ∧ e.copiesRun = true)) ∧
    (let d := flash [(20, bushelIn .closed 0 0)]
     d.accepts Secure.blank .spi 0x7001C 0x4014 = true ∧ d.accepts Secure.blank .spi 0x7001C 0x7FFF = true ∧
     (d.bushel 20).eligible = true ∧ (d.bushel 21).eligible = false ∧ d.gcBest.map (·.1) = some 20 ∧
     (storing []).gcBest = none ∧ d.gcRuns = false ∧ d.fmm.floor = 0 ∧ d.copiesRun = true) ∧
    (let d := flash [(20, bushelIn .closed 0 0), (21, bushelIn .closed 0 0)]
     let e : Dev := { d with fmm := { d.fmm with floor := 1 } }
     e.accepts Secure.blank .spi 0x7001C 0x4015 = true ∧ (e.bushel 21).eligible = true ∧ 1 ≤ e.fmm.floor ∧
     e.floorVictim = some 20) ∧
    (let d := flash [(20, bushelIn .closed 1 0)]
     d.accepts Secure.blank .spi 0x70000 (d.setWord 0x70000 0x100) = true ∧ d.fmm.fold = none ∧ d.fmm.bushels.wf = true ∧
     d.foldRuns = false ∧ d.foldNext = some 20) ∧
    (let d := collecting 20 .fold (bushelIn .victim 1 0)
     let d := { d with fmm := { d.fmm with fold := some ⟨0, 0, 0⟩ } }
     d.accepts Secure.blank .spi 0x70000 (d.setWord 0x70000 0x200) = true ∧ d.fmm.fold.isSome = true ∧
     d.fmm.colls.find 20 = some .fold) ∧
    (let d := regs (flash [(20, bushelIn .closed 0 0), (21, { bushelIn .free 0 0 with tlcErases := 900 })]) [(0xB0024, 0)]
     d.wearSource.map (·.1) = some 20 ∧ d.freeBushel true = some 21 ∧ d.wearRuns = false ∧ d.copiesRun = true ∧
     d.life.coresDown = false ∧ d.regF 0xB0024 31 16 < d.eMax - (bushelIn .closed 0 0).erases) ∧
    (let d := flash [(20, { bushelIn .closed 0 0 with committed := 3 * 64512 })]
     d.channelOff = none ∧ (d.patrolNext (0, 0)).isSome = true ∧ d.patrolNext (20, 192) = none) ∧
    ((storing []).fmm.lostDies.contains 63 = false ∧ (storing []).fmm.waits = [] ∧ bit ({ bushelIn .closed 0 0 with flags := 4 } : Bushel).flags 2 = true) := by
  decide +kernel

/-! ## Witnesses: Leagues, the match array and the Rod bus -/

/-- A member at 10.0.0.9 in a state, of a role and position, on session 0. -/
def member (x : MemberState) (role pos : Nat) : Member :=
  { state := x, role := role, pos := pos, missed := 0, flags := 0, ipv4 := 0x0A000009, ipv6 := 0, port := 4791,
    inSess := some 0, outSess := none, leaving := none, heardAt := none }

/-- A device of a League role, number 1 at Rod position 1, with members, that has dispatched a command. -/
def leagued (role : Nat) (ms : Tab Member) (c : Cmd) : Dev :=
  let d := withImage (run (storing []) c) { im1 with league := { im1.league with role := role, memberId := 1, rodPos := 1 } }
  { d with lge := { d.lge with members := ms }, rod := { d.rod with deputies := 2 } }

/-- The same with a session of its own to a target. -/
def targeting (d : Dev) (x : SessState) (t : LgTarget) : Dev :=
  { d with
    sess := [(0, { leagueSess with state := x, opener := true })]
    lge := { d.lge with targets := [(0, t)], calls := [] } }

/-- The same with a call to member 5 that has been answered. -/
def answered (d : Dev) (k : CallKind) (msg : Bytes) : Dev :=
  { d with
    sess := [(0, { leagueSess with answers := [(7, msg)] })]
    lge := { d.lge with targets := [(0, .toMember 5)], calls := [⟨0, 7, k⟩] } }

/-- LG_JOIN of a member. -/
def joinCmd (id role pos gen : Nat) : Cmd :=
  cmd 0x68 0 (be 1 id ++ be 1 role ++ be 1 pos ++ zeros 1 ++ be 8 gen ++ be 2 4791 ++ zeros 2 ++ be 4 0x0A000009 ++ zeros 16) [] []

/-- LG_DIR_SET of an entry of 80 bits, a removal where `clear` is 1, with some value bytes. -/
def dirCmd (bank index clear : Nat) (v : Bytes) : Cmd :=
  cmd 0x6A 0 (be 8 6 ++ be 1 bank ++ zeros 1 ++ be 2 index ++ be 4 5 ++ be 1 clear ++ zeros 3) [] v

/-- LG_FENCE at a time. -/
def fenceCmd (t : Nat) : Cmd := cmd 0x6B 0 (be 8 6 ++ be 8 t) [] []

/-- LG_KEEPALIVE and LG_LEAVE of member 5. -/
def memberCmd (op : Nat) : Cmd := cmd op 0 (be 1 5 ++ zeros 3) [] []

/-- LeagueCommands: joins refused for each cause, of a member that is held and of a new one; keepalives; entries set,
cleared and refused; fences; leaves at once and after what waits; answers that end a command and leave it; join retries
with a session and without; the fifth missed keepalive and one before it. -/
theorem test_leagueCommands :
    (let d := fun (role id r pos : Nat) => leagued role [(5, member .up 3 0)] (joinCmd id r pos 0)
     ((d 1 5 3 0).fresh 3 0x68).isSome = true ∧ (d 0 5 3 0).league.role ≠ 1 ∧ (d 1 1 3 0).league.memberId = 1 ∧
     (d 1 6 2 3).rod.deputies = 2 ∧ (d 1 5 3 0).lge.members.find 5 = some (member .up 3 0) ∧
     (d 1 6 2 1).lge.members.find 6 = none ∧ (d 1 6 2 1).lge.dirGen = 0) ∧
    ((leagued 1 [(5, member .up 3 0)] (memberCmd 0x69)).fresh 3 0x69).isSome = true ∧
    (let d := fun (c : Cmd) => leagued 2 [] c
     ((d (dirCmd 0xFF 0 0 [])).fresh 3 0x6A).isSome = true ∧ widthBits ((d (dirCmd 4 0 0 [])).mat.width 4) / 4 = 20 ∧
     (d (dirCmd 4 0 0 [])).entryErr 4 0 0 0 5 = 0 ∧ (d (dirCmd 4 4095 0 [])).entryErr 4 4096 0 0 5 ≠ 0 ∧
     (d (dirCmd 4 0 1 [])).domOn (bankDomain 4) = true ∧ 4095 < bankCapacity ((d (dirCmd 4 0 1 [])).mat.width 4)) ∧
    ((leagued 2 [] (fenceCmd 9)).fresh 3 0x6B).isSome = true ∧
    (let d := leagued 1 [(5, member .up 3 0)] (memberCmd 0x6E)
     let busy := { d with lge := { d.lge with calls := [⟨0, 1, .relay 4 5⟩] } }
     (d.fresh 3 0x6E).isSome = true ∧ d.lge.members.find 5 = some (member .up 3 0) ∧ (d.memberWaits 5).isEmpty = true ∧
     (busy.memberWaits 5).isEmpty = false) ∧
    (∀ k ∈ ([.relay 3 5, .replicate 3 5] : List CallKind), ∀ msg ∈ ([zeros 32, be 1 0 ++ be 1 stNotFound ++ zeros 30] : List Bytes),
      ((answered (leagued 1 [(5, member .up 3 0)] (memberCmd 0x6E)) k msg).takeAnswer 0 7).map (fun x => (x.1, x.2.1)) =
        some (k, msg)) ∧
    (let d := leagued 3 [] (memberCmd 0x69)
     let e := targeting d .established .toHead
     d.admits = true ∧ d.joins = true ∧ d.lge.head = .none ∧ d.lge.queued = [] ∧ d.lge.targets = [] ∧
     d.sessionTo .toHead = none ∧ e.readyTo .toHead = some 0 ∧ (e.session 0).any (fun y => y.state == .established) = true) ∧
    (let d := leagued 1 [(5, { member .up 3 0 with missed := 3 }), (6, { member .joining 2 1 with missed := 4 })] (memberCmd 0x69)
     d.admits = true ∧ d.league.role = 1 ∧ (∀ p ∈ d.lge.members, p.2.heardAt ≠ some d.cycles) ∧ (d.lge.members.find 5).any (fun m => m.missed + 1 < 5) = true ∧
     (d.lge.members.find 6).any (fun m => 5 ≤ m.missed + 1) = true) := by decide +kernel

/-- A device whose entry registers select an entry of a bank of 80 bits and hold a value, its mask and a RESULT. -/
def entry (d : Dev) (bank index value mask result : Nat) : Dev :=
  let e := (d.setWide 0x80040 (value <<< 240)).setWide 0x80080 (mask <<< 240)
  regs e [(0x80020, bank * 65536 + index), (0x80028, result)]

/-- DirectoryCommands: changes that are busy, refused and made, at the head's and a deputy's position; a lost rule. -/
theorem test_directoryCommands :
    (let d := fun (bank : Nat) => entry (leagued 1 [(5, member .up 2 1)] (memberCmd 0x69)) bank 3 5 5 1
     (∀ w ∈ ([1, 2, 17, 18] : List Nat), (d 4).accepts Secure.blank .spi 0x90208 w = true) ∧ (d 4).lge.busy = false ∧
     (d 4).entSel = (4, 3) ∧ (d 4).entData 4 = ⟨5, 5, 1⟩ ∧
     ({ d 4 with lge := { (d 4).lge with busy := true } } : Dev).lge.busy = true ∧
     (∀ q ∈ ([0, 1] : List Nat), ∀ c ∈ ([true, false] : List Bool), (d 4).dirErr q 4 3 ⟨5, 5, 1⟩ c = 0) ∧
     (∀ c ∈ ([true, false] : List Bool), (d 4).dirErr 2 4 3 ⟨5, 5, 1⟩ c = 6) ∧ (d 0).dirErr 0 0 3 ⟨5, 5, 1⟩ false = 4) ∧
    (let d := leagued 2 [] (memberCmd 0x69)
     let e := { d with lge := { d.lge with dir := [(131072 + 16387, ⟨5, 5, 1⟩)], lostRules := [(16387, ⟨5, 5, 1⟩)] } }
     e.coreUp = true ∧ e.lge.dir.find (e.league.rodPos * 2 ^ 17 + 16387) = some ⟨5, 5, 1⟩ ∧
     e.lge.lostRules.any (fun x => x.1 == 16387) = true) := by decide +kernel

/-- A device of a Rod role whose Rod bus is changed. -/
def cascade (role : Nat) (f : Rod → Rod) : Dev :=
  (regs (leagued (if role = 1 then 1 else 2) [] (memberCmd 0x69)) [(0x90000, 64 * role)]).modRod f

/-- A command that waits to be placed by its one search, context 3. -/
def placing (d : Dev) : Dev :=
  { d with cqe := { d.cqe with flights := [(3, ⟨cmd 1 1 [] [0x61] [], 1, 0, [], false, false, .placing⟩)] } }

/-- MatchingCommands: entries written, read and cleared, refused for each cause; both diagnostic profiles; a scrub of each
outcome; slots and tokens of the head and of a deputy; the first and the third token lost; the lines of the bus. -/
theorem test_matchingCommands :
    (let d := fun (bank index : Nat) => entry (storing []) bank index 5 5 1
     (∀ w ∈ ([1, 2, 4] : List Nat), (d 4 3).accepts Secure.blank .spi 0x80024 w = true) ∧
     (d 4 3).entryErr 4 3 5 5 1 = 0 ∧ (d 4 4095).entryErr 4 4095 5 5 1 = 0 ∧ (d 0 3).entryErr 0 3 5 5 1 = 4 ∧
     (d 4 3).entryErr 4 3 5 1 1 = 3 ∧ bankCapacity ((d 4 3).mat.width 4) = 4096 ∧ (d 4 3).domOn (bankDomain 4) = true ∧
     (let e : Dev := { d 0 3 with mat := { (d 0 3).mat with entries := [(3, ⟨5, 5, 0x10000000⟩)] } }
      e.sessionAt 3 = true ∧ e.sessionAt 4 = false)) ∧
    (∀ w ∈ ([5, 7] : List Nat), up.accepts Secure.blank .spi 0x800E8 w = true) ∧
    (let d := storing []
     let e := { d with mat := { d.mat with entries := [(0, ⟨5, 5, 0x10000000⟩)] } }
     d.coreUp = true ∧ d.domOn (bankDomain (d.scrubUnit d.mat.scrub / 4096)) = true ∧ d.scrubUnit 131071 = 131071 ∧
     e.entryAt 0 = some (0, ⟨5, 5, 0x10000000⟩)) ∧
    (let h := placing (cascade 1 fun r => { r with state := .up, waiting := [(3, 0)], flights := [⟨3, 0, false⟩] })
     h.coreUp = true ∧ h.rodRole = 1 ∧ h.ownSearch (h.waitingWord (3, 0)) = .miss ∧
     (h.flight 3).any (fun g => g.job = .placing) = true) ∧
    (let d := cascade 2 fun r => { r with state := .up, words := List.replicate 15 0 }
     d.coreUp = true ∧ d.rodRole = 2 ∧ d.rod.words.length < 16 ∧ d.league.rodPos < 4 ∧ d.lge.dirGen = d.lge.headGen ∧
     (let e : Dev := { d with lge := { d.lge with headGen := 1 } }
      e.lge.headGen ≠ 0 ∧ e.lge.dirGen ≠ e.lge.headGen ∧
      ({ e with lge := { e.lge with dirGen := 1 } } : Dev).lge.dirGen = e.lge.headGen) ∧
     (let e := regs d [(0x80014, 0xFFFFFFFF)]
      ({ e with lge := { e.lge with lostRules := [(4 * 4096, ⟨0, 0, 9⟩)] } } : Dev).ownSearch 0 = .unusable (bankDomain 4)) ∧
     (d.modRod fun r => { r with words := [0] }).rod.words = [0] ∧ d.rod.state ≠ .check ∧
     ({ regs d [(0x80014, 0xFFFFFFFF)] with mat := { d.mat with entries := [(4 * 4096, ⟨0, 0, 9⟩)] } } : Dev).ownSearch 0 = .hit 9) ∧
    (∀ x ∈ ([1, 2] : List Nat), let d := cascade x fun r => { r with state := .check, disc := none, ringOk := false }
     d.coreUp = true ∧ d.rodRole = x ∧ d.rod.flights = [] ∧ d.rod.disc = none ∧ d.rod.ringOk = false) ∧
    (let d := cascade 1 fun r => { r with state := .down, alive := true }
     d.rodRole = 1 ∧ d.rod.state = .down ∧ d.rod.alive = true) ∧
    (let d := cascade 1 fun r => { r with state := .up, lostRow := 2 }
     d.accepts Secure.blank .spi 0x90000 (d.setWord 0x90000 1) = true ∧ 3 ≤ d.rod.lostRow + 1) ∧
    (let d := cascade 1 fun r => { r with state := .check, disc := some 3 }
     d.rod.state = .check ∧ discovered d.rod.disc = (1, 0) ∧ discovered none ≠ (1, 0) ∧
     checked d.rod.disc true = (1, 0) ∧ checked d.rod.disc false = (1, 6)) := by decide +kernel

end Sys2Proof.Tests
end

section
/-! PROOFS. Sparse tables, the register file, the fields of a write, refused writes, and reads: what each operation keeps,
and what is read after it. -/

namespace Sys2Proof

/-! ## Sparse tables -/

namespace Tab

variable {α : Type}

@[simp] theorem find_nil (k : Nat) : Tab.find ([] : Tab α) k = none := rfl

@[simp] theorem find_cons (k' : Nat) (v : α) (r : Tab α) (k : Nat) :
    Tab.find ((k', v) :: r) k = if k' = k then some v else Tab.find r k := rfl

/-- The canonical form says that the keys strictly rise. -/
theorem wf_iff_pairwise (t : Tab α) : t.wf = true ↔ t.Pairwise (·.1 < ·.1) := by
  induction t with
  | nil => simp [Tab.wf]
  | cons p r ih =>
    cases r with
    | nil => simp [Tab.wf]
    | cons q r' =>
      simp only [Tab.wf, Bool.and_eq_true, decide_eq_true_eq, ih, List.pairwise_cons (a := p), List.forall_mem_cons]
      refine ⟨fun ⟨hpq, hr⟩ => ⟨⟨hpq, fun x hx => Nat.lt_trans hpq (List.rel_of_pairwise_cons hr hx)⟩, hr⟩, ?_⟩
      exact fun ⟨⟨hpq, _⟩, hr⟩ => ⟨hpq, hr⟩

theorem mem_put {t : Tab α} {k : Nat} {v : α} {p : Nat × α} (h : p ∈ t.put k v) : p = (k, v) ∨ p ∈ t := by
  induction t with
  | nil => exact .inl (by simpa [Tab.put] using h)
  | cons q r ih =>
    unfold Tab.put at h
    split at h
    · exact (List.mem_cons.mp h).imp_right id
    · split at h
      · exact (List.mem_cons.mp h).imp_right (List.mem_cons_of_mem q)
      · rcases List.mem_cons.mp h with rfl | h
        · exact .inr List.mem_cons_self
        · exact (ih h).imp_right (List.mem_cons_of_mem q)

theorem put_wf {t : Tab α} {k : Nat} {v : α} (h : t.wf = true) : (t.put k v).wf = true := by
  rw [wf_iff_pairwise] at h ⊢
  induction t with
  | nil => simp [Tab.put]
  | cons q r ih =>
    obtain ⟨hq, hr⟩ := List.pairwise_cons.mp h
    unfold Tab.put
    split
    next hlt => exact List.pairwise_cons.mpr ⟨List.forall_mem_cons.mpr ⟨hlt, fun x hx => Nat.lt_trans hlt (hq x hx)⟩, h⟩
    next hge =>
      split
      next heq => exact List.pairwise_cons.mpr ⟨fun x hx => heq ▸ hq x hx, hr⟩
      next hne =>
        refine List.pairwise_cons.mpr ⟨fun x hx => ?_, ih hr⟩
        rcases mem_put hx with rfl | hx
        · exact show q.1 < k by omega
        · exact hq x hx

theorem del_eq_filter (t : Tab α) (k : Nat) : t.del k = t.filter fun p => p.1 ≠ k := by
  induction t with
  | nil => rfl
  | cons q r ih => by_cases hq : q.1 = k <;> simp [Tab.del, hq, ih]

theorem mod_eq_map (t : Tab α) (k : Nat) (f : α → α) :
    t.mod k f = t.map fun p => (p.1, if p.1 = k then f p.2 else p.2) := by
  induction t with
  | nil => rfl
  | cons q r ih => by_cases hq : q.1 = k <;> simp [Tab.mod, hq, ih]

theorem keep_wf {t : Tab α} {p : Nat → α → Bool} (h : t.wf = true) : (t.keep p).wf = true :=
  (wf_iff_pairwise _).mpr (((wf_iff_pairwise t).mp h).filter _)

theorem del_wf {t : Tab α} {k : Nat} (h : t.wf = true) : (t.del k).wf = true := by
  rw [wf_iff_pairwise] at h ⊢
  exact del_eq_filter t k ▸ h.filter _

theorem mod_wf {t : Tab α} {k : Nat} {f : α → α} (h : t.wf = true) : (t.mod k f).wf = true := by
  rw [wf_iff_pairwise] at h ⊢
  rw [mod_eq_map, List.pairwise_map]
  exact h

theorem mem_del {t : Tab α} {k : Nat} {p : Nat × α} (h : p ∈ t.del k) : p ∈ t :=
  (List.mem_filter.mp (del_eq_filter t k ▸ h)).1

/-- A table reads back what was put, in canonical form or not. -/
theorem find_put (t : Tab α) (k j : Nat) (v : α) : (t.put k v).find j = if j = k then some v else t.find j := by
  induction t with
  | nil => simp [Tab.put, eq_comm]
  | cons q r ih =>
    obtain ⟨k', v'⟩ := q
    rcases Nat.lt_trichotomy k k' with hlt | rfl | hgt
    · simp [Tab.put, hlt, eq_comm (a := k)]
    · by_cases hj : j = k
      · simp [Tab.put, hj]
      · simp [Tab.put, hj, Ne.symm hj]
    · have hne : k' ≠ k := Nat.ne_of_lt hgt
      by_cases hj : j = k
      · simpa [Tab.put, hj, hne, hne.symm, Nat.lt_asymm hgt] using ih
      · simp [Tab.put, ih, hj, hne.symm, Nat.lt_asymm hgt]

theorem find_del (t : Tab α) (k j : Nat) : (t.del k).find j = if j = k then none else t.find j := by
  induction t with
  | nil => simp [Tab.del]
  | cons q r ih =>
    obtain ⟨k', v'⟩ := q
    by_cases hq : k' = k <;> by_cases hj : j = k
    · simpa [Tab.del, hq, hj] using ih
    · simp [Tab.del, ih, hq, hj, Ne.symm hj]
    · simpa [Tab.del, hq, hj] using ih
    · simp [Tab.del, ih, hq, hj]

@[simp] theorem find_put_same (t : Tab α) (k : Nat) (v : α) : (t.put k v).find k = some v := by simp [find_put]

@[simp] theorem find_put_ne (t : Tab α) {k j : Nat} (v : α) (h : j ≠ k) : (t.put k v).find j = t.find j := by
  simp [find_put, h]

end Tab

/-- Settles O9: the canonical form is that the keys rise pairwise, which filters and maps over the entries keep. -/
theorem tablesKeepTheirForm : Obligations.TablesKeepTheirForm := by
  unfold Obligations.TablesKeepTheirForm
  intro α t k j v f p h
  exact ⟨Tab.put_wf h, Tab.del_wf h, Tab.mod_wf h, Tab.keep_wf h, Tab.find_put t k j v, Tab.find_del t k j⟩

end Sys2Proof

namespace Sys2Proof.Machine

/-! ## The register file -/

theorem Dev.reg_congr {d e : Dev} (h : e.regs = d.regs) (a : Nat) : e.reg a = d.reg a := by
  unfold Dev.reg; rw [h]

theorem Dev.regN_lt (d : Dev) (a : Nat) : d.regN a < 2 ^ 32 := (d.reg a).isLt

theorem Dev.reg_setReg (d : Dev) (a b : Nat) (v : Word) : (d.setReg a v).reg b = if b = a then v else d.reg b := by
  unfold Dev.setReg Dev.reg Tab.getD setRegIn
  by_cases hv : v = resetWord a <;> by_cases hb : b = a <;> simp [hv, hb, Tab.find_del]

@[simp] theorem Dev.reg_setReg_same (d : Dev) (a : Nat) (v : Word) : (d.setReg a v).reg a = v := by
  simp [Dev.reg_setReg]

@[simp] theorem Dev.reg_setReg_ne (d : Dev) {a b : Nat} (v : Word) (h : b ≠ a) : (d.setReg a v).reg b = d.reg b := by
  simp [Dev.reg_setReg, h]

@[simp] theorem Dev.regN_setRegN_same (d : Dev) (a v : Nat) : (d.setRegN a v).regN a = v % 2 ^ 32 := by
  simp [Dev.setRegN, Dev.regN]

@[simp] theorem Dev.reg_setRegN_ne (d : Dev) {a b : Nat} (v : Nat) (h : b ≠ a) : (d.setRegN a v).reg b = d.reg b :=
  Dev.reg_setReg_ne d _ h

@[simp] theorem Dev.reg_raise_ne (d : Dev) {i : Irq} {b : Nat} (h : b ≠ i.addr) : (d.raise i).reg b = d.reg b :=
  Dev.reg_setReg_ne d _ h

@[simp] theorem Dev.reg_raiseIf_ne (d : Dev) {c : Bool} {i : Irq} {b : Nat} (h : b ≠ i.addr) :
    (d.raiseIf c i).reg b = d.reg b := by
  cases c
  · rfl
  · exact Dev.reg_raise_ne d h

@[simp] theorem Dev.reg_count_ne (d : Dev) {a b : Nat} (h : b ≠ a) : (d.count a).reg b = d.reg b :=
  Dev.reg_setRegN_ne d _ h

theorem satAdd_lt {top a b : Nat} (h : top < 2 ^ 32) : satAdd top a b < 2 ^ 32 :=
  Nat.lt_of_le_of_lt (Nat.min_le_left _ _) h

@[simp] theorem Dev.regN_count_same (d : Dev) (a : Nat) : (d.count a).regN a = satAdd 0xFFFFFFFF (d.regN a) 1 :=
  (Dev.regN_setRegN_same d a _).trans (Nat.mod_eq_of_lt (satAdd_lt (by decide)))

theorem setRegIn_wf {t : Tab Word} {a : Nat} {v : Word} (h : t.wf = true) : (setRegIn t a v).wf = true := by
  unfold setRegIn
  split
  · exact Tab.del_wf h
  · exact Tab.put_wf h

/-- A table that lists no register at its reset value still lists none once a register is set. -/
theorem setRegIn_not_reset {t : Tab Word} {a : Nat} {v : Word} (h : ∀ p ∈ t, p.2 ≠ resetWord p.1) :
    ∀ p ∈ setRegIn t a v, p.2 ≠ resetWord p.1 := by
  intro p hp
  unfold setRegIn at hp
  split at hp
  next => exact h p (Tab.mem_del hp)
  next hv =>
    rcases Tab.mem_put hp with rfl | hp
    · exact hv
    · exact h p hp

/-- Settles O10: setting a register puts or deletes one entry of the table. -/
theorem registerFile : Obligations.RegisterFile := by
  unfold Obligations.RegisterFile
  exact fun d a b v => ⟨Dev.reg_setReg d a b v, fun ⟨hwf, hreset⟩ => ⟨setRegIn_wf hwf, setRegIn_not_reset hreset⟩⟩

/-! ## Fields by access type (R12) -/

theorem bit_eq_testBit (v i : Nat) : bit v i = v.testBit i := by
  rw [Nat.testBit_eq_decide_div_mod_eq]; rfl

/-- Taking the bits under a mask away from a number clears them, and no borrow reaches another bit. -/
theorem testBit_sub_and (x m i : Nat) : (x - (x &&& m)).testBit i = (x.testBit i && !m.testBit i) := by
  have hhalf : (x &&& m) / 2 = x / 2 &&& m / 2 := Nat.and_div_two
  have hle : x / 2 &&& m / 2 ≤ x / 2 := Nat.and_le_left
  have hodd : (x &&& m) % 2 = 1 ↔ x % 2 = 1 ∧ m % 2 = 1 := Nat.and_mod_two_eq_one
  induction i generalizing x m with
  | zero =>
    rw [Nat.testBit_zero, Nat.testBit_zero, Nat.testBit_zero, Bool.eq_iff_iff]
    simp only [Bool.and_eq_true, Bool.not_eq_true', decide_eq_true_eq, decide_eq_false_iff_not]
    omega
  | succ i ih =>
    have hdiv : (x - (x &&& m)) / 2 = x / 2 - (x / 2 &&& m / 2) := by omega
    rw [Nat.testBit_succ, Nat.testBit_succ, Nat.testBit_succ, hdiv]
    exact ih (x / 2) (m / 2) Nat.and_div_two Nat.and_le_left Nat.and_mod_two_eq_one

theorem bit_sub_and (x m i : Nat) : bit (x - (x &&& m)) i = (bit x i && !bit m i) := by
  simp only [bit_eq_testBit, testBit_sub_and]

theorem bit_and (x m i : Nat) : bit (x &&& m) i = (bit x i && bit m i) := by
  simp only [bit_eq_testBit, Nat.testBit_and]

theorem bit_or (x m i : Nat) : bit (x ||| m) i = (bit x i || bit m i) := by
  simp only [bit_eq_testBit, Nat.testBit_or]

theorem bit_mod_two_pow {i n : Nat} (h : i < n) (x : Nat) : bit (x % 2 ^ n) i = bit x i := by
  simp [bit_eq_testBit, Nat.testBit_mod_two_pow, h]

/-- Settles O11: bit by bit, the fields written are kept apart from the rest, and the W1C bits written 1 are taken away. -/
theorem writeActsByAccessType : Obligations.WriteActsByAccessType := by
  unfold Obligations.WriteActsByAccessType
  intro d a w r hr _ i hi
  simp only [Dev.writeFields, hr, Dev.regN_setRegN_same, bit_mod_two_pow hi, bit_sub_and, bit_and, bit_or]
  cases bit r.rw i <;> cases bit r.rwl i <;> simp

/-! ## The rows of the register table -/

/-- A row holds the registers that lie its stride apart from its base on. -/
theorem RegRow.covers_imp {r : RegRow} {a : Nat} (h : r.covers a = true) : ∃ k < r.count, a = r.base + r.stride * k := by
  simp only [RegRow.covers, Bool.and_eq_true, decide_eq_true_eq, beq_iff_eq] at h
  obtain ⟨⟨hbase, hmod⟩, hcount⟩ := h
  refine ⟨_, hcount, ?_⟩
  have := Nat.mul_div_cancel' (Nat.dvd_of_mod_eq_zero hmod)
  omega

/-- The register of a row at an address is one of the row's places. -/
theorem mem_of_regRow {a : Nat} {r : RegRow} (h : regRow a = some r) :
    r ∈ regRows ∧ ∃ k < r.count, a = r.base + r.stride * k :=
  ⟨List.mem_of_find?_eq_some h, RegRow.covers_imp (List.find?_some (p := fun x : RegRow => x.covers a) h)⟩

/-- A register of the table lies in the register space. -/
theorem regRow_lt {a : Nat} {r : RegRow} (h : regRow a = some r) : a < 2 ^ 20 := by
  obtain ⟨hr, k, hk, rfl⟩ := mem_of_regRow h
  exact (by decide +kernel : ∀ r ∈ regRows, ∀ k < r.count, r.base + r.stride * k < 2 ^ 20) r hr k hk

/-- The read of a register that clears on read latches nothing. -/
theorem rc_not_latchesHi {a : Nat} {r : RegRow} (h : regRow a = some r) (hrc : r.rc = 0xFFFFFFFF) :
    latchesHi a = false := by
  obtain ⟨hr, k, hk, rfl⟩ := mem_of_regRow h
  exact (by decide +kernel : ∀ r ∈ regRows, r.rc = 0xFFFFFFFF → ∀ k < r.count,
    latchesHi (r.base + r.stride * k) = false) r hr hrc k hk

/-! ## Refused writes (R14, R388) -/

/-- A journal record's only registers are the journal's own interrupt bits and its counter of lost records. -/
@[simp] theorem Dev.reg_log_ne (d : Dev) {e : Ev} {params : Bytes} {b : Nat} (hirq : b ≠ 0xA0050) (hcnt : b ≠ evjCnt 3) :
    (d.log e params).reg b = d.reg b := by
  have hraise : ∀ (x : Dev) (n : Nat), (x.raise (irqEvj n)).reg b = x.reg b := fun x n => Dev.reg_raise_ne x hirq
  unfold Dev.log
  extract_lets ps
  split
  · rw [Dev.reg_raiseIf_ne _ (i := irqEvj 0) hirq]; exact Dev.reg_congr rfl b
  · split
    · rw [hraise, Dev.reg_count_ne _ hcnt]
    · rw [hraise, Dev.reg_count_ne _ hcnt]; exact Dev.reg_congr rfl b

@[simp] theorem Dev.reg_logLimited_ne (d : Dev) {e : Ev} {limit : Nat} {params : Nat → Bytes} {b : Nat}
    (hirq : b ≠ 0xA0050) (hcnt : b ≠ evjCnt 3) : (d.logLimited e limit params).reg b = d.reg b := by
  unfold Dev.logLimited Dev.logKeyed
  extract_lets r recent
  split
  · rw [Dev.reg_log_ne _ hirq hcnt]; exact Dev.reg_congr rfl b
  · exact Dev.reg_congr rfl b

/-- CHIP_ACC_ERR once a refusal is recorded: the first one stands until it is cleared (R397). -/
def Dev.accErr (d : Dev) (i : Iface) (cause a : Nat) : Dev :=
  if bit (d.regN 0x28) 31 then d else d.setRegN 0x28 (2 ^ 31 + i.code * 2 ^ 29 + cause * 2 ^ 26 + a)

theorem Dev.reg_accErr_ne (d : Dev) {i : Iface} {cause a b : Nat} (h : b ≠ 0x28) :
    (d.accErr i cause a).reg b = d.reg b := by
  unfold Dev.accErr
  split
  · rfl
  · exact Dev.reg_setRegN_ne d _ h

theorem Dev.regN_accErr (d : Dev) (i : Iface) (cause a : Nat) :
    (d.accErr i cause a).regN 0x28 =
      if bit (d.regN 0x28) 31 then d.regN 0x28 else (2 ^ 31 + i.code * 2 ^ 29 + cause * 2 ^ 26 + a) % 2 ^ 32 := by
  unfold Dev.accErr
  split
  · rfl
  · exact Dev.regN_setRegN_same _ _ _

/-- The registers that a refusal not of firmware's touches: CHIP_ACC_ERR, then CHIP_REFUSED, then the journal's. -/
theorem Dev.reg_refuse (d : Dev) {i : Iface} {cause a b : Nat} (hc : cause ≠ 3) (hirq : b ≠ 0xA0050) (hcnt : b ≠ evjCnt 3) :
    (d.refuse i cause a).reg b = ((d.accErr i cause a).count 0x2C).reg b := by
  simp only [Dev.refuse, if_neg hc, Dev.reg_logLimited_ne _ hirq hcnt, Dev.accErr]

theorem Dev.reg_refuse_ne (d : Dev) {i : Iface} {cause a b : Nat} (hc : cause ≠ 3) (herr : b ≠ 0x28) (href : b ≠ 0x2C)
    (hirq : b ≠ 0xA0050) (hcnt : b ≠ evjCnt 3) : (d.refuse i cause a).reg b = d.reg b := by
  rw [Dev.reg_refuse d hc hirq hcnt, Dev.reg_count_ne _ href, Dev.reg_accErr_ne d herr]

theorem Dev.regN_refuse_refused (d : Dev) {i : Iface} {cause a : Nat} (hc : cause ≠ 3) :
    (d.refuse i cause a).regN 0x2C = satAdd 0xFFFFFFFF (d.regN 0x2C) 1 := by
  have hcount : (d.accErr i cause a).regN 0x2C = d.regN 0x2C := congrArg BitVec.toNat (Dev.reg_accErr_ne d (by decide))
  rw [← hcount, ← Dev.regN_count_same]
  exact congrArg BitVec.toNat (Dev.reg_refuse d hc (by decide) (by decide))

theorem Dev.regN_refuse_accErr (d : Dev) {i : Iface} {cause a : Nat} (hc : cause ≠ 3) :
    (d.refuse i cause a).regN 0x28 =
      if bit (d.regN 0x28) 31 then d.regN 0x28 else (2 ^ 31 + i.code * 2 ^ 29 + cause * 2 ^ 26 + a) % 2 ^ 32 := by
  rw [← Dev.regN_accErr]
  refine congrArg BitVec.toNat ?_
  rw [Dev.reg_refuse d hc (by decide) (by decide), Dev.reg_count_ne _ (by decide)]

/-- Only a register of the table has locked fields. -/
theorem Dev.regRow_of_changesLocked {d : Dev} {a w : Nat} (h : d.changesLocked a w = true) : ∃ r, regRow a = some r := by
  unfold Dev.changesLocked at h
  split at h
  next r hr => exact ⟨r, hr⟩
  next => cases h

/-- A write in band that would change a locked field is refused as LOCKED once an image is applied. -/
theorem Dev.wholeRefusal_inBand_locked {d : Dev} {sid a w : Nat} (him : d.image.isSome = true)
    (hlock : d.changesLocked a w = true) : d.wholeRefusal (.inBand sid) a w = some 1 := by
  simp [Dev.wholeRefusal, him, hlock]

/-- A write in band that is refused whole does nothing but be recorded; CHIP_RST_CTL acts of itself. -/
theorem Dev.regAct_inBand_refused {d : Dev} {nv : Secure} {sid a w cause : Nat} (hr : d.reaches (.inBand sid) = true)
    (hw : d.wholeRefusal (.inBand sid) a w = some cause) (ha : a ≠ 0x40) :
    d.regAct nv (.inBand sid) a w = (nv, d.refuse (.inBand sid) cause a) := by
  simp [Dev.regAct, Dev.regWrite, hr, hw, ha]

theorem exec_regWriteWord (i : Iface) (a w : Nat) (s : State) :
    exec (.regWriteWord i a w) s = s.run fun d nv => d.regAct nv i a w := rfl

/-- Settles O13: the write is refused for cause LOCKED, and a refusal touches its records alone. -/
theorem lockedFieldsHold : Obligations.LockedFieldsHold := by
  unfold Obligations.LockedFieldsHold Makes
  intro s sid a w im him hlock hreach
  obtain ⟨r, hrow⟩ := Dev.regRow_of_changesLocked hlock
  have hlt := regRow_lt hrow
  have hrst : a ≠ 0x40 := by
    rintro rfl
    exact absurd hrow (by rw [show regRow 0x40 = none by decide +kernel]; exact nofun)
  have hact := Dev.regAct_inBand_refused (nv := s.nv) hreach
    (Dev.wholeRefusal_inBand_locked (by rw [him]; rfl) hlock) hrst
  have hexec := exec_regWriteWord (.inBand sid) a w s
  rw [State.run_next, hact] at hexec
  have hlocked : (1 : Nat) ≠ 3 := by decide
  refine ⟨_, hexec, rfl, Secure.follow_of_keeps Dev.refuse_keeps rfl,
    fun b herr href hirq hcnt => Dev.reg_refuse_ne s.dev hlocked herr href hirq hcnt,
    Dev.regN_refuse_refused s.dev hlocked, fun hfree => ?_, fun hheld => ?_⟩
  · refine (Dev.regN_refuse_accErr s.dev hlocked).trans ?_
    rw [hfree, if_neg Bool.false_ne_true]
    have hcode : (Iface.inBand sid).code = 1 := rfl
    rw [hcode, Nat.one_mul, Nat.one_mul]
    exact Nat.mod_eq_of_lt (by omega)
  · refine (Dev.regN_refuse_accErr s.dev hlocked).trans ?_
    rw [hheld, if_pos rfl]

/-! ## Reads (R12, R387) -/

theorem exec_rcRead (i : Iface) (a : Nat) (s : State) :
    exec (.rcRead i a) s = s.run fun d nv => (nv, d.regLook nv i a) := rfl

theorem exec_latchedRead (i : Iface) (a : Nat) (s : State) :
    exec (.latchedRead i a) s = s.runIf (fun _ => latchesHi a) fun d nv => (nv, d.regLook nv i a) := rfl

/-- What a read clears is no reservation of a counter and begins no reset and no shutdown. -/
theorem Dev.clearRc_follow (d : Dev) (a : Nat) :
    (d.clearRc a).cap.sctrReserved = d.cap.sctrReserved ∧
      (d.clearRc a).life.datapathDown = d.life.datapathDown ∧ (d.clearRc a).life.flush = d.life.flush := by
  have hlane : ∀ n f, (d.modLane n f).cap = d.cap ∧ (d.modLane n f).life = d.life := fun n f =>
    ⟨Dev.modLane_keeps.same .cap rfl, Dev.modLane_keeps.same .life rfl⟩
  have hsite : ∀ n f, (d.modSite n f).cap = d.cap ∧ (d.modSite n f).life = d.life := fun n f =>
    ⟨Dev.modSite_keeps.same .cap rfl, Dev.modSite_keeps.same .life rfl⟩
  unfold Dev.clearRc
  split
  case h_9 => split <;> exact ⟨rfl, rfl, rfl⟩
  all_goals simp [hlane, hsite]

/-- The word that a read takes where the path has latched none, and the device that the read leaves. -/
def Dev.lookPlain (d : Dev) (nv : Secure) (i : Iface) (a w : Nat) : Dev :=
  let latched := if latchesHi a then
      { d with latches := d.latches.put (latchKey i (a + 4)) (BitVec.ofNat 32 ((d.view nv (a + 4)).getD 0)) }
    else d
  { latched.clearRc a with readData := BitVec.ofNat 32 w }

section
variable {d : Dev} {nv : Secure} {i : Iface} {a w : Nat} (hr : d.reaches i = true) (ho : d.regOff a = false)
  (hv : d.view nv a = some w)
include hr ho hv

/-- A read of a register whose domain is ON, with no latch of the path on it. -/
theorem Dev.regLook_plain (hl : d.latches.find (latchKey i a) = none) : d.regLook nv i a = d.lookPlain nv i a w := by
  have hw : BitVec.ofNat 32 (w % 4294967296) = BitVec.ofNat 32 w := BitVec.eq_of_toNat_eq (by simp)
  simp [Dev.regLook, Dev.regRead, Dev.lookPlain, hr, ho, hv, hl, hw]

/-- A read of a register that the path has latched gives the latch and uses it up. -/
theorem Dev.regLook_latched {h : Word} (hl : d.latches.find (latchKey i a) = some h) :
    d.regLook nv i a = { d with readData := h, latches := d.latches.del (latchKey i a) } := by
  simp [Dev.regLook, Dev.regRead, hr, ho, hv, hl]

end

/-- A register of the table clears its RC fields; the state that a read clears elsewhere lies at no row's address. -/
theorem Dev.clearRc_of_row (d : Dev) {a : Nat} {r : RegRow} (h : regRow a = some r) :
    d.clearRc a = d.setRegN a (d.regN a - (d.regN a &&& r.rc)) := by
  have hnone : ∀ x ∈ ([0x4C, 0x300C, 0x18008, 0x18014, 0x18024, 0x18034, 0x18044, 0x700B0] : List Nat),
      regRow x = none := by decide +kernel
  unfold Dev.clearRc
  split
  case h_9 => rw [h]
  all_goals rw [hnone _ (by decide)] at h; cases h

/-- A counter that clears on read is left at zero. -/
theorem Dev.clearRc_counter (d : Dev) {a : Nat} {r : RegRow} (h : regRow a = some r) (hrc : r.rc = 0xFFFFFFFF) :
    d.clearRc a = d.setReg a 0 := by
  have hall : d.regN a &&& 0xFFFFFFFF = d.regN a := Nat.and_two_pow_sub_one_of_lt_two_pow (n := 32) (d.regN_lt a)
  rw [Dev.clearRc_of_row d h, hrc, hall, Nat.sub_self]
  rfl

/-- The read of a counter that clears on read gives its value, sets it to zero, and does nothing else. -/
theorem Dev.lookPlain_counter (d : Dev) (nv : Secure) (i : Iface) {a : Nat} {r : RegRow} (h : regRow a = some r)
    (hrc : r.rc = 0xFFFFFFFF) : d.lookPlain nv i a (d.regN a) = { d.setReg a 0 with readData := d.reg a } := by
  simp [Dev.lookPlain, rc_not_latchesHi h hrc, Dev.clearRc_counter d h hrc, Dev.regN]

/-- A LO read latches its HI, and no other latch changes. -/
theorem Dev.lookPlain_latches (d : Dev) (nv : Secure) (i : Iface) {a hi : Nat} (w : Nat) (ha : latchesHi a = true)
    (hv : d.view nv (a + 4) = some hi) :
    (d.lookPlain nv i a w).latches = d.latches.put (latchKey i (a + 4)) (BitVec.ofNat 32 hi) := by
  simp only [Dev.lookPlain, ha, hv, if_true, Option.getD_some]
  exact Dev.clearRc_keeps.same .latches rfl

/-- A read reserves no counter's block and begins no reset, so SEC's store takes nothing in with it. -/
theorem Secure.follow_lookPlain (kept : Secure) (d : Dev) (nv : Secure) (i : Iface) (a w : Nat) :
    kept.follow d (d.lookPlain nv i a w) = kept := by
  unfold Dev.lookPlain
  extract_lets latched
  have hvpl : (latched.clearRc a).vpl = latched.vpl := Dev.clearRc_keeps.same .vpl rfl
  obtain ⟨hcap, hdown, hflush⟩ := latched.clearRc_follow a
  have hlatched : latched.vpl = d.vpl ∧ latched.cap = d.cap ∧ latched.life = d.life := by
    unfold latched
    split <;> exact ⟨rfl, rfl, rfl⟩
  obtain ⟨hv, hc, hl⟩ := hlatched
  exact Secure.follow_same (congrArg Vpl.reserved (hvpl.trans hv)) (hcap.trans (by rw [hc])) (hdown.trans (by rw [hl]))
    (hflush.trans (by rw [hl]))

/-- A register that shows no other state shows its own word. -/
theorem Dev.view_of_row {d : Dev} {nv : Secure} {a : Nat} {r : RegRow} (h : regRow a = some r)
    (hs : d.shows nv a = none) : d.view nv a = some (d.regN a) := by
  simp [Dev.view, hs, h]

theorem does_rcRead {s : State} {i : Iface} {a : Nat} {e : Dev} (h : s.dev.regLook s.nv i a = e)
    (hnv : s.nv.follow s.dev e = s.nv) : Does (.rcRead i a) s e := by
  unfold Does
  rw [exec_rcRead, State.run_next, h, hnv]

/-- Settles O15: a counter's read clears it, a LO read puts its HI's latch for the path, and the next HI read takes it. -/
theorem registerReads : Obligations.RegisterReads := by
  unfold Obligations.RegisterReads
  refine ⟨fun s i a r hrow hrc hshows hreach hoff hlatch => ?_,
    fun s i a lo hi ha hreach hoff hlo hhi hlatch => ?_, fun s i a w h hreach hoff hview hlatch => ?_⟩
  · have hlook := Dev.regLook_plain hreach hoff (Dev.view_of_row hrow hshows) hlatch
    have hfollow := Secure.follow_lookPlain s.nv s.dev s.nv i a (s.dev.regN a)
    rw [Dev.lookPlain_counter s.dev s.nv i hrow hrc] at hlook hfollow
    refine ⟨_, does_rcRead hlook hfollow, rfl, ?_, fun b hb => ?_, rfl⟩
    · exact congrArg BitVec.toNat (Dev.reg_setReg_same s.dev a 0)
    · exact Dev.reg_setReg_ne s.dev 0 hb
  · have hexec := exec_latchedRead i a s
    rw [State.runIf_next, State.run_next, ha, if_pos rfl, Dev.regLook_plain hreach hoff hlo hlatch] at hexec
    have hput := Dev.lookPlain_latches s.dev s.nv i lo ha hhi
    refine ⟨_, hexec, rfl, Secure.follow_lookPlain s.nv s.dev s.nv i a lo, rfl, ?_, fun k hk => ?_⟩
    · exact (congrArg (Tab.find · _) hput).trans (Tab.find_put_same _ _ _)
    · exact (congrArg (Tab.find · _) hput).trans (Tab.find_put_ne _ _ hk)
  · exact does_rcRead (Dev.regLook_latched hreach hoff hview hlatch) (Secure.follow_same rfl rfl rfl rfl)

end Sys2Proof.Machine
end

section
/-! PROOFS. Commits and the device write counter: where a write whose segments are all in place goes, and what a draw of
the counter makes of it. -/

namespace Sys2Proof.Machine

/-! ## Where a write whose segments are all in place goes (R17, R175, R180) -/

/-- Whether the commit of a write changes the index: a value written through changes it later, and operations of kind 3 and
4 never do. -/
def WriteJob.changesIndex (w : WriteJob) : Bool := !w.through && w.ops.any fun o => o.kind ≤ 2

theorem WriteJob.changesIndex_iff (w : WriteJob) :
    w.changesIndex = true ↔ w.through = false ∧ ∃ o ∈ w.ops, o.kind ≤ 2 := by
  simp [WriteJob.changesIndex]

theorem exec_stagingComplete (ctx : Nat) (s : State) :
    exec (.stagingComplete ctx) s = s.act fun d => d.stagingComplete ctx := rfl

section
variable {d : Dev} {ctx : Nat} {f : Flight} {w : WriteJob} (hf : d.flight ctx = some f) (hw : f.write = some w)
    (hdone : w.phase = .building ∧ w.complete f.cmd = true)
include hf hw hdone

theorem Dev.stagingComplete_indexGone {dom : Nat} (hi : w.changesIndex = true) (hoff : d.idxOff = some dom) :
    d.stagingComplete ctx = (d.failWrite ctx stResourceOff 0 dom).flushesDone := by
  unfold WriteJob.changesIndex at hi
  simp only [Dev.stagingComplete, hf, hw, if_pos hdone, hi, if_true, hoff]

theorem Dev.stagingComplete_held (hi : w.changesIndex = true) (hoff : d.idxOff = none) (hheld : d.idx.held = true) :
    d.stagingComplete ctx = d.holdIndex := by
  unfold WriteJob.changesIndex at hi
  simp only [Dev.stagingComplete, hf, hw, if_pos hdone, hi, if_true, hoff, hheld, Bool.and_self]

theorem Dev.stagingComplete_commits (hfree : w.changesIndex = false ∨ (d.idxOff = none ∧ d.idx.held = false)) :
    d.stagingComplete ctx = ((d.commit ctx f w).flushesDone).leaguePump := by
  unfold WriteJob.changesIndex at hfree
  simp only [Dev.stagingComplete, hf, hw, if_pos hdone]
  obtain hi | ⟨hoff, hheld⟩ := hfree
  · simp [hi]
  · simp [hoff, hheld]

end

/-! ## A write that ends before its commit draws nothing -/

theorem Dev.failWrite_vpl (d : Dev) (ctx status version detail : Nat) :
    (d.failWrite ctx status version detail).vpl = d.vpl.keepHolds fun h => h.ctx != ctx := by
  unfold Dev.failWrite
  extract_lets job segs stranded media freed counted
  have hstranded : stranded.vpl = d.vpl := by
    unfold stranded
    clear_value job
    split
    · exact Dev.strand_keeps.same .vpl rfl
    · rfl
  have hfreed : freed.vpl = d.vpl.keepHolds fun h => h.ctx != ctx := by
    unfold freed
    rw [hstranded]
  have hcounted : counted.vpl = d.vpl.keepHolds fun h => h.ctx != ctx :=
    Eq.trans (Dev.countN_keeps.same .vpl rfl : counted.vpl = freed.vpl) hfreed
  split
  · exact (Dev.finishOk_keeps.same .vpl rfl).trans hcounted
  · exact (Dev.finish_keeps.same .vpl rfl).trans hcounted

/-- SEC's store takes in nothing with the end of a write that fails. -/
theorem Secure.follow_failWrite (kept : Secure) (d : Dev) (ctx status version detail : Nat) :
    kept.follow d ((d.failWrite ctx status version detail).flushesDone) = kept := by
  have hvpl : ((d.failWrite ctx status version detail).flushesDone).vpl = d.vpl.keepHolds fun h => h.ctx != ctx :=
    (Dev.flushesDone_keeps.same .vpl rfl).trans (d.failWrite_vpl ctx status version detail)
  have hends : Keeps [.regs, .evj, .ports, .sess, .cqe, .vpl, .fmm] d
      ((d.failWrite ctx status version detail).flushesDone) := Dev.flushesDone_keeps.step rfl Dev.failWrite_keeps
  have hcap : ((d.failWrite ctx status version detail).flushesDone).cap = d.cap := hends.same .cap rfl
  have hlife : ((d.failWrite ctx status version detail).flushesDone).life = d.life := hends.same .life rfl
  exact Secure.follow_same (by rw [hvpl]; rfl) (by rw [hcap]) (by rw [hlife]) (by rw [hlife])

/-! ## The device write counter (R198, R199) -/

/-- Devices whose write counters are equal, in the next value and in what is reserved. -/
def Dev.SameCtr (d e : Dev) : Prop := e.vpl.wctr = d.vpl.wctr ∧ e.vpl.reserved = d.vpl.reserved

theorem Dev.log_raise_vpl (d : Dev) (i : Irq) (e : Ev) (params : Bytes) : ((d.raise i).log e params).vpl = d.vpl :=
  (Dev.log_keeps.same .vpl rfl).trans (Dev.raise_keeps.same .vpl rfl)

theorem Dev.reportExhausted_ctr (d : Dev) : d.SameCtr d.reportExhausted := by
  unfold Dev.reportExhausted
  split
  · exact ⟨rfl, rfl⟩
  · unfold Dev.SameCtr
    rw [Dev.log_raise_vpl]
    exact ⟨rfl, rfl⟩

theorem Dev.warnCtr_ctr (d : Dev) (level v at_ : Nat) : d.SameCtr (d.warnCtr level v at_) := by
  unfold Dev.warnCtr
  split
  · unfold Dev.SameCtr
    rw [Dev.log_raise_vpl]
    exact ⟨rfl, rfl⟩
  · exact ⟨rfl, rfl⟩

theorem Dev.SameCtr.trans {d e g : Dev} (h : d.SameCtr e) (k : e.SameCtr g) : d.SameCtr g :=
  ⟨k.1.trans h.1, k.2.trans h.2⟩

/-- A draw beyond the last value gives none and reports it. -/
theorem Dev.drawCtr_exhausted {d : Dev} (h : wctrLast < d.vpl.wctr) : d.drawCtr = (none, d.reportExhausted) := by
  simp only [Dev.drawCtr, if_pos h]

/-- A draw up to the last value gives the counter and moves it on by one; what is reserved never falls. -/
theorem Dev.drawCtr_value {d : Dev} (h : d.vpl.wctr ≤ wctrLast) :
    d.drawCtr.1 = some d.vpl.wctr ∧ d.drawCtr.2.vpl.wctr = d.vpl.wctr + 1 ∧
      d.vpl.reserved ≤ d.drawCtr.2.vpl.reserved := by
  unfold Dev.drawCtr
  extract_lets v res pool moved warned
  have hwarned : moved.SameCtr warned := (moved.warnCtr_ctr _ _ _).trans (Dev.warnCtr_ctr _ _ _ _)
  have hend : moved.SameCtr (if v = wctrLast then warned.reportExhausted else warned) := by
    split
    · exact hwarned.trans warned.reportExhausted_ctr
    · exact hwarned
  have hres : d.vpl.reserved ≤ res := by
    unfold res
    split <;> omega
  obtain ⟨hctr, hreserved⟩ := hend
  rw [if_neg (Nat.not_lt.mpr h)]
  exact ⟨rfl, hctr, Nat.le_trans hres (Nat.le_of_eq hreserved.symm)⟩

/-- Settles O43: a complete write commits, is held or fails as the index stands, and a draw gives the counter, once. -/
theorem writesCommit : Obligations.WritesCommit := by
  unfold Obligations.WritesCommit
  refine ⟨fun s ctx f w hf hw hbuilding hcomplete => ⟨fun hfree => ?_, fun hi hoff hheld => ?_, fun dom hi hoff => ?_⟩,
    fun d e v hdraw => ?_, fun d e hdraw => ?_⟩
  · have hcommits := Dev.stagingComplete_commits hf hw ⟨hbuilding, hcomplete⟩
      (hfree.imp_left fun hi => Bool.eq_false_iff.mpr (mt w.changesIndex_iff.mp hi))
    unfold Acts
    rw [exec_stagingComplete, State.act_next, hcommits]
  · have hholds := Dev.stagingComplete_held hf hw ⟨hbuilding, hcomplete⟩ (w.changesIndex_iff.mpr hi) hoff hheld
    unfold Does
    rw [exec_stagingComplete, State.act_next, hholds, Secure.follow_of_keeps Dev.holdIndex_keeps rfl]
  · have hfails := Dev.stagingComplete_indexGone hf hw ⟨hbuilding, hcomplete⟩ (w.changesIndex_iff.mpr hi) hoff
    unfold Does
    rw [exec_stagingComplete, State.act_next, hfails, Secure.follow_failWrite]
  · obtain hlast | hleft := Nat.lt_or_ge wctrLast d.vpl.wctr
    · rw [Dev.drawCtr_exhausted hlast] at hdraw
      cases hdraw
    · obtain ⟨hv, hnext, hres⟩ := Dev.drawCtr_value hleft
      rw [hdraw] at hv hnext hres
      cases hv
      exact ⟨rfl, hleft, hnext, hres⟩
  · obtain hlast | hleft := Nat.lt_or_ge wctrLast d.vpl.wctr
    · rw [Dev.drawCtr_exhausted hlast] at hdraw
      cases hdraw
      exact ⟨hlast, d.reportExhausted_ctr.1⟩
    · have hv := (Dev.drawCtr_value hleft).1
      rw [hdraw] at hv
      cases hv

end Sys2Proof.Machine
end

section
/-! PROOFS. Dispatch, arbitration windows and command timeouts: what a chosen command's context holds, and what the
answer to a command that waited too long leaves of the queue and of CQE's registers. -/

namespace Sys2Proof.Machine

/-! ## The end of a dispatched command, and of the FLUSHes that waited -/

/-- The end of a dispatched command with OK: nothing where no command holds the context, and no answer where
its session is gone. -/
theorem Dev.finishOk_cases (d : Dev) (ctx version : Nat) (param data : Bytes) :
    d.finishOk ctx version param data = d ∨
      ∃ ended, ended = { d with cqe := { d.cqe with flights := d.cqe.flights.del ctx } } ∧
        (d.finishOk ctx version param data = ended ∨
          ∃ sid queue tag msg, d.finishOk ctx version param data = ended.answer sid queue tag msg) := by
  unfold Dev.finishOk Dev.finishData Dev.finishWith
  split
  · exact .inl rfl
  · split
    · exact .inl rfl
    · refine .inr ⟨_, rfl, ?_⟩
      split
      · exact .inl rfl
      · exact .inr ⟨_, _, _, _, rfl⟩

/-- What each FLUSH that ends keeps holds once all of them have ended. -/
theorem Dev.flushesDone_inv {P : Dev → Prop} (hstep : ∀ e ctx, P e → P ((e.count (cqeCnt 11)).finishOk ctx 0 [] []))
    {d : Dev} (h : P d) : P d.flushesDone := by
  unfold Dev.flushesDone
  refine foldl_inv (fun e p he => ?_) h
  extract_lets waiting unsent
  split
  · exact hstep e p.1 he
  · exact he

/-! ## Registers that no frame sent touches -/

/-- The register is neither DKT's count of packets sent (R108) nor a port's interrupt status (R82): what the device sends
leaves it as it is. -/
def OffWire (b : Nat) : Prop := b ≠ dktCnt 9 ∧ ∀ n, b ≠ (irqEp n 5).addr

/-- A port's interrupt status lies 0x18 above a multiple of 0x1000. -/
theorem offWire_of_mod {b : Nat} (hcnt : b ≠ dktCnt 9) (hmod : b % 0x1000 ≠ 0x18) : OffWire b := by
  refine ⟨hcnt, fun n => ?_⟩
  simp only [irqEp]
  omega

section
variable {b : Nat} (hb : OffWire b)
include hb

theorem Dev.reg_portCount_offWire (d : Dev) (n i amt : Nat) : (d.portCount n i amt).reg b = d.reg b := by
  unfold Dev.portCount
  split
  · rfl
  · extract_lets old new crossed counted
    rw [Dev.reg_raiseIf_ne _ (hb.2 n)]
    exact Dev.reg_congr (Dev.modPort_keeps.same .regs rfl) b

theorem Dev.reg_queueFrame_offWire (d : Dev) (n : Nat) (f : TxFrame) : (d.queueFrame n f).reg b = d.reg b := by
  unfold Dev.queueFrame
  split
  · exact Dev.reg_congr (Dev.modPort_keeps.same .regs rfl) b
  · exact Dev.reg_portCount_offWire hb d n 42 1

theorem Dev.reg_sendPacket_offWire (d : Dev) (sid : Nat) (h : DktHdr) (payload : Bytes) :
    (d.sendPacket sid h payload).reg b = d.reg b := by
  unfold Dev.sendPacket
  split
  · rfl
  · extract_lets limit hdr advertised
    unfold Dev.sendDatagram
    rw [Dev.reg_count_ne _ hb.1, Dev.reg_queueFrame_offWire hb]
    rfl

theorem Dev.reg_pumpOne_offWire {d e : Dev} {sid : Nat} (h : d.pumpOne sid = some e) : e.reg b = d.reg b := by
  unfold Dev.pumpOne at h
  split at h
  · cases h
  · split at h
    · cases h
    · split at h
      · cases h
      · cases h
        exact Dev.reg_sendPacket_offWire hb _ _ _ _

theorem Dev.reg_pumpN_offWire (sid n : Nat) (d : Dev) : (Dev.pumpN sid n d).reg b = d.reg b := by
  induction n generalizing d with
  | zero => rfl
  | succ n ih =>
    unfold Dev.pumpN
    split
    next e h => rw [ih, Dev.reg_pumpOne_offWire hb h]
    next => rfl

theorem Dev.reg_answer_offWire (d : Dev) (sid queue tag : Nat) (msg : Bytes) :
    (d.answer sid queue tag msg).reg b = d.reg b :=
  Dev.reg_pumpN_offWire hb sid 1024 _

theorem Dev.reg_finishOk_offWire (d : Dev) (ctx version : Nat) (param data : Bytes) :
    (d.finishOk ctx version param data).reg b = d.reg b := by
  obtain h | ⟨ended, rfl, h | ⟨sid, queue, tag, msg, h⟩⟩ := d.finishOk_cases ctx version param data
  · rw [h]
  · rw [h]; rfl
  · rw [h, Dev.reg_answer_offWire hb]; rfl

/-- The FLUSHes that end count themselves, answer, and touch no other register. -/
theorem Dev.reg_flushesDone_offWire (hf : b ≠ cqeCnt 11) (d : Dev) : d.flushesDone.reg b = d.reg b :=
  Dev.flushesDone_inv (P := fun e => e.reg b = d.reg b)
    (fun e ctx he => by rw [Dev.reg_finishOk_offWire hb, Dev.reg_count_ne _ hf, he]) rfl

end

/-- A raised interrupt bit reads set. -/
theorem Dev.bit_raise (d : Dev) {i : Irq} (h : i.bit < 32) : bit ((d.raise i).regN i.addr) i.bit = true := by
  unfold Dev.raise Dev.regN
  rw [Dev.reg_setReg_same, bit_eq_testBit, BitVec.testBit_toNat, BitVec.getLsbD_or]
  simp [h]

/-! ## Command timeouts (R121) -/

/-- The end of a dispatched command leaves the queues as they are. -/
theorem Dev.finishOk_queued (d : Dev) (ctx version : Nat) (param data : Bytes) :
    (d.finishOk ctx version param data).cqe.queued = d.cqe.queued := by
  have hanswer : ∀ (e : Dev) sid queue tag msg, (e.answer sid queue tag msg).cqe = e.cqe :=
    fun _ _ _ _ _ => Dev.answer_keeps.same .cqe rfl
  obtain h | ⟨ended, rfl, h | ⟨sid, queue, tag, msg, h⟩⟩ := d.finishOk_cases ctx version param data
  · rw [h]
  · rw [h]
  · rw [h, hanswer]

theorem Dev.flushesDone_queued (d : Dev) : d.flushesDone.cqe.queued = d.cqe.queued :=
  Dev.flushesDone_inv (P := fun e => e.cqe.queued = d.cqe.queued)
    (fun _ ctx he => (Dev.finishOk_queued _ ctx 0 [] []).trans he) rfl

theorem exec_commandTimeout (n : Nat) (s : State) :
    exec (.commandTimeout n) s = s.actIf (fun d => d.admits) fun d => d.commandTimeout n := rfl

/-- A status TIMEOUT is counted and raises its interrupt. -/
theorem Dev.countStatus_timeout (d : Dev) : d.countStatus stTimeout = (d.count (cqeCnt 5)).raise (irqCqe 4) := rfl

/-- The device once a command has left its queue and given up the cells that its message held (R119). -/
def Dev.dequeue (d : Dev) (n : Nat) (c : Cmd) : Dev :=
  ({ d with cqe := { d.cqe with queued := d.cqe.queued.del n } }).freeCells c.cells

@[simp] theorem Dev.dequeue_queued (d : Dev) (n : Nat) (c : Cmd) : (d.dequeue n c).cqe.queued = d.cqe.queued.del n :=
  congrArg Engine.queued (Dev.freeCells_keeps.same .cqe rfl)

@[simp] theorem Dev.reg_dequeue (d : Dev) (n : Nat) (c : Cmd) (b : Nat) : (d.dequeue n c).reg b = d.reg b :=
  Dev.reg_congr (Dev.freeCells_keeps.same .regs rfl) b

section
variable {d : Dev} {n : Nat} {c : Cmd} (hq : d.cqe.queued.find n = some c)
include hq

theorem Dev.commandTimeout_untimed (ht : c.timeout = 0) : d.commandTimeout n = d := by
  simp only [Dev.commandTimeout, hq, ht, true_or, if_true]

variable (ht : c.timeout ≠ 0) (hpause : d.cqe.paused = false) (hcores : d.life.coresDown = false)
include ht hpause hcores

/-- A command whose TIMEOUT passes leaves its queue and is answered TIMEOUT; a FLUSH may have waited for it alone. -/
theorem Dev.commandTimeout_answers : d.commandTimeout n =
    ((d.dequeue n c).answerStatus c.session c.queue c.tag c.op stTimeout 0 0).flushesDone := by
  simp [Dev.commandTimeout, Dev.dequeue, hq, ht, hpause, hcores]

theorem Dev.commandTimeout_queued : (d.commandTimeout n).cqe.queued = d.cqe.queued.del n := by
  have hanswer : ((d.dequeue n c).answerStatus c.session c.queue c.tag c.op stTimeout 0 0).cqe = (d.dequeue n c).cqe :=
    Dev.answerStatus_keeps.same .cqe rfl
  rw [Dev.commandTimeout_answers hq ht hpause hcores, Dev.flushesDone_queued, hanswer, Dev.dequeue_queued]

/-- Off the wire, a timeout changes what TIMEOUT's own count and interrupt change, and what the FLUSHes that end count. -/
theorem Dev.reg_commandTimeout {b : Nat} (hb : OffWire b) (hf : b ≠ cqeCnt 11) :
    (d.commandTimeout n).reg b = (((d.dequeue n c).count (cqeCnt 5)).raise (irqCqe 4)).reg b := by
  rw [Dev.commandTimeout_answers hq ht hpause hcores, Dev.reg_flushesDone_offWire hb hf, Dev.answerStatus,
    Dev.reg_answer_offWire hb, Dev.countStatus_timeout]

theorem Dev.commandTimeout_counted :
    (d.commandTimeout n).regN (cqeCnt 5) = satAdd 0xFFFFFFFF (d.regN (cqeCnt 5)) 1 := by
  have hoff : OffWire (cqeCnt 5) := offWire_of_mod (by decide) (by decide)
  have hreg := Dev.reg_commandTimeout hq ht hpause hcores hoff (by decide)
  rw [Dev.reg_raise_ne _ (by decide)] at hreg
  have hcount := (d.dequeue n c).regN_count_same (cqeCnt 5)
  simpa only [Dev.regN, hreg, Dev.reg_dequeue] using hcount

theorem Dev.commandTimeout_raises : bit ((d.commandTimeout n).regN (irqCqe 4).addr) (irqCqe 4).bit = true := by
  have hoff : OffWire (irqCqe 4).addr := offWire_of_mod (by decide) (by decide)
  rw [Dev.regN, Dev.reg_commandTimeout hq ht hpause hcores hoff (by decide)]
  exact Dev.bit_raise _ (by decide)

end

/-! ## Arbitration windows (R116) -/

theorem exec_arbWindow (s : State) : exec .arbWindow s = s.act fun d => d.arbWindow := rfl

/-! ## Dispatch (R116, R118 to R120) -/

theorem exec_dispatch (s : State) : exec .dispatch s = s.act fun d => d.dispatch.leaguePump := rfl

/-! ### What the dispatch of a command reads of the device -/

/-- What a dispatch changes before the checks of R114: registers, the ports' frames, the cell pool and the engine. -/
def dispatchParts : List Part := [.regs, .ports, .belowXoff, .cellsHeld, .cqe]

section
variable {d e : Dev} (k : Keeps dispatchParts d e)
include k

theorem Keeps.domOn_eq : e.domOn = d.domOn := by
  funext n
  unfold Dev.domOn
  rw [k.same .power rfl]

theorem Keeps.ns_eq : e.ns = d.ns := by
  funext n
  unfold Dev.ns
  rw [k.same .nss rfl]

theorem Keeps.activeNs_eq : e.activeNs = d.activeNs := by
  funext n
  unfold Dev.activeNs
  rw [k.ns_eq]

theorem Keeps.offOf_eq : e.offOf = d.offOf := by
  funext n
  unfold Dev.offOf
  rw [k.domOn_eq]

theorem Keeps.idxOff_eq : e.idxOff = d.idxOff := by
  unfold Dev.idxOff
  rw [k.domOn_eq, k.same .idx rfl]

theorem Keeps.mgmtOff_eq : e.mgmtOff = d.mgmtOff := by
  funext op
  unfold Dev.mgmtOff Dev.ccOff
  rw [k.offOf_eq, k.idxOff_eq]

theorem Keeps.enginesOff_eq : e.enginesOff = d.enginesOff := by
  funext mask base
  unfold Dev.enginesOff
  rw [k.domOn_eq]

/-- The masks of the pipeline's engines stand in a register, VPL_CTL. -/
theorem Keeps.domainOff_eq (hmask : e.reg 0x50000 = d.reg 0x50000) : e.domainOff = d.domainOff := by
  have hfield : e.regF 0x50000 = d.regF 0x50000 := by
    funext hi lo
    unfold Dev.regF Dev.regN
    rw [hmask]
  funext n op raw through
  unfold Dev.domainOff Dev.czOff Dev.aeOff Dev.channelOff Dev.czMask Dev.aeMask
  rw [k.domOn_eq, k.offOf_eq, k.idxOff_eq, k.enginesOff_eq, hfield]

theorem Keeps.dispatchRefusal_eq (hmask : e.reg 0x50000 = d.reg 0x50000) : e.dispatchRefusal = d.dispatchRefusal := by
  funext c
  unfold Dev.dispatchRefusal Dev.nsRefusal
  rw [k.activeNs_eq, k.ns_eq, k.mgmtOff_eq, k.domainOff_eq hmask]

theorem Keeps.places_eq : e.places = d.places := by
  funext c
  unfold Dev.places Dev.league
  rw [k.same .image rfl]

theorem Keeps.bindKeys_eq : e.bindKeys = d.bindKeys := by
  have hkey : e.nsKey = d.nsKey := by
    funext n
    unfold Dev.nsKey Dev.bindKey
    rw [k.same .sec rfl]
  funext c
  unfold Dev.bindKeys
  rw [k.ns_eq, hkey]

theorem Keeps.confirm_eq (w : Want) (bad : List (Nat × Nat)) (l : List (Nat × IdxEntry)) (r : Look) :
    e.confirm w bad l r = d.confirm w bad l r := by
  have hvalues : e.fmm = d.fmm := k.same .fmm rfl
  induction l generalizing r with
  | nil => rfl
  | cons x l ih => simp only [Dev.confirm, ih, hvalues]

theorem Keeps.root_eq : e.root = d.root := by
  funext ns key
  unfold Dev.root Dev.lookup Dev.placeOf Dev.unitSlots
  rw [k.confirm_eq, k.same .ident rfl, k.same .idx rfl]

theorem Keeps.cost_eq : e.cost = d.cost := by
  have hbytes : e.costBytes = d.costBytes := by
    funext op ns valLen key param
    unfold Dev.costBytes
    rw [k.root_eq]
  funext c
  unfold Dev.cost
  rw [hbytes]

end

/-! ### The command in its context -/

@[simp] theorem Engine.starve_queued (e : Engine) (now : Nat) : (e.starve now).queued = e.queued := by
  unfold Engine.starve; split <;> rfl

@[simp] theorem Engine.starve_flights (e : Engine) (now : Nat) : (e.starve now).flights = e.flights := by
  unfold Engine.starve; split <;> rfl

@[simp] theorem Engine.starve_dispatched (e : Engine) (now : Nat) : (e.starve now).dispatched = e.dispatched := by
  unfold Engine.starve; split <;> rfl

@[simp] theorem Engine.starve_allCost (e : Engine) (now : Nat) : (e.starve now).allCost = e.allCost := by
  unfold Engine.starve; split <;> rfl

/-- Engine `now` is engine `was` with command `n` out of its queue and in a context, in class `cls`, its keys bound and its
cost charged as device `d` gives them (R116, R119, R120, R197). -/
structure Dev.Takes (d : Dev) (n : Nat) (c : Cmd) (cls : Nat) (was now : Engine) : Prop where
  queued : now.queued.find n = none
  flight : now.flights.find n = some ⟨{ c with cells := 0 }, cls, was.dispatched, d.bindKeys c, false, false, .fresh⟩
  dispatched : now.dispatched = was.dispatched + 1
  allCost : now.allCost = was.allCost + d.cost c

theorem Dev.toFlight_takes (d : Dev) (n : Nat) (c : Cmd) (cls : Nat) :
    d.Takes n c cls d.cqe (d.toFlight n c cls).cqe := by
  unfold Dev.toFlight
  extract_lets cost engine taken
  have hcqe : ((({ d with cqe := taken.starve d.cycles } : Dev).count (cqeCnt 1)).freeCells c.cells).cqe =
      taken.starve d.cycles :=
    (Dev.freeCells_keeps.same .cqe rfl).trans (Dev.count_keeps.same .cqe rfl)
  rw [hcqe]
  constructor <;> simp [taken, engine, cost, Tab.find_del]

theorem Dev.reg_toFlight_ne (d : Dev) (n : Nat) (c : Cmd) (cls : Nat) {b : Nat} (h : b ≠ cqeCnt 1) :
    (d.toFlight n c cls).reg b = d.reg b := by
  unfold Dev.toFlight
  extract_lets cost engine taken
  rw [Dev.reg_congr (Dev.freeCells_keeps.same .regs rfl), Dev.reg_count_ne _ h]
  exact Dev.reg_congr rfl b

theorem Dev.reg_ctxWatch_ne (d : Dev) {b : Nat} (h : b ≠ (irqCqe 2).addr) : d.ctxWatch.reg b = d.reg b := by
  unfold Dev.ctxWatch
  split
  · exact Dev.reg_raise_ne _ h
  · rfl

/-- The device once the chosen command is in its context, an urgent one beyond its budget counted (R118). -/
def Dev.afterChoice (d : Dev) (n cls : Nat) (c : Cmd) (beyond : Bool) (e : Engine) : Dev :=
  let taken := ({ d.ctxWatch with cqe := e }).toFlight n c cls
  if beyond then taken.count (cqeCnt 12) else taken

theorem Dev.afterChoice_cqe (d : Dev) (n cls : Nat) (c : Cmd) (beyond : Bool) (e : Engine) :
    (d.afterChoice n cls c beyond e).cqe = (({ d.ctxWatch with cqe := e }).toFlight n c cls).cqe := by
  unfold Dev.afterChoice
  split
  · exact Dev.count_keeps.same .cqe rfl
  · rfl

theorem Dev.afterChoice_keeps (d : Dev) (n cls : Nat) (c : Cmd) (beyond : Bool) (e : Engine) :
    Keeps dispatchParts d (d.afterChoice n cls c beyond e) := by
  have htaken : Keeps dispatchParts d (({ d.ctxWatch with cqe := e }).toFlight n c cls) :=
    Dev.toFlight_keeps.step rfl (.set_cqe rfl (Dev.ctxWatch_keeps.step rfl .refl))
  exact .ite (Dev.count_keeps.step rfl htaken) htaken

theorem Dev.reg_afterChoice_ne (d : Dev) (n cls : Nat) (c : Cmd) (beyond : Bool) (e : Engine) {b : Nat}
    (hirq : b ≠ (irqCqe 2).addr) (hcnt : b ≠ cqeCnt 1) (hover : b ≠ cqeCnt 12) :
    (d.afterChoice n cls c beyond e).reg b = d.reg b := by
  have htaken : (({ d.ctxWatch with cqe := e }).toFlight n c cls).reg b = d.reg b :=
    (Dev.reg_toFlight_ne _ n c cls hcnt).trans (d.reg_ctxWatch_ne hirq)
  unfold Dev.afterChoice
  split
  · exact (Dev.reg_count_ne _ hover).trans htaken
  · exact htaken

/-- A chosen command whose checks pass and that is not placed stays in its context for its opcode to run (R114, R118). -/
theorem Dev.dispatch_chosen {d : Dev} {n cls : Nat} {c : Cmd} {beyond : Bool} {e : Engine}
    (hopen : d.dispatches = true) (hchoice : d.ctxWatch.choose = (some (n, c, cls), beyond, e))
    (hpass : d.dispatchRefusal c = none) (hplace : d.places c = false) :
    d.dispatch = d.afterChoice n cls c beyond e := by
  have hkeeps := d.afterChoice_keeps n cls c beyond e
  have hmask : (d.afterChoice n cls c beyond e).reg 0x50000 = d.reg 0x50000 :=
    d.reg_afterChoice_ne n cls c beyond e (by decide) (by decide) (by decide)
  rw [← hkeeps.dispatchRefusal_eq hmask] at hpass
  rw [← hkeeps.places_eq] at hplace
  unfold Dev.afterChoice at hpass hplace ⊢
  simp only [Dev.dispatch, hopen, hchoice, hpass, hplace, Bool.not_true, Bool.not_false, Bool.false_eq_true, if_false,
    if_true]

/-- The device before the dispatch gives the keys and the cost: what the choice changes bears on neither. -/
theorem Dev.afterChoice_takes (d : Dev) (n cls : Nat) (c : Cmd) (beyond : Bool) (e : Engine) :
    d.Takes n c cls e (d.afterChoice n cls c beyond e).cqe := by
  have hchoice : Keeps dispatchParts d { d.ctxWatch with cqe := e } := .set_cqe rfl (Dev.ctxWatch_keeps.step rfl .refl)
  obtain ⟨hqueued, hflight, hdispatched, hcost⟩ := Dev.toFlight_takes { d.ctxWatch with cqe := e } n c cls
  rw [d.afterChoice_cqe]
  rw [hchoice.bindKeys_eq] at hflight
  rw [hchoice.cost_eq] at hcost
  exact ⟨hqueued, hflight, hdispatched, hcost⟩

/-- Settles O39: the engine after a dispatch takes the chosen command, and the answer TIMEOUT moves only its own count and
interrupt among the registers off the wire. -/
theorem dispatchAndTimeouts : Obligations.DispatchAndTimeouts := by
  unfold Obligations.DispatchAndTimeouts
  intro s n cls c beyond e
  refine ⟨fun hopen hchoice hpass hplace => ?_, ?_, fun hadmits hq hpause hcores => ⟨fun ht => ?_, fun ht => ?_⟩⟩
  · refine ⟨_, (exec_dispatch s).trans (State.act_next s _), rfl, ?_, ?_⟩
    · exact Secure.follow_of_keeps (Dev.leaguePump_keeps.step rfl Dev.dispatch_keeps) rfl
    · have hpump : s.dev.dispatch.leaguePump.cqe = s.dev.dispatch.cqe := Dev.leaguePump_keeps.same .cqe rfl
      obtain ⟨hqueued, hflight, hdispatched, hcost⟩ := s.dev.afterChoice_takes n cls c beyond e
      rw [hpump, Dev.dispatch_chosen hopen hchoice hpass hplace]
      exact ⟨hqueued, hflight, hdispatched, hcost⟩
  · unfold Does
    rw [exec_arbWindow, State.act_next, Secure.follow_of_keeps Dev.arbWindow_keeps rfl]
    rfl
  · unfold Does
    rw [exec_commandTimeout, State.actIf_next, hadmits, Dev.when, if_pos rfl, Dev.commandTimeout_untimed hq ht,
      Secure.follow_self]
  · have hexec := (exec_commandTimeout n s).trans (State.actIf_next s _ _)
    rw [hadmits, Dev.when, if_pos rfl] at hexec
    exact ⟨_, hexec, rfl, Secure.follow_of_keeps Dev.commandTimeout_keeps rfl,
      Dev.commandTimeout_queued hq ht hpause hcores, Dev.commandTimeout_counted hq ht hpause hcores,
      Dev.commandTimeout_raises hq ht hpause hcores⟩

end Sys2Proof.Machine
end

section
/-! PROOFS. Reads whose segments are checked: what a check that passes says of the bytes, which context holds a command
once another has ended, and what a read releases. -/

namespace Sys2Proof

theorem Tab.find_mod {α : Type} (t : Tab α) (k j : Nat) (f : α → α) :
    (t.mod k f).find j = if j = k then (t.find j).map f else t.find j := by
  induction t with
  | nil => simp [Tab.mod]
  | cons q r ih =>
    obtain ⟨k', v⟩ := q
    by_cases hk : k' = k <;> by_cases hj : k' = j
    · simp [Tab.mod, hk, ← hj]
    · simp [Tab.mod, hk, hk ▸ hj, ih]
    · simp [Tab.mod, hj, hj ▸ hk]
    · simp [Tab.mod, hk, hj, ih]

end Sys2Proof

namespace Sys2Proof.Machine

/-! ## A check that passes (R201) -/

theorem originalBytes_pass {len crc : Nat} {p body plain stored : Bytes}
    (h : (if p.length ≠ len then SegCheck.length else if crc32c p ≠ crc then .crc else .pass p body) = .pass plain stored) :
    plain.length = len ∧ crc32c plain = crc := by
  split at h
  next => cases h
  next hlen =>
    split at h
    next => cases h
    next hcrc =>
      cases h
      exact ⟨Decidable.of_not_not hlen, Decidable.of_not_not hcrc⟩

theorem checkBody_pass {off : Option Nat} {form len crc : Nat} {body plain stored : Bytes}
    (h : checkBody off form len crc body = .pass plain stored) : plain.length = len ∧ crc32c plain = crc := by
  unfold checkBody at h
  split at h
  next =>
    split at h
    next => cases h
    next =>
      split at h
      next => cases h
      next => exact originalBytes_pass h
  next => exact originalBytes_pass h

/-- A check passes through its last stage alone, that of the body's original bytes. -/
theorem Dev.checkSeg_pass {d : Dev} {h : EngineHold} {loc k : Nat} {v : Value} {r : MediaRead} {plain stored : Bytes}
    (hpass : d.checkSeg h loc v k r = .pass plain stored) :
    ∃ x, v.segs[k]? = some x ∧ plain.length = v.segLen k ∧ crc32c plain = x.crc := by
  unfold Dev.checkSeg at hpass
  -- Hidden behind a name of its own, the search for a channel that is not ON is not computed by the kernel.
  obtain ⟨firstOff, hfirst⟩ : ∃ search, search = @List.find? Nat := ⟨_, rfl⟩
  rw [← hfirst] at hpass
  split at hpass
  next => cases hpass
  next x hx =>
    refine ⟨x, hx, ?_⟩
    extract_lets grain count chans at hpass
    split at hpass
    next => cases hpass
    next =>
      split at hpass
      next => cases hpass
      next => cases hpass
      next =>
        split at hpass
        next =>
          split at hpass
          next => cases hpass
          next =>
            split at hpass
            next => cases hpass
            next =>
              split at hpass
              next => cases hpass
              next =>
                split at hpass
                next => cases hpass
                next => exact checkBody_pass hpass
        next => exact checkBody_pass hpass

/-! ## Contexts whose command has ended (R120, R126) -/

theorem Dev.flight_congr {d e : Dev} (h : e.cqe = d.cqe) (ctx : Nat) : e.flight ctx = d.flight ctx := by
  unfold Dev.flight; rw [h]

theorem Dev.flight_modFlight (d : Dev) (c : Nat) (g : Flight → Flight) (ctx : Nat) :
    (d.modFlight c g).flight ctx = if ctx = c then (d.flight ctx).map g else d.flight ctx :=
  Tab.find_mod d.cqe.flights c ctx g

/-- A change of dispatched commands dispatches none. -/
theorem Dev.flight_modFlight_none {d : Dev} {ctx : Nat} (h : d.flight ctx = none) (c : Nat) (g : Flight → Flight) :
    (d.modFlight c g).flight ctx = none := by
  rw [Dev.flight_modFlight, h]; exact ite_self _

theorem Dev.flight_modWrite_none {d : Dev} {ctx : Nat} (h : d.flight ctx = none) (c : Nat) (g : WriteJob → WriteJob) :
    (d.modWrite c g).flight ctx = none :=
  Dev.flight_modFlight_none h c _

theorem Dev.flight_finishWith (d : Dev) (c : Nat) (msg : Bytes) (ctx : Nat) :
    (d.finishWith c msg).flight ctx = if ctx = c then none else d.flight ctx := by
  unfold Dev.finishWith
  split
  next hnone =>
    by_cases hc : ctx = c
    · rw [if_pos hc, hc]; exact hnone
    · rw [if_neg hc]
  next f _ =>
    extract_lets left ended
    have hended : ended.flight ctx = if ctx = c then none else d.flight ctx := Tab.find_del d.cqe.flights c ctx
    split
    · exact hended
    · exact (Dev.flight_congr (Dev.answer_keeps.same .cqe rfl) ctx).trans hended

theorem Dev.flight_finish (d : Dev) (c status version detail ctx : Nat) :
    (d.finish c status version detail).flight ctx = if ctx = c then none else d.flight ctx := by
  unfold Dev.finish
  split
  next hnone =>
    by_cases hc : ctx = c
    · rw [if_pos hc, hc]; exact hnone
    · rw [if_neg hc]
  next f _ => rw [Dev.flight_finishWith, Dev.flight_congr (Dev.countStatus_keeps.same .cqe rfl)]

theorem Dev.flight_finishOk_none {d : Dev} {ctx : Nat} (h : d.flight ctx = none) (c version : Nat) (param data : Bytes) :
    (d.finishOk c version param data).flight ctx = none := by
  unfold Dev.finishOk Dev.finishData
  split
  · exact h
  · rw [Dev.flight_finishWith, h]; exact ite_self _

theorem Dev.flight_failWrite_none {d : Dev} {ctx : Nat} (h : d.flight ctx = none) (c status version detail : Nat) :
    (d.failWrite c status version detail).flight ctx = none := by
  unfold Dev.failWrite
  extract_lets job segs stranded media freed counted
  have hstranded : stranded.cqe = d.cqe := by
    unfold stranded
    clear_value job
    split
    · exact Dev.strand_keeps.same .cqe rfl
    · rfl
  have hcounted : counted.flight ctx = none :=
    (Dev.flight_congr ((Dev.countN_keeps.same .cqe rfl : counted.cqe = freed.cqe).trans hstranded) ctx).trans h
  split
  · exact Dev.flight_finishOk_none hcounted ..
  · rw [Dev.flight_finish, hcounted]; exact ite_self _

theorem Dev.flight_assignCz_none {d : Dev} {ctx : Nat} (h : d.flight ctx = none) (x : EngineHold) :
    (d.assignCz x).flight ctx = none := by
  unfold Dev.assignCz
  split
  · exact h
  · split
    · exact h
    · split
      · exact (Dev.flight_congr (Dev.count_keeps.same .cqe rfl) ctx).trans (Dev.flight_modWrite_none h ..)
      · split
        · exact Dev.flight_failWrite_none h ..
        · split
          · exact h
          · exact Dev.flight_modWrite_none h ..

theorem Dev.flight_assignAe_none {d : Dev} {ctx : Nat} (h : d.flight ctx = none) (x : EngineHold) :
    (d.assignAe x).flight ctx = none := by
  have hdraw : d.drawCtr.2.flight ctx = none := (Dev.flight_congr (Dev.drawCtr_keeps.same .cqe rfl) ctx).trans h
  unfold Dev.assignAe
  extract_lets seals
  split
  · exact h
  · split
    · exact Dev.flight_failWrite_none h ..
    · exact h
  · exact h
  · split
    · exact h
    · split
      next e hctr => exact Dev.flight_failWrite_none (by rwa [hctr] at hdraw) ..
      next c e hctr =>
        rw [hctr] at hdraw
        exact Dev.flight_modWrite_none (d := e.takeLane x _) hdraw ..

/-- Engines and lanes that take segments dispatch no command. -/
theorem Dev.flight_assign_none {d : Dev} {ctx : Nat} (h : d.flight ctx = none) : d.assign.flight ctx = none := by
  unfold Dev.assign
  refine foldl_inv (P := fun e : Dev => e.flight ctx = none)
    (fun e x he => (Dev.flight_congr (Dev.assignDz_keeps.same .cqe rfl) ctx).trans he) ?_
  refine foldl_inv (P := fun e : Dev => e.flight ctx = none) (fun e x he => Dev.flight_assignAe_none he x) ?_
  exact foldl_inv (P := fun e : Dev => e.flight ctx = none) (fun e x he => Dev.flight_assignCz_none he x) h

/-! ## What a read releases (R202) -/

/-- The read that ends gives up its context. -/
theorem Dev.flight_endRead (d : Dev) (ctx : Nat) (f : Flight) (j : ReadJob) (status detail : Nat) :
    (d.endRead ctx f j status detail).flight ctx = none := by
  unfold Dev.endRead Dev.cleanEngines Dev.flight
  exact (Tab.find_del _ ctx ctx).trans (if_pos rfl)

/-- A read that fails gives up its context, whether its end is in header or in trailer form. -/
theorem Dev.flight_failRead (d : Dev) (ctx status detail : Nat) : (d.failRead ctx status detail).flight ctx = none := by
  have hfinish : (d.finish ctx status 0 detail).flight ctx = none := by rw [Dev.flight_finish, if_pos rfl]
  unfold Dev.failRead
  split
  next hnone => exact hnone
  next f _ =>
    split
    · exact hfinish
    · split
      · exact Dev.flight_endRead ..
      · exact hfinish

/-- A read of which nothing has been sent ends in header form. -/
theorem Dev.failRead_unsent {d : Dev} {ctx status detail : Nat} {f : Flight} {j : ReadJob} (hf : d.flight ctx = some f)
    (hj : f.readJob = some j) (hsent : j.sent = false) :
    d.failRead ctx status detail = (d.finish ctx status 0 detail).cleanEngines := by
  simp only [Dev.failRead, hf, hj, hsent, Bool.false_eq_true, if_false]

/-- The device once a read's release has found nothing to release: it counts no segment and no byte. -/
def Dev.releasesNone (d : Dev) (ctx : Nat) (j : ReadJob) : Dev :=
  ((d.countN (vplCnt 5) 0).health 56 0).modFlight ctx fun f => { f with job := .read j }

theorem Dev.releasesNone_keeps {d : Dev} {ctx : Nat} {j : ReadJob} :
    Keeps [.regs, .cqe, .fmm] d (d.releasesNone ctx j) :=
  Dev.modFlight_keeps.step rfl (Dev.health_keeps.step rfl (Dev.countN_keeps.step rfl .refl))

/-- The dispatched command with the segments of its read that are still at work. -/
def Flight.reading (f : Flight) (j : ReadJob) (segs : List ReadSeg) : Flight :=
  { f with job := .read { j with segs := segs } }

/-- The device with the segments of a read that are still at work, its engines and lanes held for them alone. -/
def Dev.withSegs (d : Dev) (ctx : Nat) (j : ReadJob) (segs : List ReadSeg) : Dev :=
  (d.holdOnly ctx segs).modFlight ctx fun f => f.reading j segs

theorem Dev.withSegs_keeps {d : Dev} {ctx : Nat} {j : ReadJob} {segs : List ReadSeg} :
    Keeps [.cqe, .vpl] d (d.withSegs ctx j segs) :=
  Dev.modFlight_keeps.step rfl (Dev.holdOnly_keeps.step rfl .refl)

theorem readyFront_waits {z : ReadSeg} {rest : List ReadSeg} (h : z.ready = none) :
    readyFront (z :: rest) = ([], 0, z :: rest) := by
  simp only [readyFront, h]

section
variable {d : Dev} {ctx : Nat} {f : Flight} (hf : d.flight ctx = some f)
include hf

theorem Dev.flight_withSegs (j : ReadJob) (segs : List ReadSeg) :
    (d.withSegs ctx j segs).flight ctx = some (f.reading j segs) := by
  have hheld : (d.holdOnly ctx segs).flight ctx = some f := hf
  rw [Dev.withSegs, Dev.flight_modFlight, if_pos rfl, hheld, Option.map_some]

theorem Dev.flight_releasesNone (j : ReadJob) :
    (d.releasesNone ctx j).flight ctx = some { f with job := .read j } := by
  have hcounted : ((d.countN (vplCnt 5) 0).health 56 0).flight ctx = some f := hf
  rw [Dev.releasesNone, Dev.flight_modFlight, if_pos rfl, hcounted, Option.map_some]

variable {j : ReadJob} (hj : f.readJob = some j) {z : ReadSeg} {rest : List ReadSeg}
include hj

/-- Nothing is released while the front segment has not been checked. -/
theorem Dev.releaseRead_waits (hsegs : j.segs = z :: rest) (hready : z.ready = none) (hstop : z.stop = none) :
    d.releaseRead ctx = d.releasesNone ctx j := by
  unfold Dev.releaseRead Dev.releasesNone
  simp only [hf, hj]
  rw [hsegs, readyFront_waits hready]
  simp only [List.isEmpty_cons, List.isEmpty_nil, Bool.false_eq_true, if_false, if_true, frontStop, hstop,
    List.length_nil, Nat.add_zero]
  rw [← hsegs]

/-- A front segment that has failed ends the read. -/
theorem Dev.releaseRead_fails {end_ : Nat × Nat} (hsegs : j.segs = z :: rest) (hready : z.ready = none)
    (hstop : z.stop = some end_) : d.releaseRead ctx = (d.releasesNone ctx j).failRead ctx end_.1 end_.2 := by
  unfold Dev.releaseRead Dev.releasesNone
  simp only [hf, hj]
  rw [hsegs, readyFront_waits hready]
  simp only [List.isEmpty_cons, List.isEmpty_nil, Bool.false_eq_true, if_false, if_true, frontStop, hstop,
    List.length_nil, Nat.add_zero]
  rw [← hsegs]

/-- The last segment of a read, once it has passed, ends it. -/
theorem Dev.flight_releaseRead_last {b : Bytes} (hsegs : j.segs = [z]) (hready : z.ready = some b) :
    (d.releaseRead ctx).flight ctx = none := by
  simp [Dev.releaseRead, hf, hj, hsegs, readyFront, hready, Dev.flight_endRead]

end

/-! ## A checked segment of a read (R201, R202, R274) -/

theorem makes_segmentChecked {ctx pos : Nat} {r : MediaRead} {s : State} {p : Secure → Dev → Prop}
    (h : ∀ nv, p nv (s.dev.segmentChecked ctx pos r)) : Makes (.segmentChecked ctx pos r) s p :=
  ⟨_, rfl, rfl, h _⟩

/-- A segment that has passed its checks, with what of it is to be released (R201, R204). -/
def ReadSeg.passed (x : ReadSeg) (raw : Bool) (plain stored : Bytes) : ReadSeg :=
  { x with ready := some (if raw then stored else slice plain x.off x.len) }

/-- A segment that has failed a check, with the status and DETAIL that end its read (R202). -/
def ReadSeg.failed (x : ReadSeg) (c : SegCheck) : ReadSeg := { x with stop := some (c.status x.detail) }

/-- The end of a check, and the device with what the read leaves behind, for segment `x` of a read in a context. -/
def Dev.checkedRead (d : Dev) (ctx : Nat) (x : ReadSeg) (v : Value) (r : MediaRead) : SegCheck × Dev :=
  d.checkedSeg ⟨ctx, 0, x.no⟩ x.loc v x.idx r

theorem Dev.checkedRead_keeps {d : Dev} {ctx : Nat} {x : ReadSeg} {v : Value} {r : MediaRead} :
    Keeps [.regs, .rates, .evj, .fmm] d (d.checkedRead ctx x v r).2 :=
  Dev.checkedSeg_keeps

section
variable {d : Dev} {ctx pos : Nat} {r : MediaRead} {f : Flight} {j : ReadJob} {x : ReadSeg} {v : Value}
  (hf : d.flight ctx = some f)
include hf

/-- Whatever the check leaves behind, the command of the context goes on with the segments that are still at work. -/
theorem Dev.flight_checkedRead_withSegs (segs : List ReadSeg) :
    ((d.checkedRead ctx x v r).2.withSegs ctx j segs).flight ctx =
      some (f.reading j segs) :=
  Dev.flight_withSegs ((Dev.flight_congr (Dev.checkedRead_keeps.same .cqe rfl) ctx).trans hf) j segs

variable (hj : f.job = .read j) (hx : j.segs[pos]? = some x) (hv : x.src = some v) (hready : x.ready = none) (hstop : x.stop = none)
  (hkept : d.reclaimed v = false) (hmay : d.mayCheck (v.need x.idx ⟨ctx, 0, x.no⟩) = true)
include hj hx hv hready hstop hkept hmay

theorem Dev.segmentChecked_passes {plain stored : Bytes} (hpass : (d.checkedRead ctx x v r).1 = .pass plain stored) :
    d.segmentChecked ctx pos r = (((d.checkedRead ctx x v r).2.withSegs ctx j
      (j.segs.set pos (x.passed j.raw plain stored))).releaseRead
        ctx).assign := by
  unfold Dev.checkedRead at hpass ⊢
  simp [Dev.segmentChecked, hf, hj, Dev.readChecked, hx, hv, hready, hstop, hkept, hmay, hpass, Dev.withSegs,
    Flight.reading, ReadSeg.passed]

theorem Dev.segmentChecked_fails (hfail : ∀ plain stored, (d.checkedRead ctx x v r).1 ≠ .pass plain stored) :
    d.segmentChecked ctx pos r = (((d.checkedRead ctx x v r).2.withSegs ctx j
      (j.segs.take pos ++ [x.failed (d.checkedRead ctx x v r).1])).releaseRead
        ctx).assign := by
  unfold Dev.checkedRead at hfail ⊢
  simp [Dev.segmentChecked, hf, hj, Dev.readChecked, hx, hv, hready, hstop, hkept, hmay, Dev.withSegs,
    Flight.reading, ReadSeg.failed]

/-- A segment that passes behind one that is still at work is held: nothing is sent. -/
theorem Dev.segmentChecked_behind {plain stored : Bytes} (hpass : (d.checkedRead ctx x v r).1 = .pass plain stored)
    {z : ReadSeg} {rest : List ReadSeg} (hsegs : j.segs = z :: rest) (hpos : 0 < pos) (hz : z.ready = none)
    (hzstop : z.stop = none) : ∃ e : Dev, e.sess = d.sess ∧ d.segmentChecked ctx pos r = e.assign ∧
      e.flight ctx = some (f.reading j (j.segs.set pos (x.passed j.raw plain stored))) := by
  have hsess : ∀ segs job, (((d.checkedRead ctx x v r).2.withSegs ctx j segs).releasesNone ctx job).sess = d.sess :=
    fun _ _ => (Dev.releasesNone_keeps.same .sess rfl).trans
      ((Dev.withSegs_keeps.same .sess rfl).trans (Dev.checkedRead_keeps.same .sess rfl))
  obtain ⟨n, rfl⟩ := Nat.exists_eq_add_one.mpr hpos
  have hheld := Dev.flight_checkedRead_withSegs (x := x) (v := v) (r := r) (j := j) hf
    (j.segs.set (n + 1) (x.passed j.raw plain stored))
  rw [Dev.segmentChecked_passes hf hj hx hv hready hstop hkept hmay hpass,
    Dev.releaseRead_waits hheld rfl (by rw [hsegs]; rfl) hz hzstop]
  exact ⟨_, hsess _ _, rfl, Dev.flight_releasesNone hheld _⟩

/-- The last segment of a read that passes ends it. -/
theorem Dev.flight_segmentChecked_last {plain stored : Bytes}
    (hpass : (d.checkedRead ctx x v r).1 = .pass plain stored) (hsegs : j.segs = [x]) :
    (d.segmentChecked ctx pos r).flight ctx = none := by
  obtain rfl : pos = 0 := by
    rw [hsegs] at hx
    exact Nat.lt_one_iff.mp (List.getElem?_eq_some_iff.mp hx).1
  rw [Dev.segmentChecked_passes hf hj hx hv hready hstop hkept hmay hpass]
  exact Dev.flight_assign_none
    (Dev.flight_releaseRead_last (Dev.flight_checkedRead_withSegs hf _) rfl (by rw [hsegs]; rfl) rfl)

/-- A front segment that fails ends the read with the status of its failure. -/
theorem Dev.segmentChecked_front_fails
    (hfail : ∀ plain stored, (d.checkedRead ctx x v r).1 ≠ .pass plain stored) (hpos : pos = 0) :
    ∃ e : Dev, e.sess = d.sess ∧
      e.flight ctx = some (f.reading j [x.failed (d.checkedRead ctx x v r).1]) ∧
      d.segmentChecked ctx pos r = (e.failRead ctx ((d.checkedRead ctx x v r).1.status x.detail).1
        ((d.checkedRead ctx x v r).1.status x.detail).2).assign := by
  have hheld := Dev.flight_checkedRead_withSegs (x := x) (v := v) (r := r) (j := j) hf
    (j.segs.take pos ++ [x.failed (d.checkedRead ctx x v r).1])
  rw [Dev.segmentChecked_fails hf hj hx hv hready hstop hkept hmay hfail]
  subst hpos
  rw [Dev.releaseRead_fails hheld rfl rfl hready rfl]
  exact ⟨_, (Dev.releasesNone_keeps.same .sess rfl).trans
    ((Dev.withSegs_keeps.same .sess rfl).trans (Dev.checkedRead_keeps.same .sess rfl)),
    Dev.flight_releasesNone hheld _, rfl⟩

end

/-- Settles O41: a segment that passes is held for those before it and ends the read where it is the last, and one that
fails at the front ends the read with its status. -/
theorem readSegmentsAreChecked : Obligations.ReadSegmentsAreChecked := by
  unfold Obligations.ReadSegmentsAreChecked
  refine ⟨fun d h loc k v r plain stored hpass => Dev.checkSeg_pass hpass,
    fun s ctx pos r f j x v hf hj hx hv hready hstop hkept hmay => ⟨fun plain stored hpass => ⟨?_, ?_⟩, ?_⟩⟩
  · intro z rest hsegs hpos hz hzstop
    exact makes_segmentChecked fun _ =>
      Dev.segmentChecked_behind hf hj hx hv hready hstop hkept hmay hpass hsegs hpos hz hzstop
  · intro hsegs
    exact makes_segmentChecked fun _ =>
      Dev.flight_segmentChecked_last hf hj hx hv hready hstop hkept hmay hpass hsegs
  · intro hfail hpos
    obtain ⟨e, hsess, hflight, hends⟩ :=
      Dev.segmentChecked_front_fails hf hj hx hv hready hstop hkept hmay hfail hpos
    refine makes_segmentChecked fun _ => ?_
    rw [hends]
    exact ⟨Dev.flight_assign_none (Dev.flight_failRead ..), fun hsent =>
      ⟨e, hsess, hflight, congrArg Dev.assign (Dev.failRead_unsent hflight rfl hsent)⟩⟩

end Sys2Proof.Machine
end

section
/-! PROOFS. The value pipeline: how a value is cut into segments, what becomes of a segment that an engine or a lane gives
back, and a table of contexts out of its canonical form, where a raw segment takes the bytes of another. -/

namespace Sys2Proof

/-- A table in canonical form holds one entry at a key. -/
theorem Tab.snd_eq_of_mem {α : Type} {t : Tab α} {k : Nat} {v : α} {p : Nat × α} (hwf : t.wf = true)
    (hv : t.find k = some v) (hp : p ∈ t) (hk : p.1 = k) : p.2 = v := by
  rw [Tab.wf_iff_pairwise] at hwf
  induction t with
  | nil => cases hp
  | cons q r ih =>
    obtain ⟨hq, hr⟩ := List.pairwise_cons.mp hwf
    rw [Tab.find_cons] at hv
    rcases List.mem_cons.mp hp with rfl | hp
    · rw [if_pos hk] at hv
      exact Option.some.inj hv
    · rw [if_neg (by have := hq p hp; omega)] at hv
      exact ih hr hv hp

theorem Tab.mod_congr {α : Type} {t : Tab α} {k : Nat} {v : α} {f g : α → α} (hwf : t.wf = true)
    (hv : t.find k = some v) (h : f v = g v) : t.mod k f = t.mod k g := by
  rw [Tab.mod_eq_map, Tab.mod_eq_map]
  refine List.map_congr_left fun p hp => ?_
  by_cases hk : p.1 = k
  · rw [if_pos hk, if_pos hk, Tab.snd_eq_of_mem hwf hv hp hk, h]
  · rw [if_neg hk, if_neg hk]

end Sys2Proof

namespace Sys2Proof.Machine

/-! ## Cutting a value into segments (R186) -/

/-- Pieces of equal size in order are the front of a string. -/
theorem flatMap_slice (v : Bytes) (size n : Nat) :
    ((List.range n).flatMap fun i => slice v (size * i) size) = v.take (size * n) := by
  induction n with
  | zero => simp
  | succ n ih => rw [List.range_succ, List.flatMap_append, ih, List.flatMap_singleton, slice, Nat.mul_succ, List.take_add]

/-- The segments of a value hold its bytes, in order. -/
theorem flatMap_plain_cutValue (v : Bytes) : (cutValue v).flatMap (·.plain) = v := by
  have hall : v.length ≤ 65536 * ceilDiv v.length 65536 := by unfold ceilDiv; omega
  calc (cutValue v).flatMap (·.plain)
      = (List.range (ceilDiv v.length 65536)).flatMap fun i => slice v (65536 * i) 65536 := List.flatMap_map ..
    _ = v.take (65536 * ceilDiv v.length 65536) := flatMap_slice v 65536 _
    _ = v := List.take_of_length_le hall

/-- A segment of a value is of 1 byte to 64 KiB, and its length and CRC are those of its bytes. -/
theorem of_mem_cutValue {v : Bytes} {x : SegWork} (h : x ∈ cutValue v) :
    x.plain.length = x.len ∧ 1 ≤ x.len ∧ x.len ≤ 65536 ∧ x.crc = crc32c x.plain := by
  obtain ⟨i, hi, rfl⟩ := List.mem_map.mp h
  have hlen : (slice v (65536 * i) 65536).length = min 65536 (v.length - 65536 * i) := by
    rw [slice, List.length_take, List.length_drop]
  have hbefore : 65536 * i < v.length := by
    rw [List.mem_range] at hi
    unfold ceilDiv at hi
    omega
  have hbounds : 1 ≤ (slice v (65536 * i) 65536).length ∧ (slice v (65536 * i) 65536).length ≤ 65536 := by omega
  exact ⟨rfl, hbounds.1, hbounds.2, rfl⟩

/-! ## The segment that an engine or a lane holds -/

/-- Changes that agree on the element at a place are one change. -/
theorem modify_congr {α : Type} {l : List α} {i : Nat} {x : α} {f g : α → α} (hx : l[i]? = some x) (h : f x = g x) :
    l.modify i f = l.modify i g := by
  refine List.ext_getElem? fun n => ?_
  rw [List.getElem?_modify, List.getElem?_modify]
  by_cases hn : i = n
  · simp [← hn, hx, h]
  · simp [hn]

theorem Dev.segOf_congr {d e : Dev} (hcqe : e.cqe = d.cqe) (h : EngineHold) : e.segOf h = d.segOf h := by
  unfold Dev.segOf
  rw [Dev.flight_congr hcqe]

theorem Dev.segOf_eq_some {d : Dev} {h : EngineHold} {f : Flight} {o : WOp} {x : SegWork}
    (hseg : d.segOf h = some (f, o, x)) :
    ∃ w, d.flight h.ctx = some f ∧ f.write = some w ∧ w.ops[h.op]? = some o ∧ o.segs[h.seg]? = some x := by
  unfold Dev.segOf at hseg
  split at hseg
  next => cases hseg
  next f' hf =>
    simp only [Option.bind_eq_some_iff, Option.map_eq_some_iff, Prod.mk.injEq] at hseg
    obtain ⟨w, hw, o', ho, x', hx, rfl, rfl, rfl⟩ := hseg
    exact ⟨w, hf, hw, ho, hx⟩

theorem WriteJob.modSeg_congr {w : WriteJob} {op seg : Nat} {o : WOp} {x : SegWork} {f g : SegWork → SegWork}
    (ho : w.ops[op]? = some o) (hx : o.segs[seg]? = some x) (h : f x = g x) : w.modSeg op seg f = w.modSeg op seg g := by
  have hop : ({ o with segs := o.segs.modify seg f } : WOp) = { o with segs := o.segs.modify seg g } := by
    rw [modify_congr hx h]
  unfold WriteJob.modSeg
  rw [modify_congr (g := fun o : WOp => { o with segs := o.segs.modify seg g }) ho hop]

/-- A change of the segment that an engine holds is known by what it makes of that segment alone. -/
theorem Dev.modWrite_modSeg_congr {d : Dev} {h : EngineHold} {f : Flight} {o : WOp} {x : SegWork} {a b : SegWork → SegWork}
    (hwf : d.cqe.flights.wf = true) (hseg : d.segOf h = some (f, o, x)) (hab : a x = b x) :
    (d.modWrite h.ctx fun w => w.modSeg h.op h.seg a) = d.modWrite h.ctx fun w => w.modSeg h.op h.seg b := by
  obtain ⟨w, hf, hw, ho, hx⟩ := Dev.segOf_eq_some hseg
  have hjob : f.job = .write w := by
    unfold Flight.write at hw
    split at hw
    next hjob => rw [hjob, Option.some.inj hw]
    next => cases hw
  unfold Dev.modWrite Dev.modFlight
  rw [Tab.mod_congr hwf hf]
  simp only [hjob, WriteJob.modSeg_congr ho hx hab]

/-! ## Segments that an engine or a lane gives back (R190, R191, R194) -/

theorem exec_segmentCompressed (n : Nat) (stream : Bytes) (s : State) :
    exec (.segmentCompressed n stream) s = s.act fun d => d.compressed n stream := rfl

theorem exec_segmentSealed (n : Nat) (s : State) : exec (.segmentSealed n) s = s.act fun d => d.sealed n := rfl

/-- What an engine makes of a segment inflates to the segment. -/
theorem inflate_of_czOutput {comp depth : Nat} {plain stream : Bytes} (h : czOutput comp depth plain stream = true) :
    inflate stream = some plain := by
  unfold czOutput at h
  split at h
  next => cases h
  next x hx =>
    simp only [Bool.and_eq_true, beq_iff_eq] at h
    obtain ⟨⟨⟨hbytes, -⟩, -⟩, -⟩ := h
    rw [inflate, hx, Option.map_some, hbytes]

/-- The device with a CZ engine free again (R193). -/
def Dev.freeCz (d : Dev) (n : Nat) : Dev := { d with vpl := { d.vpl with cz := d.vpl.cz.del n } }

/-- The device with an AE lane free again (R193). -/
def Dev.freeLane (d : Dev) (n : Nat) : Dev := { d with vpl := { d.vpl with ae := d.vpl.ae.del n } }

/-- A segment of an operation with its body in stored form, which goes on to a lane or to its place (R191, R194). -/
def SegWork.inForm (x : SegWork) (o : WOp) (form : Nat) (body : Bytes) : SegWork :=
  { x with form := form, body := body, stage := afterCompress o }

section
variable {s : State} {n : Nat} {h : EngineHold} {f : Flight} {o : WOp} {x : SegWork}
  (hseg : s.dev.segOf h = some (f, o, x))
include hseg

section
variable {e ng comp depth : Nat} {stream : Bytes} (hcz : s.dev.vpl.cz.find n = some h)
  (hstage : x.stage = .compressing e ng comp depth)
include hcz hstage

/-- A stream of the segment's that fits is kept, and the engine is free again. -/
theorem segmentCompressed_keeps_stream (hfits : stream.length ≤ lMax x.len ng)
    (hout : czOutput comp depth x.plain stream = true) :
    Acts (.segmentCompressed n stream) s (((s.dev.freeCz n).modWrite h.ctx fun w => w.modSeg h.op h.seg fun g =>
      g.inForm o 1 stream).assign) := by
  have hkept : s.dev.compressed n stream = ((s.dev.freeCz n).modWrite h.ctx fun w => w.modSeg h.op h.seg fun g =>
      g.inForm o 1 stream).assign := by
    simp [Dev.compressed, hcz, hseg, hstage, hfits, hout, b2n, Dev.freeCz, SegWork.inForm]
  unfold Acts
  rw [exec_segmentCompressed, State.act_next, hkept]

/-- A stream beyond L_max leaves the segment raw, in its own bytes, and the engine is free again. -/
theorem segmentCompressed_leaves_own_bytes (hlong : lMax x.len ng < stream.length) :
    Acts (.segmentCompressed n stream) s ((((s.dev.freeCz n).count (vplCnt 2)).modWrite h.ctx fun w =>
      w.modSeg h.op h.seg fun g => g.inForm o 0 g.plain).assign) := by
  have hraw : s.dev.compressed n stream = (((s.dev.freeCz n).count (vplCnt 2)).modWrite h.ctx fun w =>
      w.modSeg h.op h.seg fun g => g.inForm o 0 g.plain).assign := by
    simp [Dev.compressed, hcz, hseg, hstage, Nat.not_le.mpr hlong, b2n, Dev.freeCz, SegWork.inForm]
  unfold Acts
  rw [exec_segmentCompressed, State.act_next, hraw]

/-- In a canonical table of contexts, those bytes are the ones of the segment that the engine holds. -/
theorem segmentCompressed_leaves_raw_of_wf (hwf : s.dev.cqe.flights.wf = true) (hlong : lMax x.len ng < stream.length) :
    Acts (.segmentCompressed n stream) s ((((s.dev.freeCz n).count (vplCnt 2)).modWrite h.ctx fun w =>
      w.modSeg h.op h.seg fun g => g.inForm o 0 x.plain).assign) := by
  have hcqe : ((s.dev.freeCz n).count (vplCnt 2)).cqe = s.dev.cqe := Dev.count_keeps.same .cqe rfl
  have hheld : ((s.dev.freeCz n).count (vplCnt 2)).segOf h = some (f, o, x) := (Dev.segOf_congr hcqe h).trans hseg
  have hown := segmentCompressed_leaves_own_bytes hseg hcz hstage hlong
  rwa [Dev.modWrite_modSeg_congr (b := fun g => g.inForm o 0 x.plain) (by rwa [hcqe]) hheld rfl] at hown

/-- A stream that fits and is no output of the engine's for its segment is discarded. -/
theorem segmentCompressed_discards (hfits : stream.length ≤ lMax x.len ng)
    (hout : czOutput comp depth x.plain stream = false) : Does (.segmentCompressed n stream) s s.dev := by
  have hsame : s.dev.compressed n stream = s.dev := by simp [Dev.compressed, hcz, hseg, hstage, hfits, hout]
  unfold Does
  rw [exec_segmentCompressed, State.act_next, hsame, Secure.follow_self]

end

/-- A sealed segment is placed, and its lane is free again. -/
theorem segmentSealed_places (hae : s.dev.vpl.ae.find n = some h) (hlane : x.stage.atLane = true) :
    Acts (.segmentSealed n) s ((((s.dev.freeLane n).count (vplCnt 4)).modWrite h.ctx fun w =>
      w.modSeg h.op h.seg fun g => { g with stage := .placed }).assign) := by
  have hplaced : s.dev.sealed n = (((s.dev.freeLane n).count (vplCnt 4)).modWrite h.ctx fun w =>
      w.modSeg h.op h.seg fun g => { g with stage := .placed }).assign := by
    simp [Dev.sealed, hae, hseg, hlane, Dev.freeLane]
  unfold Acts
  rw [exec_segmentSealed, State.act_next, hplaced]

end

/-! ## One context held twice -/

/-- The operation of a PUT of some bytes, whose one segment is in CZ engine 0: NO_GAIN 16, COMP 1, DEPTH 64. -/
def putAtEngine (b : Bytes) : WOp :=
  { WOp.empty 0x02 0 1 [0x61] none b.length with
    segs := [{ SegWork.ofBytes 0 b with stage := .compressing 0 16 1 64 }] }

/-- The dispatched command that runs it. -/
def flightAtEngine (b : Bytes) : Flight :=
  { cmd :=
      { session := 0, queue := 1, tag := 7, op := 0x02, raw := false, fua := false, ns := 1, timeout := 0, param := [],
        key := [0x61], valLen := b.length, value := b, whole := true, locks := [], isWrite := true, waited := 0, cells := 0,
        broken := none, mirror := [] }
    cls := 1, order := 0, keys := [], passed := false, dead := false
    job := .write { WriteJob.start [putAtEngine b] false 0 with cut := 1 } }

/-- A table of contexts that is not in canonical form: two PUTs in context 0, of the bytes 1 and 2. CZ engine 0 holds the
segment of the context. -/
def contextTwice : State :=
  { State.reset with dev := { Dev.blank with
      cqe := { Dev.blank.cqe with flights := [(0, flightAtEngine [1]), (0, flightAtEngine [2])] }
      vpl := { Dev.blank.vpl with cz := [(0, ⟨0, 0, 0⟩)] } } }

/-- The bodies of the segments of all writes, in the order of the table of contexts. -/
def State.writeBodies (s : State) : List Bytes :=
  (s.dev.cqe.flights.filterMap fun p => p.2.write).flatMap fun w => w.ops.flatMap fun o => o.segs.map (·.body)

/-- Refutes O44: where the table of contexts names a context twice, a stream beyond L_max leaves each segment raw in its own
bytes, while the statement gives both the bytes of the first. In a table in canonical form that clause holds
(`segmentCompressed_leaves_raw_of_wf`), and the others hold in every state. -/
theorem not_pipelineStages : ¬ Obligations.PipelineStages := by
  unfold Obligations.PipelineStages
  rintro ⟨-, hstages⟩
  obtain ⟨hcompressed, -⟩ := hstages contextTwice 0 16 0 1 64 [0] ⟨0, 0, 0⟩ (flightAtEngine [1]) (putAtEngine [1])
    { SegWork.ofBytes 0 [1] with stage := .compressing 0 16 1 64 } rfl
  obtain ⟨-, hraw, -⟩ := hcompressed rfl rfl
  have hnext := hraw (by decide)
  unfold Acts at hnext
  rw [exec_segmentCompressed, State.act_next] at hnext
  have hbodies := congrArg State.writeBodies (Host.Outcome.next.inj hnext)
  exact absurd hbodies (by decide +kernel)

end Sys2Proof.Machine
end
